-- ==== Sys2Proof/Word.lean ====
section
/-! DEFINITION. The widths the manual gives the machine's words, and the sparse table by number in which the state keeps
what is there in many copies (cores, slots, lines, groups).
R3: bit 0 is the least significant bit of any field. -/

namespace Sys2Proof

/-- One byte of memory. -/
abbrev Byte := BitVec 8
/-- An instruction word (R197). -/
abbrev Word32 := BitVec 32
/-- A scalar or address register, a queue value, a system register (R210). -/
abbrev Word64 := BitVec 64
/-- A predicate register (R210). -/
abbrev Pred := BitVec 256
/-- One tile row of 256 bytes; byte i of the row is bits 8i+7 to 8i (R177, R203). -/
abbrev Row := BitVec 2048
/-- A word address: a sequencer's program counter (R197). -/
abbrev PcWord := BitVec 54

/-- A table by number that lists only the entries something has written, in rising order of their numbers. -/
abbrev Tbl (α : Type) := List (Nat × α)

end Sys2Proof
end

