-- ==== Sys2Proof/Config.lean ====
section
/-! DEFINITION. What the manual leaves to the device, and what it leaves open. Each free value is a constant without a
body, applied to the counter State.fresh: nothing constrains it (log entry 3). -/

namespace Sys2Proof.Config

/-- The free value number n: a value or a choice the manual leaves open (log entry 3). -/
opaque freeWord : Nat → BitVec 64

/-- The free choice number n among k things numbered 0 to k - 1, for k above 0. -/
def freeBelow (n k : Nat) : Nat := (freeWord n).toNat % k

/-- The free yes-or-no choice number n. -/
def freeBool (n : Nat) : Bool := (freeWord n).getLsbD 0

/-- The free byte number n. -/
def freeByte (n : Nat) : BitVec 8 := (freeWord n).setWidth 8

/-- SLH-DSA-SHA2-192s verification (FIPS 205), named by R386 and R420: public key, message, signature (log entry 4). -/
opaque slhDsaVerify : List (BitVec 8) → List (BitVec 8) → List (BitVec 8) → Bool

/-- SLH-DSA-SHA2-192s signing under the identity key that the module derives from its fused seed and MEAS0 (R421): the
measurement and the message give the 16,224 bytes of the signature, the first lowest (log entry 4). -/
opaque slhDsaSign : Nat → List (BitVec 8) → BitVec 129792

/-- The 48-byte public key of that pair (R421; log entry 4). -/
opaque identityKey : Nat → BitVec 384

/-- The certificate of that key, signed by Ovond's manufacturing key; R421 does not give its form (log entry 4). -/
opaque identityCert : Nat → List (BitVec 8)

/-- The SHA-256 of the public key fused in ROM (R386 step 3). -/
opaque romKeyHash : Nat

/-- Faulty tile banks of each die that boot maps out, counted up to 7: each takes 4 of 32 tiles (R1, R19). -/
opaque bootBanks : Nat → Nat

/-- The address of the event receiver and the contents of management flash are set from outside; the flash number of
MODID at power-on (R407). -/
opaque flashModid : BitVec 64

end Sys2Proof.Config
end

