-- ==== Sys2Proof/Syntax.lean ====
section
/-! DEFINITION. The machine's steps, one constructor of Instr for each row of the opcode table: the instructions in every
form the table lists, and the events by which the units, the host and management move the machine. -/

namespace Sys2Proof

/-- The four sequencers of a core (chapter 01, "The four sequencers and the token ring"). -/
inductive SeqId where
  | control | load | exec | store
  deriving DecidableEq, Repr

/-- A token nibble: bits [31:28] of an instruction word (R198, R199). -/
structure Tok where
  wb : Bool
  wa : Bool
  sb : Bool
  sa : Bool
  deriving DecidableEq, Repr

/-- What every instruction carries: the tokens of W0, the guard (R198), and the tokens of the extension word, all
clear where there is none (R199). -/
structure Hdr where
  t0 : Tok
  g : BitVec 4
  gn : Bool
  t1 : Tok
  deriving DecidableEq, Repr

abbrev XReg := BitVec 4
abbrev AReg := BitVec 3
abbrev PReg := BitVec 4
abbrev GReg := BitVec 4
abbrev BRing := BitVec 3
/-- A dependence counter named by an instruction: none when KV = 0 (R202). -/
abbrev Ctr := Option (BitVec 3)

/-- Integer conditions (R207, Table 4). -/
inductive ICond where
  | eq | ne | lt | ge | ltu | geu | le | gt | leu | gtu
  deriving DecidableEq, Repr

/-- Floating-point and vector conditions (R207, Table 4). -/
inductive FCond where
  | eq | ne | lt | le | gt | ge | un | ord
  deriving DecidableEq, Repr

/-- Width of sext and zext (R240). -/
inductive ExtW where
  | b | h | w
  deriving DecidableEq, Repr

/-- Element width of the predicate instructions (R247). -/
inductive PredW where
  | b | h | w | d
  deriving DecidableEq, Repr

/-- Element types, codes 0 to 10 (R208). -/
inductive ElemTy where
  | fp32 | fp16 | bf16 | i8 | i16 | i32 | i64 | u8 | u16 | u32 | u64
  deriving DecidableEq, Repr

/-- Rounding modes (R178). -/
inductive RMode where
  | rne | rtz | rdn | rup | rna | sr
  deriving DecidableEq, Repr

/-- Load sizes (R209). -/
inductive LdSize where
  | b | bu | h | hu | w | wu | d
  deriving DecidableEq, Repr

/-- Store sizes (R209, R268). -/
inductive StSize where
  | b | h | w | d
  deriving DecidableEq, Repr

/-- Full/empty qualifier: none, .fe.fc (wait, then empty), .fe.fk (wait, keep) (R209, R58). -/
inductive FEq where
  | none | fc | fk
  deriving DecidableEq, Repr

/-- Scopes (R209, R223). -/
inductive Scope where
  | seq | core | clu | die | mod | sys
  deriving DecidableEq, Repr

/-- The scope field of a command: none when it is 0 (R202). -/
abbrev OScope := Option Scope

/-- Fence covers (R227, Table 2). -/
inductive Cover where
  | all | acq | rel | st
  deriving DecidableEq, Repr

/-- A tile operand field (R203, Table 3a). -/
inductive TileOp where
  | tile (t : BitVec 5) (r : BitVec 4)
  | opd (o : BitVec 2)
  | latch
  | bcast (x : XReg)
  deriving DecidableEq, Repr

/-- Reduction operations (R206, VRED). -/
inductive RedOp where
  | add | min | max | band | bor | bxor
  deriving DecidableEq, Repr

/-- Atomic operations (R283). -/
inductive AmoOp where
  | add | min | max | band | bor | bxor | xchg | cas
  deriving DecidableEq, Repr

/-- The arrays of a matrix pair. -/
inductive Arr where
  | s | v
  deriving DecidableEq, Repr

/-- mdrain modes (R330). -/
inductive DrainMode where
  | sums | rowMax | rowSum | list
  deriving DecidableEq, Repr

/-- What a REMOTE_RESPONSE or an arriving REMOTE_ACCESS carries from another module (R43, R44, R235). -/
inductive RemoteAnswer where
  /-- the owner's translation of one remote 64 KiB page: kind (0 SO, 1 RC, 2 UN), the R, W, X, S rights and MS or node
  memory -/
  | page (asid : Nat) (page : Nat) (kind : Nat) (r w x s uncached : Bool)
  /-- the owner could not translate (PAGE reason 2) or the module cannot be reached (reason 1) -/
  | pageFail (asid : Nat) (page : Nat) (reason : Nat)
  /-- a 128-byte line for a core's LM -/
  | line (core : Nat) (key : Nat) (data : BitVec 1024)
  /-- the value an outstanding operation of a core asked for -/
  | value (core : Nat) (op : Nat) (v : BitVec 64)
  /-- bytes of the source of an engine command of a core -/
  | bytes (core : Nat) (op : Nat) (cells : List (Nat × BitVec 8))
  /-- an acknowledgement -/
  | ack (core : Nat) (op : Nat)
  /-- the operation cannot be completed: the module was lost -/
  | lost (core : Nat) (op : Nat)
  /-- the owner refused the access: cause 3 PAGE with reason 2, 4 PERM, 12 UNCORR (R44, R69) -/
  | denied (core : Nat) (op : Nat) (cause reason : Nat)
  deriving DecidableEq, Repr

/-- An access of another module to an address of this one (R43): offset in the exported region, under an address space. -/
inductive RemoteReq where
  | read (n : Nat)
  /-- instruction words (R45, R197) -/
  | fetch (n : Nat)
  | write (bytes : List (BitVec 8))
  | amo (op : AmoOp) (dword : Bool) (b c : BitVec 64)
  /-- one more in a 16-bit count of a history, saturating (R137) -/
  | count
  /-- a field of a cairn read and written, and a selection among children here (R91, R97, R343) -/
  | nodeRead (handle : BitVec 32) (off n : Nat)
  | nodeWrite (handle : BitVec 32) (off : Nat) (bytes : List (BitVec 8))
  | nodeSel (child : BitVec 32) (n sum : Nat) (c f l : BitVec 32)
  /-- a thief on another module asks the instance with this INST_ID of a launch (R32) -/
  | steal (launch level inst : Nat)
  /-- the KV unit of a die is asked: for a block's reference, a row of an append, a second-stage entry, an SBT entry
  (R119 to R122) -/
  | kvRef (die gbn : Nat) (up : Bool)
  | kvRow (die slot : Nat) (gbn : Option Nat) (row : List (BitVec 8))
  | kvSst (die gbn : Nat)
  /-- a source root of a reorder with its table (R127) -/
  | kvRoot (die : Nat) (sid : BitVec 32)
  | kvEntry (die : Nat) (sid : BitVec 32) (blk : Nat)
  /-- a launch forwarded by a module under its own number and packet address is pre-empted on a die here, with its context
  area; what a die-slot of another module writes into its context area here; instances on a die here are resumed, each with its image (R402,
  R403, R405) -/
  | preempt (origin number die pctx packet : Nat)
  | context (launch coord : Nat) (writes : List (Nat × List (BitVec 8)))
  | resume (origin number die : Nat) (insts : List (Nat × List (BitVec 8)))
  deriving DecidableEq, Repr

/-- What another participant contributes to a collective or a quadrille: its rank, its descriptor bytes and its source
bytes (R158, R159, R170). -/
structure Contribution where
  rank : Nat
  desc : List (BitVec 8)
  src : List (BitVec 8)
  lost : Bool
  deriving DecidableEq, Repr

/-- A host access through BAR2 or CXL (R236). -/
inductive HostReq where
  | read (pa : Nat) (n : Nat)
  | write (pa : Nat) (bytes : List (BitVec 8))
  deriving DecidableEq, Repr

/-- Why the decoder refuses a word: each is an ILLEGAL of R201 check 2. -/
inductive Reject where
  /-- a reserved major -/
  | major
  /-- a reserved subcode -/
  | sub
  /-- X set where forbidden or clear where required -/
  | ext
  /-- a reserved or unused field that is not zero -/
  | field
  /-- a reserved value of a code field, or a register number outside its class -/
  | code
  /-- an operand level the position does not allow (R204) -/
  | level
  deriving DecidableEq, Repr

/-- One step of the machine. Rows 0 to 243 of the opcode table are instructions: their first field is the header.
The further rows are events; their fields say where they take place and what they bring from outside. -/
inductive Instr where
  -- ALU, major 0x01 (R238, R239)
  | add (h : Hdr) (d a b : XReg)
  | addImm (h : Hdr) (d a : XReg) (imm : BitVec 28)
  | sub (h : Hdr) (d a b : XReg)
  | subImm (h : Hdr) (d a : XReg) (imm : BitVec 28)
  | mul (h : Hdr) (d a b : XReg)
  | mulImm (h : Hdr) (d a : XReg) (imm : BitVec 28)
  | mulh (h : Hdr) (d a b : XReg)
  | mulhImm (h : Hdr) (d a : XReg) (imm : BitVec 28)
  | mulhu (h : Hdr) (d a b : XReg)
  | mulhuImm (h : Hdr) (d a : XReg) (imm : BitVec 28)
  | div (h : Hdr) (d a b : XReg)
  | divImm (h : Hdr) (d a : XReg) (imm : BitVec 28)
  | divu (h : Hdr) (d a b : XReg)
  | divuImm (h : Hdr) (d a : XReg) (imm : BitVec 28)
  | rem (h : Hdr) (d a b : XReg)
  | remImm (h : Hdr) (d a : XReg) (imm : BitVec 28)
  | remu (h : Hdr) (d a b : XReg)
  | remuImm (h : Hdr) (d a : XReg) (imm : BitVec 28)
  | and (h : Hdr) (d a b : XReg)
  | andImm (h : Hdr) (d a : XReg) (imm : BitVec 28)
  | or (h : Hdr) (d a b : XReg)
  | orImm (h : Hdr) (d a : XReg) (imm : BitVec 28)
  | xor (h : Hdr) (d a b : XReg)
  | xorImm (h : Hdr) (d a : XReg) (imm : BitVec 28)
  | andn (h : Hdr) (d a b : XReg)
  | andnImm (h : Hdr) (d a : XReg) (imm : BitVec 28)
  | shl (h : Hdr) (d a b : XReg)
  | shlImm (h : Hdr) (d a : XReg) (imm : BitVec 28)
  | shr (h : Hdr) (d a b : XReg)
  | shrImm (h : Hdr) (d a : XReg) (imm : BitVec 28)
  | sra (h : Hdr) (d a b : XReg)
  | sraImm (h : Hdr) (d a : XReg) (imm : BitVec 28)
  -- ALU2, major 0x02 (R240)
  | min (h : Hdr) (d a b : XReg)
  | minImm (h : Hdr) (d a : XReg) (imm : BitVec 28)
  | max (h : Hdr) (d a b : XReg)
  | maxImm (h : Hdr) (d a : XReg) (imm : BitVec 28)
  | minu (h : Hdr) (d a b : XReg)
  | minuImm (h : Hdr) (d a : XReg) (imm : BitVec 28)
  | maxu (h : Hdr) (d a b : XReg)
  | maxuImm (h : Hdr) (d a : XReg) (imm : BitVec 28)
  | clz (h : Hdr) (d a : XReg)
  | popc (h : Hdr) (d a : XReg)
  | sext (h : Hdr) (d a : XReg) (w : ExtW)
  | zext (h : Hdr) (d a : XReg) (w : ExtW)
  | movXX (h : Hdr) (d a : XReg)
  | movXA (h : Hdr) (d : AReg) (a : XReg)
  | movAX (h : Hdr) (d : XReg) (a : AReg)
  | sel (h : Hdr) (d a b : XReg) (p : PReg)
  -- LI, CMP (R241, R242)
  | li (h : Hdr) (d : XReg) (v : BitVec 12)
  | liExt (h : Hdr) (d : XReg) (v : BitVec 40)
  | cmp (h : Hdr) (c : ICond) (d : PReg) (a b : XReg)
  | cmpImm (h : Hdr) (c : ICond) (d : PReg) (a : XReg) (imm : BitVec 28)
  -- FPU, FCMP (R243 to R246)
  | fadd (h : Hdr) (d a b : XReg)
  | faddImm (h : Hdr) (d a : XReg) (imm : BitVec 28)
  | fsub (h : Hdr) (d a b : XReg)
  | fsubImm (h : Hdr) (d a : XReg) (imm : BitVec 28)
  | fmul (h : Hdr) (d a b : XReg)
  | fmulImm (h : Hdr) (d a : XReg) (imm : BitVec 28)
  | fma (h : Hdr) (d a b : XReg)
  | fmaImm (h : Hdr) (d a : XReg) (imm : BitVec 28)
  | fmin (h : Hdr) (d a b : XReg)
  | fminImm (h : Hdr) (d a : XReg) (imm : BitVec 28)
  | fmax (h : Hdr) (d a b : XReg)
  | fmaxImm (h : Hdr) (d a : XReg) (imm : BitVec 28)
  | fcvt (h : Hdr) (d a : XReg) (src dst : ElemTy) (rm : RMode) (sat : Bool)
  | fcmp (h : Hdr) (c : FCond) (d : PReg) (a b : XReg)
  | fcmpImm (h : Hdr) (c : FCond) (d : PReg) (a : XReg) (imm : BitVec 28)
  -- PRED (R247)
  | pand (h : Hdr) (d a b : PReg)
  | por (h : Hdr) (d a b : PReg)
  | pxor (h : Hdr) (d a b : PReg)
  | pandn (h : Hdr) (d a b : PReg)
  | pmov (h : Hdr) (d a : PReg)
  | pset (h : Hdr) (w : PredW) (d : PReg) (a : XReg)
  | pcnt (h : Hdr) (w : PredW) (d : XReg) (a : PReg)
  | pfirst (h : Hdr) (w : PredW) (d a : PReg)
  -- FLOW (R249 to R252, R212)
  | br (h : Hdr) (off : BitVec 13)
  | brExt (h : Hdr) (off : BitVec 41)
  | call (h : Hdr) (off : BitVec 13)
  | callExt (h : Hdr) (off : BitVec 41)
  | brq (h : Hdr) (pol : Bool) (off : BitVec 12)
  | brqExt (h : Hdr) (pol : Bool) (off : BitVec 40)
  | loop (h : Hdr) (xc : XReg) (off : BitVec 9)
  | loopExt (h : Hdr) (xc : XReg) (off : BitVec 37)
  | jr (h : Hdr) (xa : XReg)
  | ret (h : Hdr)
  | nop (h : Hdr)
  | pool (h : Hdr) (n : BitVec 13)
  -- COUPLE (R253, R254, R256)
  | tkwB (h : Hdr) (n : BitVec 8)
  | tkwA (h : Hdr) (n : BitVec 8)
  | tksB (h : Hdr) (n : BitVec 8)
  | tksA (h : Hdr) (n : BitVec 8)
  | qpush (h : Hdr) (xa : XReg)
  | qpop (h : Hdr) (xd : XReg)
  | kwait (h : Hdr) (k : BitVec 3) (n : BitVec 8)
  -- WORK (R257, R258)
  | rnext (h : Hdr) (xd : XReg) (pa : PReg) (j : BitVec 3)
  | lvlBase (h : Hdr) (xd : XReg) (j : BitVec 3)
  | lvlLimit (h : Hdr) (xd : XReg) (j : BitVec 3)
  | lvlTrip (h : Hdr) (xd : XReg) (j : BitVec 3)
  | lvlCoord (h : Hdr) (xd : XReg) (j : BitVec 3)
  -- LDL (R248)
  | ldlW (h : Hdr) (xd : XReg) (off : BitVec 11)
  | ldlWExt (h : Hdr) (xd : XReg) (off : BitVec 39)
  | ldlD (h : Hdr) (xd : XReg) (off : BitVec 11)
  | ldlDExt (h : Hdr) (xd : XReg) (off : BitVec 39)
  -- LD, ST (R267, R268)
  | ld (h : Hdr) (xd : XReg) (a : AReg) (sz : LdSize) (fe : FEq) (k : Ctr)
  | ldOffset (h : Hdr) (xd : XReg) (a : AReg) (sz : LdSize) (fe : FEq) (k : Ctr) (off : BitVec 28)
  | st (h : Hdr) (xs : XReg) (a : AReg) (sz : StSize) (k : Ctr)
  | stOffset (h : Hdr) (xs : XReg) (a : AReg) (sz : StSize) (k : Ctr) (off : BitVec 28)
  -- REEL (R260 to R262)
  | dqpush (h : Hdr) (et : ElemTy) (pr : PReg) (tag vals : TileOp) (n : BitVec 3)
  | dqdrain (h : Hdr) (et : ElemTy) (t : BitVec 5) (row : BitVec 4) (force : Bool) (pm : PReg) (n : BitVec 3)
  | dqcnt (h : Hdr) (xd : XReg)
  -- TMEM (R270)
  | ldt (h : Hdr) (t : BitVec 5) (row nr : BitVec 4) (a : AReg) (off : BitVec 20) (fe : FEq) (k : Ctr)
  | stt (h : Hdr) (t : BitVec 5) (row nr : BitVec 4) (a : AReg) (off : BitVec 20) (k : Ctr)
  -- XFER (R272 to R276)
  | copy (h : Hdr) (a b : AReg) (c : XReg) (acq rel : OScope) (k : Ctr) (cnt : Option XReg) (fill : Option BRing)
  | gath (h : Hdr) (a b : AReg) (c : XReg) (esz : BitVec 4) (acq rel : OScope) (k : Ctr) (cnt : Option XReg) (fill : Option BRing)
  | scat (h : Hdr) (a b : AReg) (c : XReg) (esz : BitVec 4) (acq rel : OScope) (k : Ctr) (cnt : Option XReg) (fill : Option BRing)
  | pref (h : Hdr) (a : AReg) (c : XReg) (k : Ctr)
  | invr (h : Hdr) (a : AReg) (c : XReg) (k : Ctr)
  -- LMCTL (R277, R278)
  | sppin (h : Hdr) (pc : PReg) (xa xb : XReg)
  | spunp (h : Hdr) (xa xb : XReg)
  | feclr (h : Hdr) (xa xb : XReg)
  | feset (h : Hdr) (xa xb : XReg)
  -- RING (R280 to R282)
  | racq (h : Hdr) (b : BRing) (a : AReg)
  | rrel (h : Hdr) (b : BRing)
  | rwait (h : Hdr) (b : BRing) (a : AReg) (n : BitVec 7)
  | radv (h : Hdr) (b : BRing) (n : BitVec 7)
  | rcfg (h : Hdr) (b : BRing) (base : BitVec 13) (lines : BitVec 7) (slots : BitVec 7)
  -- AMO (R283); dword selects .d
  | amoAdd (h : Hdr) (dword : Bool) (a : AReg) (b c : XReg) (acq rel : OScope) (k : Ctr) (off : BitVec 18)
  | amoMin (h : Hdr) (dword : Bool) (a : AReg) (b c : XReg) (acq rel : OScope) (k : Ctr) (off : BitVec 18)
  | amoMax (h : Hdr) (dword : Bool) (a : AReg) (b c : XReg) (acq rel : OScope) (k : Ctr) (off : BitVec 18)
  | amoAnd (h : Hdr) (dword : Bool) (a : AReg) (b c : XReg) (acq rel : OScope) (k : Ctr) (off : BitVec 18)
  | amoOr (h : Hdr) (dword : Bool) (a : AReg) (b c : XReg) (acq rel : OScope) (k : Ctr) (off : BitVec 18)
  | amoXor (h : Hdr) (dword : Bool) (a : AReg) (b c : XReg) (acq rel : OScope) (k : Ctr) (off : BitVec 18)
  | amoXchg (h : Hdr) (dword : Bool) (a : AReg) (b c : XReg) (acq rel : OScope) (k : Ctr) (off : BitVec 18)
  | amoCas (h : Hdr) (dword : Bool) (a : AReg) (b c : XReg) (acq rel : OScope) (k : Ctr) (off : BitVec 18)
  -- VAMO (R284)
  | vamoAdd (h : Hdr) (dword : Bool) (a : AReg) (acq rel : OScope) (k : Ctr) (tv : BitVec 5) (rv : BitVec 4) (ti : BitVec 5) (ri : BitVec 4)
  | vamoMin (h : Hdr) (dword : Bool) (a : AReg) (acq rel : OScope) (k : Ctr) (tv : BitVec 5) (rv : BitVec 4) (ti : BitVec 5) (ri : BitVec 4)
  | vamoMax (h : Hdr) (dword : Bool) (a : AReg) (acq rel : OScope) (k : Ctr) (tv : BitVec 5) (rv : BitVec 4) (ti : BitVec 5) (ri : BitVec 4)
  | vamoAnd (h : Hdr) (dword : Bool) (a : AReg) (acq rel : OScope) (k : Ctr) (tv : BitVec 5) (rv : BitVec 4) (ti : BitVec 5) (ri : BitVec 4)
  | vamoOr (h : Hdr) (dword : Bool) (a : AReg) (acq rel : OScope) (k : Ctr) (tv : BitVec 5) (rv : BitVec 4) (ti : BitVec 5) (ri : BitVec 4)
  | vamoXor (h : Hdr) (dword : Bool) (a : AReg) (acq rel : OScope) (k : Ctr) (tv : BitVec 5) (rv : BitVec 4) (ti : BitVec 5) (ri : BitVec 4)
  | vamoXchg (h : Hdr) (dword : Bool) (a : AReg) (acq rel : OScope) (k : Ctr) (tv : BitVec 5) (rv : BitVec 4) (ti : BitVec 5) (ri : BitVec 4)
  | vamoCas (h : Hdr) (dword : Bool) (a : AReg) (acq rel : OScope) (k : Ctr) (tv : BitVec 5) (rv : BitVec 4) (ti : BitVec 5) (ri : BitVec 4)
  -- SYNC (R227, R286 to R288)
  | fence (h : Hdr) (sc : Scope) (k : BitVec 3) (cv : Cover)
  | fwait (h : Hdr)
  | wait4 (h : Hdr) (xa : XReg) (n : BitVec 2)
  | bexp (h : Hdr) (xa : XReg)
  | bwait (h : Hdr) (sc : Scope) (xa : XReg)
  -- VARITH to VRAND (R294 to R307)
  | vadd (h : Hdr) (et : ElemTy) (sat : Bool) (d a b : TileOp)
  | vsub (h : Hdr) (et : ElemTy) (sat : Bool) (d a b : TileOp)
  | vmul (h : Hdr) (et : ElemTy) (sat : Bool) (d a b : TileOp)
  | vfma (h : Hdr) (et : ElemTy) (sat : Bool) (d a b : TileOp)
  | vmin (h : Hdr) (et : ElemTy) (d a b : TileOp)
  | vmax (h : Hdr) (et : ElemTy) (d a b : TileOp)
  | vabs (h : Hdr) (et : ElemTy) (sat : Bool) (d a : TileOp)
  | vneg (h : Hdr) (et : ElemTy) (sat : Bool) (d a : TileOp)
  | vcmp (h : Hdr) (c : FCond) (et : ElemTy) (d : PReg) (a b : TileOp)
  | vsel (h : Hdr) (et : ElemTy) (d a b : TileOp) (p : BitVec 3)
  | vmov (h : Hdr) (et : ElemTy) (d a : TileOp)
  | vand (h : Hdr) (et : ElemTy) (d a b : TileOp)
  | vor (h : Hdr) (et : ElemTy) (d a b : TileOp)
  | vxor (h : Hdr) (et : ElemTy) (d a b : TileOp)
  | vlop3 (h : Hdr) (table : BitVec 8) (d a b : TileOp)
  | vshl (h : Hdr) (et : ElemTy) (d a b : TileOp)
  | vshr (h : Hdr) (et : ElemTy) (d a b : TileOp)
  | vsra (h : Hdr) (et : ElemTy) (d a b : TileOp)
  | vfunl (h : Hdr) (et : ElemTy) (d a b : TileOp)
  | vfunr (h : Hdr) (et : ElemTy) (d a b : TileOp)
  | vrot (h : Hdr) (et : ElemTy) (d a b : TileOp)
  | vperm (h : Hdr) (et : ElemTy) (d a b : TileOp)
  | vbcast (h : Hdr) (et : ElemTy) (d a b : TileOp)
  | vcvt (h : Hdr) (dst src : ElemTy) (sat : Bool) (rm : RMode) (d a : TileOp)
  | vpack (h : Hdr) (rm : RMode) (d a : TileOp) (g : GReg)
  | vunpk (h : Hdr) (d a : TileOp) (g : GReg)
  | vred (h : Hdr) (op : RedOp) (et : ElemTy) (sat : Bool) (d a : TileOp)
  | vexp (h : Hdr) (et : ElemTy) (d a : TileOp)
  | vlog (h : Hdr) (et : ElemTy) (d a : TileOp)
  | vrcp (h : Hdr) (et : ElemTy) (d a : TileOp)
  | vrsq (h : Hdr) (et : ElemTy) (d a : TileOp)
  | vrng (h : Hdr) (et : ElemTy) (d : TileOp)
  | vbern (h : Hdr) (d : PReg) (a : TileOp)
  -- RLIST, VSFC (R308 to R312)
  | rlcfg (h : Hdr) (t : BitVec 5) (row : BitVec 4) (xa xb : XReg)
  | rlins (h : Hdr) (t : BitVec 5) (n : BitVec 4) (a : TileOp) (xb : XReg)
  | rlmrg (h : Hdr) (t : BitVec 5) (n : BitVec 4) (xb : XReg)
  | rlthr (h : Hdr) (t : BitVec 5) (n : BitVec 4) (xb : XReg)
  | rlrd (h : Hdr) (d : TileOp) (t : BitVec 5) (n : BitVec 4)
  | vsfc (h : Hdr) (hilbert : Bool) (dims : BitVec 2) (d : TileOp) (t : BitVec 5) (r : BitVec 4)
  -- STREAM, LEASE, matrix (R319 to R331)
  | gset (h : Hdr) (g : GReg) (a : AReg) (off : BitVec 18)
  | gadv (h : Hdr) (g : GReg) (xb xc : XReg)
  | mlease (h : Hdr) (lvl : BitVec 2) (k : Ctr)
  | mfree (h : Hdr)
  | mloadb (h : Hdr) (g : GReg) (arr : Arr) (nfold : Bool) (f : BitVec 2) (acq : OScope) (k : Ctr)
  | mmul (h : Hdr) (ga : Option GReg) (arr : Arr) (init ragged : Bool) (fe : FEq) (list : Option (XReg × BitVec 6)) (bound : Option XReg) (acq : OScope) (k : Ctr)
  | mattn (h : Hdr) (gq gk gv : GReg) (xd : XReg) (fe : FEq) (acq : OScope) (k : Ctr)
  | mdrainTile (h : Hdr) (arr : Arr) (alt : Bool) (mode : DrainMode) (t : BitVec 5) (row nr : BitVec 4) (xa : XReg) (acq : OScope) (k : Ctr)
  | mdrainMemory (h : Hdr) (arr : Arr) (alt : Bool) (mode : DrainMode) (cnt : Option XReg) (xa : XReg) (b : AReg) (xc : XReg) (acq rel : OScope) (k : Ctr)
  | mswap (h : Hdr) (arr : Arr)
  | mchain (h : Hdr) (n : BitVec 2)
  | mshape (h : Hdr) (xa : XReg) (pc : PReg)
  -- ENGINE, KV (R332, R333)
  | sample (h : Hdr) (xa xb : XReg) (acq rel : OScope) (k : Ctr)
  | beamsel (h : Hdr) (xa xb : XReg) (acq rel : OScope) (k : Ctr)
  | kvapp (h : Hdr) (xc xa : XReg) (b : AReg) (acq rel : OScope) (k : Ctr)
  | kvappNew (h : Hdr) (xc : XReg) (a : AReg) (acq rel : OScope) (k : Ctr)
  | kvappDrop (h : Hdr) (xa : XReg) (acq rel : OScope) (k : Ctr)
  | kvmap (h : Hdr) (xc xa xb : XReg) (pd : PReg) (acq rel : OScope) (k : Ctr)
  -- TASK, NODE, BALLOT (R334 to R346)
  | tspawn (h : Hdr) (xc xa : XReg) (pd : PReg) (die : Option XReg) (rel : OScope)
  | tpop (h : Hdr) (xc xa : XReg) (pd : PReg) (acq : OScope)
  | trepri (h : Hdr) (xa xb : XReg) (pd : PReg)
  | tcancel (h : Hdr) (xa : XReg) (pd : PReg) (module : Option XReg) (k : Ctr)
  | tcont (h : Hdr) (xc xa xb : XReg) (pd : PReg) (rel : OScope)
  | tdone (h : Hdr) (pd : PReg) (row : Option XReg) (rel : OScope)
  | cpoint (h : Hdr) (pd : PReg)
  | gnewPlain (h : Hdr) (xc xa : XReg) (pd : PReg)
  | gnewRope (h : Hdr) (xc xa : XReg) (pd : PReg) (xb : XReg)
  | gnewSib (h : Hdr) (xc xa : XReg) (pd : PReg)
  | gnewQ (h : Hdr) (xc xa : XReg) (pd : PReg)
  | nalloc (h : Hdr) (xc xa : XReg) (pd : PReg) (die : Option XReg)
  | nallocFree (h : Hdr) (xa xb : XReg) (pd : PReg)
  | nrd (h : Hdr) (xc xa : XReg) (off : BitVec 6) (dword : Bool) (acq : OScope)
  | nwr (h : Hdr) (xa xb : XReg) (off : BitVec 6) (dword : Bool) (rel : OScope) (k : Ctr)
  | nvloss (h : Hdr) (xa xb : XReg) (acq : OScope) (k : Ctr)
  | nbackup (h : Hdr) (neg : Bool) (xa xb xc : XReg) (acq : OScope) (k : Ctr)
  | nsel (h : Hdr) (xc xa xb : XReg) (pd : PReg)
  | ballot (h : Hdr) (abst : Bool) (xc xa : XReg) (rel : OScope)
  -- FABRIC (R347, R348)
  | collAr (h : Hdr) (xa : XReg) (acq rel : OScope) (k : Ctr)
  | collAg (h : Hdr) (xa : XReg) (acq rel : OScope) (k : Ctr)
  | collRs (h : Hdr) (xa : XReg) (acq rel : OScope) (k : Ctr)
  | collA2a (h : Hdr) (xa : XReg) (acq rel : OScope) (k : Ctr)
  | repart (h : Hdr) (xa : XReg) (acq rel : OScope) (k : Ctr)
  | disp (h : Hdr) (xc xa xb : XReg) (pd : PReg) (t : BitVec 3)
  | dispMb (h : Hdr) (t : BitVec 3) (k : Ctr)
  -- GRAPH (R349 to R351)
  | gparm (h : Hdr) (xa xb : XReg) (n : BitVec 5) (rel : OScope)
  | gparmReplay (h : Hdr) (xb : XReg) (rel : OScope)
  | hring (h : Hdr) (flush drop : Bool) (xa xb : XReg) (rel : OScope) (k : Ctr)
  | time (h : Hdr) (xc : XReg)
  -- SYS (R353 to R356)
  | trap (h : Hdr) (n : BitVec 8)
  | eret (h : Hdr)
  | sysrd (h : Hdr) (xd : XReg) (reg : BitVec 8)
  | syswr (h : Hdr) (reg : BitVec 8) (xs : XReg)
  | yield (h : Hdr)
  | idle (h : Hdr) (xa : XReg)
  | bkpt (h : Hdr) (n : BitVec 8)
  -- BIVOUAC (R264, R265)
  | spbeg (h : Hdr) (xa xb : XReg)
  | spcom (h : Hdr)
  | spabt (h : Hdr)
  -- asynchronous causes at an instruction boundary (R269, R362, R358)
  | uncorrTrap (core : Nat) (q : SeqId)
  | engineTrap (core : Nat)
  | timer (core : Nat) (q : SeqId)
  -- completions of a core's outstanding operations (R255)
  | loadReturn (core op : Nat)
  | storePerform (core op : Nat)
  | atomicPerform (core op : Nat)
  | fenceComplete (core op : Nat)
  | xferComplete (core op : Nat)
  | wait4Check (core : Nat) (q : SeqId)
  | bivouacCopyDone (core : Nat)
  -- launches (R20 to R25, R32)
  | admission (die : Nat)
  | startHoldEnd (die : Nat) (launch : Nat)
  | instanceEnd (core : Nat)
  | launchAbort (die : Nat) (launch : Nat) (code : Nat)
  | stealRequest (core : Nat) (level : BitVec 3)
  | stealGrant (core : Nat) (level : BitVec 3)
  -- the matrix pair (R34 to R37, R317)
  | belayGrant (cluster : Nat)
  | belayRunEnd (cluster : Nat)
  | tileTaskIssue (cluster : Nat) (arr : Arr)
  | tileTaskComplete (cluster : Nat) (arr : Arr)
  -- engines (R128, R125)
  | samplerRequest (die : Nat)
  | beamRequest (die : Nat)
  -- tree engine and batch former (R75 to R106)
  | evalHandoff (die : Nat)
  | binWindowExpiry (die bin : Nat)
  | binLaunch (die : Nat)
  | sweep (die : Nat)
  | remoteTref (raise : Bool) (handle : BitVec 32)
  | remoteTcancel (group : BitVec 16)
  | tcancelComplete (core op : Nat)
  | groupFree (group : Nat)
  | walkComplete (core op : Nat)
  /-- for an issuer: its module, core and operation; with the steps left, if bounded, and the number of the next (R95) -/
  | remoteWalk (issuer : Nat × Nat × Nat) (backup neg : Bool) (handle : BitVec 32) (v : BitVec 64)
      (togo : Option Nat × Nat)
  -- KV unit (R120 to R122)
  | kvBroadcast (sid : BitVec 32) (blk : Nat) (entry : BitVec 64) (epoch : BitVec 32)
  | sbtFetch (sid : BitVec 32) (blk : Nat) (entry : BitVec 64) (epoch : BitVec 32)
  | sstLookup (core op : Nat) (addr : BitVec 64) (tier : BitVec 2) (valid : Bool)
  /-- with the block that a module of the shard set has allocated, and its tier -/
  | kvPlace (core op : Nat) (block : Option (BitVec 28 × BitVec 2))
  -- collectives (R163, R174)
  | collectiveComplete (setId : Nat) (n : Nat) (others : List Contribution)
  | repartComplete (setId : Nat) (n : Nat) (others : List Contribution)
  -- other modules (R43, R235)
  | remoteAccess (asid : Nat) (off : BitVec 43) (sup : Bool) (req : RemoteReq)
  | remoteResponse (ans : RemoteAnswer)
  -- graphs and host rings (R141 to R149)
  | graphNodeStart (die slot : Nat)
  | graphNodeComplete (die slot : Nat)
  | nowaitWorkEnd (die slot idx : Nat)
  | waitNodeTimeout (die slot : Nat)
  | hostRingTimer (die ring : Nat)
  -- pre-emption (R355, R402)
  | preemptTimeout (die : Nat)
  | preemptSave (die : Nat)
  -- the host (R383 to R405)
  | hlaunch (die : Nat) (value : BitVec 64)
  | labort (die : Nat) (value : BitVec 64)
  | preq (die : Nat) (value : BitVec 64)
  | resume (die : Nat) (value : BitVec 64)
  | greplay (die slot : Nat)
  | gabort (die slot : Nat)
  | hrccntWrite (die ring : Nat) (value : BitVec 64)
  | hrcfgWrite (die ring : Nat) (value : BitVec 64)
  | tlbiOnePage (asid : BitVec 6)
  | tlbiOneSpace (asid : BitVec 6)
  | tlbiAll
  | tlbiDone
  | keyLoad (slot : BitVec 12)
  | keyRetire (slot : BitVec 12)
  | keyErase (slot : BitVec 12)
  | keyBind (slot : BitVec 12) (group : BitVec 16)
  | keyUnbind (slot : BitVec 12)
  | dispatchTableWrite (die : Nat) (t : BitVec 3) (off : Nat) (value : BitVec 64)
  | hostApertureAccess (req : HostReq)
  | registerWrite (off : Nat) (value : BitVec 64)
  | resetctlModule
  | resetctlFunction
  | pcieFlr
  | powerOn
  | modidTimeout
  -- management (R406 to R421)
  | mctpRead (hostBinding : Bool) (off : Nat)
  | mctpWrite (hostBinding : Bool) (off : Nat) (value : BitVec 64)
  | attest (nonce : BitVec 256)
  | cntclr (value : BitVec 64)
  | pcapWrite (value : BitVec 64)
  | pfloorWrite (value : BitVec 64)
  | modidWrite (value : BitVec 64)
  | failedClear (die : Nat) (t : BitVec 3) (expert : Nat)
  | requestUpdate (hostBinding : Bool)
  | firmwareImageTransfer (off : Nat) (bytes : List (BitVec 8))
  | verifyComplete
  | activateFirmware (svnRaise : Bool)
  | platformEventMessage
  | arbiterPeriod (sram hbm links vector arrays : Nat)
  | thermalTrip (die : Nat)
  | thermalClear (die : Nat)
  | ageRefresh (die : Nat) (value : BitVec 64)
  | eolRecompute (months : BitVec 16)
  | heartbeat (die : Nat)
  | heartbeatAnswer (die : Nat) (module : BitVec 12)
  | timeLock
  | timeUnlock
  | portDown (port : Nat)
  | portRetrain (port : Nat) (lanes : BitVec 4) (nport : BitVec 4) (nmod : BitVec 12)
  | routeRecompute (reachable : List (BitVec 12))
  | idleTimeout (core : Nat) (q : SeqId)
  | mdrainComplete (core op : Nat)
  | managementModuleReset
  | setEventReceiver (receiver : Nat)
  | farTierHostWrite (ha : Nat) (bytes : List (BitVec 8))
  /-- with the launch's die-slots, this one's place among them, and the origin's module and number for the launch -/
  | launchForward (die : Nat) (packet : List (BitVec 8)) (place : List (BitVec 16) × Nat) (origin : Nat × Nat)
  deriving DecidableEq, Repr

end Sys2Proof
end

