-- ==== Sys2Proof/Machine/State.lean ====
section
/-! DEFINITION. Everything the manual gives the machine to hold, as plain data, and the machine right after power-on.
Tables (Tbl) list only what something has written; an unlisted entry reads as the default its accessor names. -/

namespace Sys2Proof.Machine

/-! ## Sequencers and cores -/

/-- The two AES-256 keys of a slot, data key in the low half (R391). -/
abbrev KeyMat := BitVec 512

/-- Where an access performs. -/
inductive Place where
  | dev (pa : Nat)
  | scratch (off : Nat)
  | remote (module off : Nat)
  deriving DecidableEq, Repr

/-- A translated address: kind 0 SO, 1 RC, 2 UN; whether LM caches it; the key material it was translated under (R46,
R391). -/
structure Xl where
  place : Place
  kind : Nat
  cached : Bool
  key : Option KeyMat
  deriving DecidableEq, Repr

/-- Why a sequencer sleeps without issuing (R233, R356). -/
inductive Sleep where
  /-- not asleep -/
  | none
  /-- in wait4 with these armed words: address, expected value, place (R233) -/
  | wait4 (armed : List (Word64 × Word64 × Xl))
  /-- wait4 has been woken and returns this index (R233) -/
  | woken (idx : Nat)
  /-- in idle until the time held at issue (R356) -/
  | idle (till : Word64)
  /-- idle has been woken and returns this value (R356) -/
  | idleDone (v : Nat)
  deriving DecidableEq, Repr

/-- The causes of a trap (R358 Table 7). -/
inductive Cause where
  | illegal | misalign | page | perm | rngWrap | scaleShort | nanPriority | lease | tilecap | soft | bkpt | uncorr
  | engine | timer
  deriving DecidableEq, Repr

/-- What a trap brings: the cause, TRAPVAL, TRAPPC, element mask, WDONE and SDONE. -/
structure TrapInfo where
  cause : Cause
  val : Word64
  pc : PcWord
  mask : Pred
  wdone : Bool
  sdone : Bool
  deriving DecidableEq, Repr

/-- Why an access fails after its instruction has issued: bad data, PAGE with a reason, or PERM at the owner (R44, R69). -/
inductive Late where
  | uncorr
  | page (reason : Nat)
  | perm
  deriving DecidableEq, Repr

/-- A failure pending at a sequencer's next boundary: the failing address and the consuming instruction's word address
(R269). -/
structure Uncorr where
  addr : Word64
  pc : PcWord
  /-- elements performed, and whether the signals have been (R285, R359) -/
  mask : Pred
  sdone : Bool
  why : Late
  deriving DecidableEq, Repr

/-- What an instruction that could otherwise issue waits for: full granules of the scratch window (first offset and bytes,
R58), a free slot of a ring (R281), or a range to steal (R257). -/
inductive Waiting where
  | none
  | full (ranges : List (Nat × Nat))
  | slot (ring : Nat)
  /-- the victims' answers for a level (R32) -/
  | range (level : Nat)
  deriving DecidableEq, Repr

/-- One sequencer (R210, R354, R357). -/
structure Seqr where
  pc : PcWord
  ended : Bool
  x : Vector Word64 16
  a : Vector Word64 8
  p : Vector Pred 16
  /-- newest first, at most 16 (R210) -/
  rstack : List PcWord
  /-- STATUS bits: RNGW OVF SAT INV INX (R354 Table 5) -/
  sticky : BitVec 5
  timen : Bool
  sup : Bool
  psup : Bool
  intrap : Bool
  trapCause : BitVec 8
  trapAsync : Bool
  wdone : Bool
  sdone : Bool
  trapVal : Word64
  trapPc : PcWord
  trapMask : Pred
  tvec : PcWord
  timecmp : Word64
  sscr0 : Word64
  sscr1 : Word64
  /-- eret has executed and the first instruction after it has not (R360) -/
  afterEret : Bool
  sleep : Sleep
  /-- set at each attempt to issue (R58, R279) -/
  waitsOn : Waiting
  uncorr : Option Uncorr
  /-- stopped part-way: the operation that performs what precedes the fault, and the trap taken after it (R47, R285) -/
  partTrap : Option (Nat × TrapInfo)
  /-- stopped for pre-emption at a stopping point (R355) -/
  stopped : Bool
  deriving DecidableEq, Repr

/-- One edge of the token ring, from a sequencer to the one after it (R27). -/
structure Edge where
  fwd : Nat
  bwd : Nat
  queue : List Word64
  deriving DecidableEq, Repr

/-- The list state of a tile (R152). -/
structure ListState where
  k : Nat
  row0 : Nat
  nl : Nat
  nans : Nat
  deriving DecidableEq, Repr

/-- A buffer ring (R279). -/
structure Ring where
  base : Nat
  sz : Nat
  ns : Nat
  aq : BitVec 32
  fl : BitVec 32
  cn : BitVec 32
  /-- counts of acquired slots released but not yet in FL -/
  released : List (BitVec 32)
  /-- counts of acquired slots claimed by a FILL command -/
  claims : List (BitVec 32)
  deriving DecidableEq, Repr

/-- One reel entry: tag and live values (R259). -/
structure ReelEntry where
  tag : Word32
  vals : List Word32
  deriving DecidableEq, Repr

/-- The bivouac region (R263); copying: a spbeg whose copies have not ended, and the signals it then makes (R264). -/
structure Bivouac where
  base : Nat
  len : Nat
  configured : Bool
  cur : Bool
  active : Bool
  copying : Bool
  sigB : Nat
  sigA : Nat
  deriving DecidableEq, Repr

/-- A pinned line of the scratch window: 128 bytes and eight full/empty bits (R55, R57). -/
structure PinLine where
  data : BitVec 1024
  full : BitVec 8
  deriving DecidableEq, Repr

/-- A cached line of an RC or UN page (R53): bytes, which are present, which are dirty; what a write-back needs: address
space, key material, and whether a supervisor's store is among the dirty bytes (R46). -/
structure LmLine where
  data : BitVec 1024
  valid : BitVec 128
  dirty : BitVec 128
  asid : Nat
  key : Option KeyMat
  remote : Bool
  sup : Bool
  deriving DecidableEq, Repr

/-- A loop level of a launch (R13), with its trip count resolved (R15). -/
structure Level where
  /-- 0 TEMPORAL, 1 CORES, 2 DIES -/
  kind : Nat
  lazy : Bool
  pre : Bool
  grain : Nat
  width : Nat
  trip : Nat
  deriving DecidableEq, Repr

/-- The level state of an instance (R19, R32): NEXT starts at BASE; finished: every victim has refused (R32). -/
structure LvlState where
  base : Nat
  limit : Nat
  next : Nat
  coord : Nat
  finished : Bool
  /-- a thief's next victim distance, 0 when it is not asking (R32) -/
  asking : Nat
  /-- the victim's answer on its way: the range granted, (0, 0) for a refusal (R32) -/
  reply : Option (Nat × Nat)
  deriving DecidableEq, Repr

/-- A ragged shape record that passed R115: NTOK and (TASK, NODE, PAYLOAD, START, LEN) of each entry. -/
structure ShapeRec where
  ntok : Nat
  rows : List (Word32 × Word32 × Word64 × Nat × Nat)
  deriving DecidableEq, Repr

/-- Mode of an accumulator bank (R321). -/
inductive BankMode where
  | empty
  | sum
  | list (k : Nat)
  deriving DecidableEq, Repr

/-- An accumulator bank (R321). Unlisted values read 0, unlisted maxima -inf, unlisted sums +0, unlisted pairs E. -/
structure Bank where
  mode : BankMode
  rows : Nat
  cols : Nat
  vals : Tbl Word32
  maxs : Tbl Word32
  sums : Tbl Word32
  pairs : Tbl Word64
  status : BitVec 4
  nans : Nat
  deriving DecidableEq, Repr

/-- What a B plane holds for a core (R322): the stream image, fold, the mantissa and scale bytes of every strip. -/
inductive PlaneState where
  | empty
  | loading
  | loaded
  | failed (pc : PcWord)
  deriving DecidableEq, Repr

/-- One B plane of an array as its core's last load left it (R322). -/
structure Plane where
  state : PlaneState
  g : BitVec 256
  nfold : Bool
  fold : Nat
  mant : List (List Byte)
  scale : List (List Byte)
  /-- another core's run has used the array since (R322) -/
  lost : Bool
  /-- one more than the number of the load that left it so; 0 for none -/
  load : Nat
  /-- loads that completed CANCELLED since, with their streams and folds: a command accepted after one of them finds its tile
  cancelled (R318) -/
  dead : List (Nat × BitVec 256 × Bool × Nat)
  deriving DecidableEq, Repr

/-- An engine fault record (R361). -/
structure Efr where
  cause : Nat
  reason : Nat
  maj : Nat
  seq : SeqId
  sub : Nat
  kv : Bool
  k : Nat
  inst : Nat
  pc : PcWord
  addr : Word64
  done : Nat
  group : Nat
  deriving DecidableEq, Repr

/-- An attention descriptor (R107). -/
structure AttnDesc where
  scale : Word32
  causal : Bool
  segment : Bool
  init : Bool
  norm : Bool
  nq : Nat
  nk : Nat
  kbase : Nat
  qbase : Nat
  coff : Int
  pfx : Nat
  d : Nat
  deriving DecidableEq, Repr

/-- A tile row, or another row of the execute sequencer, by number (R203). -/
abbrev RowRef := Nat × Nat

/-- A checked unit of a core (R68, R69): an 8-byte word of an LM line, of a pinned line, of an L1 line, an instruction word
held in the instruction cache, a tile row. -/
inductive Cell where
  | lm (key word : Nat)
  | pin (line word : Nat)
  | l1 (key word : Nat)
  | ic (key : Nat)
  | row (r : Nat)
  deriving DecidableEq, Repr

/-- Which transfer (R272). -/
inductive XferKind where
  | copy
  | gath (esz : Nat)
  | scat (esz : Nat)
  | pref
  | invr
  deriving DecidableEq, Repr

/-- What an accepted operation still has to do. -/
inductive OpKind where
  /-- nothing: a false-guarded operation, or one that performed at issue (R255) -/
  | null
  | load (dst : XReg) (addr : Word64) (sz : LdSize) (val : Option Word64)
  | store (addr : Word64) (w : Nat) (val : Word64)
  | ldt (t : Nat) (row : Nat) (nr : Nat) (addr : Word64) (guard : Pred) (val : Option (List Row)) (skip : Pred)
  | stt (t : Nat) (row : Nat) (nr : Nat) (addr : Word64) (guard : Pred) (skip : Pred)
  | amo (op : AmoOp) (dword : Bool) (dst : XReg) (addr : Word64) (b c : Word64)
  /-- elements still to perform, in order: element, address, place, operand, compare value; those performed (R284) -/
  | vamo (op : AmoOp) (dword : Bool) (t row : Nat) (ti ri : Nat) (els : List (Nat × Word64 × Xl × Word64 × Word64)) (mask : Pred)
  /-- the atomic of bexp (R288) -/
  | bexp (dst : XReg) (addr : Word64) (n : Word64)
  /-- a read of another module by an instruction that waits for it at issue -/
  | probe (addr : Word64)
  | fence (sc : Scope) (cv : Cover)
  /-- moves: what is left to move, as destination, source and bytes, once it is known (R272 to R274) -/
  | xfer (kind : XferKind) (dst src idx : Word64) (n : Nat) (cnt : Option Word64) (fill : Option (Nat × BitVec 32))
      (moves : Option (List (Nat × Nat × Nat)))
  | mlease
  | mloadb (g : BitVec 256) (arr : Arr) (nfold : Bool) (f : Nat) (plane : Nat)
  /-- bound: UB, and whether it lay below every threshold at acceptance (R157); peers, as launch, instance and operation: the
  receivers of a head once it has issued, and the head of a receiver once paired (R328) -/
  | mmul (ga : Option (BitVec 256)) (arr : Arr) (init : Bool) (fe : FEq) (list : Option (Nat × Word32))
      (bound : Option (Word32 × Bool)) (bank plane : Nat) (rows cols : Nat) (chain : Nat) (peers : List (Nat × Nat × Nat))
  | mattn (gq gk gv : BitVec 256) (d : AttnDesc) (shape : Option ShapeRec) (fe : FEq) (bank : Nat) (rows : Nat)
  | mdrainTile (arr : Arr) (bank : Nat) (mode : DrainMode) (t row nr : Nat) (first : Nat) (k : Nat)
  | mdrainMem (arr : Arr) (bank : Nat) (mode : DrainMode) (dst : Word64) (first n : Nat) (k : Nat) (cnt : Option Word64)
  | sample (list : Word64) (n : Nat)
  | beam (list : Word64) (n : Nat)
  | kvapp (dst : XReg) (sid : Word32) (src : Word64)
  | kvnew (dst : XReg) (src : Word64)
  | kvdrop (sid : Word32)
  | kvmap (dst : XReg) (pd : PReg) (sid : Word32) (blk : Nat)
  | tcancel (group : Nat) (module : Nat)
  | walk (backup neg : Bool) (handle : Word32) (v : Word64) (left : Option Nat) (i : Nat)
  /-- with its descriptor as read at acceptance (R347); left: once it has been matched, the writes it still makes, in order,
  and whether a participant was lost (R163) -/
  | coll (addr : Word64) (desc : List Byte) (setId : Nat) (nth : Nat) (left : Option (List (Nat × List Byte) × Bool))
  | repart (addr : Word64) (desc : List Byte) (setId : Nat) (nth : Nat) (left : Option (List (Nat × List Byte) × Bool))
  | dispMb (t : Nat)
  | hring (ring : Nat) (src : Word64) (left : Nat) (flush drop : Bool)
  | nwr (handle : Word32) (off : Nat) (dword : Bool) (v : Word64)
  deriving DecidableEq, Repr

/-- What a participant has contributed to its set's other modules: its source, the keys of its records, and how many of them got
the all-ones key (R161, R171 to R173). -/
structure Given where
  src : List Byte
  keys : List Byte
  bad : Nat
  deriving DecidableEq, Repr

/-- An accepted asynchronous operation of a core, in issue order (R255). done: completed, not yet retired. -/
structure Op where
  id : Nat
  seq : SeqId
  ctr : Option Nat
  pc : PcWord
  maj : Nat
  sub : Nat
  group : Nat
  sup : Bool
  acq : OScope
  rel : OScope
  kind : OpKind
  /-- units finished: tile tasks, requests, elements (R361) -/
  prog : Nat
  done : Bool
  /-- answer of another module it waited for (R235) -/
  answer : Option RemoteAnswer
  /-- bytes of other modules it has asked for: place and count (R235) -/
  asked : List (Nat × Nat)
  /-- writes to other modules that have not been acknowledged (R231, R235) -/
  out : Nat
  /-- ranges of pinned lines it has written whose granules turn full at its end (R232): byte of the line times 128, and bytes -/
  fills : List (Nat × Nat)
  /-- the parts of a sequencer's access that have not performed, as translated at issue: address, bytes, place (R47, R49) -/
  via : List (Nat × Nat × Xl)
  given : Option Given
  deriving DecidableEq, Repr

/-- A running copy of a kernel on one core (R16, R84, R140, R210). -/
structure Inst where
  launch : Nat
  part : Nat
  inst : Nat
  asid : Nat
  flags : BitVec 8
  ntile : Nat
  rings : BitVec 8
  levels : List Level
  lvl : List LvlState
  key : BitVec 128
  rpos : BitVec 32
  ridx : BitVec 16
  group : Nat
  curTask : Option Word32
  /-- a pre-emption of the instance is pending (R355), since this module time -/
  preempt : Option Nat
  deriving DecidableEq, Repr

/-- A service core runs firmware and no instance; every other field is the core's own. -/
structure Core where
  inst : Option Inst
  seqC : Seqr
  seqL : Seqr
  seqX : Seqr
  seqS : Seqr
  /-- control to load, load to execute, execute to store, store to control (R27) -/
  edgeC : Edge
  edgeL : Edge
  edgeX : Edge
  edgeS : Edge
  /-- tile t row r at 16 t + r; unlisted rows are zero (R210) -/
  tiles : Tbl Row
  tstat : Tbl (BitVec 4)
  lists : Tbl ListState
  o : Tbl Row
  lr : Row
  rings : Tbl Ring
  g : Tbl (BitVec 256)
  /-- banks 0, 1 of S and 2, 3 of V; flags: bank 1, 3 is current (R321) -/
  banks : Tbl Bank
  curS : Bool
  curV : Bool
  /-- planes 0, 1 of S and 2, 3 of V; last: the plane the last mloadb loaded (R322) -/
  planes : Tbl Plane
  lastS : Bool
  lastV : Bool
  pins : Tbl PinLine
  lm : Tbl LmLine
  /-- lines of other modules asked for and not come; false: the line may not be kept (R53) -/
  asked : Tbl Bool
  /-- write-backs to other modules not acknowledged: number and line (R53, R235) -/
  wbs : Tbl Nat
  /-- lines of other modules evicted while a write-back of them was out: they are sent next (R51, R53) -/
  wbq : Tbl LmLine
  /-- writes of completed operations to other modules not acknowledged: operation and how many (R144) -/
  sent : Tbl Nat
  l1 : Tbl (BitVec 1024)
  icache : Tbl Word32
  reel : List ReelEntry
  biv : Bivouac
  efq : List Efr
  spilled : Bool
  /-- ENGINE is pending at the control sequencer (R362) -/
  engPend : Bool
  leased : Bool
  level : Nat
  mBadShape : Bool
  mCancelled : Bool
  chain : Option Nat
  shape : Option ShapeRec
  ops : List Op
  nextOp : Nat
  /-- checked units that hold an uncorrectable error (R69, R412) -/
  bad : List Cell
  deriving DecidableEq, Repr

/-! ## Clusters -/

/-- The task on an array: which op, which unit, and what it will write (R36). -/
structure ArrTask where
  core : Nat
  op : Nat
  unit : Nat
  /-- values for the bank: index and word -/
  vals : List (Nat × Word32)
  maxs : List (Nat × Word32)
  sums : List (Nat × Word32)
  pairs : List (Nat × Word64)
  status : BitVec 4
  nans : Nat
  clocks : Nat
  deriving DecidableEq, Repr

/-- A cluster's belay arbiter and tile task table (R34 to R36). -/
structure Cluster where
  holder : Option Nat
  /-- commands accepted and array clocks used in the run -/
  cmds : Nat
  clocks : Nat
  /-- the holder's `mfree` has ended its run; the pair passes on with its last entry (R35, R320) -/
  freed : Bool
  /-- waiting requests: core and level -/
  waiting : List (Nat × Nat)
  /-- last holder at each level -/
  last : Tbl Nat
  /-- entries: core and operation, oldest first, at most 32 -/
  table : List (Nat × Nat)
  onS : Option ArrTask
  onV : Option ArrTask
  userS : Option Nat
  userV : Option Nat
  skips : BitVec 32
  /-- commands and clocks of the run of a core whose belay was resumed from an image, until its next grant (R41) -/
  carried : Tbl (Nat × Nat)
  deriving DecidableEq, Repr

/-! ## Tree engine, batch former, groups, ropes -/

/-- States of a task (R78 Table 2). -/
inductive TaskState where
  | free
  | queued
  | waiting
  /-- on this core -/
  | running (core : Nat)
  /-- a row of this bin -/
  | binned (bin : Nat)
  /-- a row of the launch with this number -/
  | row (launch : Nat)
  deriving DecidableEq, Repr

/-- A queue slot (R70, R71, R79). -/
structure Task where
  gen : BitVec 12
  state : TaskState
  pri : Word32
  node : Word32
  join : Word32
  group : Nat
  wset : BitVec 16
  deadline : BitVec 48
  kk : BitVec 16
  payload : Word64
  seqno : BitVec 64
  count : Nat
  cancelled : Nat
  expired : Nat
  deriving DecidableEq, Repr

/-- A weight-set registry entry as read when a bin opens (R98), with the launch packet template's bytes. -/
structure Registry where
  valid : Bool
  kaddr : Word64
  window : Nat
  rowlim : Nat
  pclass : Nat
  shape : Word64
  tmpl : Option (List Byte)
  deriving DecidableEq, Repr

/-- A bin of the batch former (R99, R100). rows: task slots in arrival order. -/
structure Bin where
  wset : Nat
  reg : Registry
  rows : List Nat
  opened : Nat
  frozen : Bool
  /-- the area its record goes to, once the write has begun; parts at other modules not answered; one was refused (R100) -/
  area : Option Nat
  out : Nat
  refused : Bool
  deriving DecidableEq, Repr

/-- One hash slot of a rope (R103). -/
structure HashSlot where
  hash : Word64
  count : Nat
  deriving DecidableEq, Repr

/-- Ballot state of a rope (R102 to R106). -/
structure Rope where
  size : Nat
  quorum : Nat
  plurality : Bool
  result : Word64
  asid : Nat
  made : Nat
  slots : List HashSlot
  others : Nat
  abst : Nat
  posts : Nat
  /-- sibling numbers that have posted or abstained, and those resolved -/
  posted : List Nat
  resolved : List Nat
  decided : Option Word64
  ended : Bool
  settled : Bool
  canc : Nat
  /-- groups the decision cancelled -/
  cancelledGroups : List Nat
  dtime : Word64
  win : Word64
  wincnt : Nat
  status : BitVec 32
  ctokens : Word64
  cclocks : Word64
  ctasks : Word64
  /-- launch, MAJ, INST, PC of the deciding instruction (R422) -/
  decider : Option (Nat × Nat × Nat × PcWord)
  deriving DecidableEq, Repr

inductive GroupKind where
  | plain
  | rope
  | sib
  deriving DecidableEq, Repr

/-- A cancel group (R81). -/
structure Group where
  parent : Nat
  depth : Nat
  alive : Bool
  kind : GroupKind
  cancelled : BitVec 32
  expired : BitVec 32
  sib : Nat
  /-- tokens drawn, array clocks spent and tasks ended CANCELLED under it, freed descendants included (R106) -/
  tokens : Nat
  clocks : Nat
  ctasks : Nat
  rope : Option Rope
  deriving DecidableEq, Repr

/-! ## Launches -/

/-- Where a launch came from. -/
inductive Origin where
  | host
  | graph (die slot node : Nat)
  | former (die : Nat) (wset area : Nat) (rows : List Nat)
  /-- forwarded from another module, under its number there -/
  | remote (module number : Nat)
  deriving DecidableEq, Repr

/-- Where a die-slot's part of a launch stands (R22 to R25, R402). -/
inductive Stage where
  | pending
  | held
  | running
  | ended
  | discarded
  | suspended
  deriving DecidableEq, Repr

/-- One die-slot of a launch. -/
structure Part where
  module : Nat
  die : Nat
  stage : Stage
  late : Bool
  /-- core and INST_ID of each instance, once reserved -/
  cores : List (Nat × Nat)
  /-- its number in DIES coordinate order (R392) -/
  coord : Nat
  deriving DecidableEq, Repr

/-- A launch (R12, R392). -/
structure Launch where
  packet : Nat
  origin : Origin
  kaddr : Nat
  asid : Nat
  pclass : Nat
  group : Nat
  deadline : Word64
  start : Word64
  evt : Word64
  fault : Word64
  irq : Bool
  key : BitVec 128
  pos : BitVec 32
  gp : List Word64
  flags : BitVec 8
  soff : List Nat
  ntile : Nat
  rings : BitVec 8
  pinb : Nat
  levels : List Level
  home : Nat
  parts : List Part
  /-- records that reached the fault area (R362); lost to FAULT 0 count too (R400) -/
  faults : Nat
  /-- the status an abort or expiry has fixed, if any -/
  abort : Option Nat
  /-- the code it has reported (R394), once complete -/
  done : Option Nat
  /-- pre-emption requested, with PCTX (R402) -/
  pctx : Option Nat
  /-- its own writes to other modules not acknowledged (R144) -/
  out : Nat
  /-- instances of other modules' die-slots that are suspended and not yet resumed (R405) -/
  suspendedInsts : List Nat
  deriving DecidableEq, Repr

/-- A launch packet whose launch has not been taken in: its checks wait for another module's answers. fwd: for a forwarded
one, its die-slots and its own place among them (R392, R393). pctx: a pre-emption has reached it, with its context area and
packet address (R402). -/
structure Arrival where
  pa : Nat
  origin : Origin
  home : Nat
  bytes : List Byte
  fwd : Option (List (Nat × Nat) × Nat)
  pctx : Option (Nat × Nat)
  deriving DecidableEq, Repr

/-- A saved instance (R404): its frame's physical address, header fields, the bytes written, and the core as saved (none of an instance that has not started). -/
structure Image where
  pa : Nat
  launch : Nat
  part : Nat
  inst : Nat
  bytes : List Byte
  core : Option Core
  /-- commands and clocks of the belay run it held (R41) -/
  run : Nat × Nat
  resumed : Bool
  deriving DecidableEq, Repr

/-! ## Graphs and host rings -/

/-- Where a graph slot's run stands (R141, R143). -/
inductive GPhase where
  | idle
  /-- the next node to start -/
  | ready (node : Nat)
  /-- a node that started at this module time and waits for other modules: its bytes, once read, and the gp registers -/
  | begun (node : Nat) (at_ : Word64) (bytes : Option (List Byte)) (gp : Tbl Word64)
  /-- a LAUNCH node waits for this launch -/
  | launch (node launch : Nat)
  /-- an ENGINE node waits for its job -/
  | engine (node job : Nat)
  /-- an HRING node waits on a full ring: records left and the next source -/
  | hring (node ring : Nat) (src : Word64) (left : Nat) (flush drop : Bool)
  | waitDrain (node : Nat) (till : Option Nat)
  /-- with the place of the word here, and whether a write to its line has found the test to hold (R143, R233) -/
  | waitWord (node : Nat) (till : Option Nat) (addr : Word64) (mask value : Word64) (op : Nat) (place : Option Xl) (met : Bool)
  /-- the run has reached its end with this code and waits for its NOWAIT work -/
  | ending (code : Nat)
  /-- its completion record has been sent to another module (R146) -/
  | recorded
  deriving DecidableEq, Repr

/-- Work of a NOWAIT node (R143). -/
structure NoWait where
  node : Nat
  evt : Word64
  stopfail : Bool
  launch : Option Nat
  job : Option Nat
  hring : Option (Nat × Word64 × Nat × Bool × Bool)
  code : Option Nat
  deriving DecidableEq, Repr

/-- A graph slot (R141, R396). -/
structure GSlot where
  gbase : Word64
  gcfg : Word64
  gcomp : Word64
  gfault : Word64
  gnodes : Nat
  gp : Tbl Word64
  iter : BitVec 32
  pending : Nat
  errs : Nat
  phase : GPhase
  /-- EVT and STOPFAIL of the node that runs -/
  evt : Word64
  stopfail : Bool
  nowait : List NoWait
  /-- a NOWAIT node with STOPFAIL ended other than COMPLETED (R145) -/
  failing : Bool
  faults : Nat
  /-- its own writes to other modules not acknowledged (R144) -/
  out : Nat
  deriving DecidableEq, Repr

/-- A host ring (R147, R398). -/
structure HRing where
  hrbase : Word64
  hrcfg : Word64
  hrpcopy : Word64
  ccnt : BitVec 32
  pcnt : BitVec 32
  drop : Nat
  pend : Nat
  /-- module time of the oldest pending record -/
  oldest : Nat
  deriving DecidableEq, Repr

/-- A job of the sampler, beam, copy or collective engine given by a graph's ENGINE node (R142, R143). -/
structure Job where
  eng : Nat
  list : Word64
  n : Nat
  next : Nat
  asid : Nat
  group : Nat
  slot : Nat
  cancelled : Bool
  failed : Bool
  expired : Bool
  done : Bool
  /-- bytes of other modules asked for, and those answered; writes to other modules not acknowledged -/
  asked : List (Nat × Nat)
  cells : List (Nat × Byte)
  out : Nat
  /-- the word an atomic at another module answered -/
  word : Option Word64
  deriving DecidableEq, Repr

/-- A sampler request that has drawn: its record, the results still to write, the history updates still to make, as address,
counts and token; whether an atomic for one at another module is out (R137). -/
structure SampAct where
  base : Nat
  fields : List (Nat × List Byte)
  hist : List (Nat × Bool × Nat)
  sent : Bool
  deriving DecidableEq, Repr

/-- A queued sampler or beam command: a core's operation, or a graph's job. -/
inductive EngRef where
  | op (core op : Nat)
  | job (job : Nat)
  deriving DecidableEq, Repr

/-- A dispatch table (R164) with its shadow vector, counts and failover entries' missed intervals (R166, R168). -/
structure DTable where
  nexp : Nat
  flags : BitVec 16
  mb : BitVec 32
  bound : List Nat
  sched : List Word64
  rate : Word32
  target : Nat
  biasaddr : Word64
  shadow : Tbl Word32
  counts : Tbl Nat
  deriving DecidableEq, Repr

/-! ## Dies -/

structure Die where
  tasks : Tbl Task
  /-- slots whose record cannot be corrected (R412) -/
  badTasks : List Nat
  seqno : BitVec 64
  stray : Nat
  bins : Tbl Bin
  bfErr : Nat
  /-- shape areas in use: 16 wset + area, to the launch that holds it, 0 while its record is being written; last area used by a weight set (R116) -/
  areas : Tbl Nat
  lastArea : Tbl Nat
  /-- allocated cairns: first record and count of each run (R91) -/
  nodes : List (Nat × Nat)
  sampler : List EngRef
  /-- what the sampler's request in progress has still to write (R128) -/
  act : Option SampAct
  beam : List EngRef
  /-- by engine, 0x16 the sampler and 0x36 the beam engine: the request it has begun, as command and number, and when (R88) -/
  begun : Tbl (EngRef × Nat × Word64)
  slots : Tbl GSlot
  jobs : Tbl Job
  nextJob : Nat
  hrings : Tbl HRing
  hlaunch : List Nat
  hlDropped : Nat
  /-- the launch and part at the head of the admission order (R25) -/
  head : Option (Nat × Nat)
  pctx : Nat
  pstatResult : Nat
  pstatDone : Bool
  pstatBusy : Bool
  dvec : BitVec 11
  wsreg : Word64
  kvrootb : Word64
  sstb : Word64
  sstn : Word64
  kvas : Word64
  collbase : Word64
  dtables : Tbl DTable
  /-- failover words by 1024 T + e; by primary module, twice the heartbeats missed in a row, plus 1 while one is out
  (R168, R419) -/
  failover : Tbl Word64
  missed : Tbl Nat
  /-- module time of the next heartbeats (R168, R419) -/
  beatAt : Nat
  /-- collective and quadrille counts per set (R158) -/
  collCount : Tbl Nat
  /-- set and number of the commands here whose source failed (R347) -/
  collFailed : List (Nat × Nat)
  tilecap : Nat
  hot : Bool
  arrgate : Word64
  vecgate : Word64
  lnkgate : Word64
  age : Word64
  deriving DecidableEq, Repr

/-! ## Module -/

/-- An address space's registers (R383). -/
structure Space where
  root : Word64
  tvec : PcWord
  en : Bool
  deriving DecidableEq, Repr

/-- A key slot (R391): its material, until it is erased, and the group it is bound to. -/
structure KeySlot where
  loaded : Bool
  key : Option KeyMat
  group : Option Nat
  deriving DecidableEq, Repr

/-- A KV root (R117), the KV unit's own copy. -/
structure KvRoot where
  btbase : Word64
  ntok : Nat
  nblk : Nat
  ref : Nat
  live : Bool
  hold : Bool
  shmod : List Nat
  shtok : List Nat
  epoch : BitVec 32
  trowb : Nat
  deriving DecidableEq, Repr

/-- A leaf translation held in a TLB (R48): the entry and the level it stood at. -/
structure TlbEntry where
  entry : Word64
  level : Nat
  deriving DecidableEq, Repr

/-- A translated remote page (R43, R44). -/
structure RemotePage where
  kind : Nat
  r : Bool
  w : Bool
  x : Bool
  s : Bool
  uncached : Bool
  /-- the PAGE reason of a failed translation; 0 while the owner has not answered -/
  fail : Option Nat
  deriving DecidableEq, Repr

/-- What leaves the module: interrupts, management events, messages to other modules. -/
inductive Msg where
  | msix (vec : Nat)
  | event (cls unit : Nat) (addr : Word64)
  | mctp (code : Nat) (value : Word64)
  | report (bytes key cert : List Byte)
  | hostRead (bytes : List Byte)
  /-- the owner's translation of a page is asked for (R43) -/
  | remotePage (module asid page : Nat)
  | remoteRead (module asid : Nat) (core op : Nat) (off n : Nat) (sup : Bool)
  | remoteFetch (module asid : Nat) (core op : Nat) (off n : Nat) (sup : Bool)
  | remoteWrite (module asid : Nat) (core op : Nat) (off : Nat) (bytes : List Byte) (sup : Bool)
  | remoteAmo (module asid : Nat) (core op : Nat) (off : Nat) (aop : AmoOp) (dword : Bool) (b c : Word64) (sup : Bool)
  | remoteCount (module asid : Nat) (core op : Nat) (off : Nat) (sup : Bool)
  | remoteTref (module : Nat) (raise : Bool) (handle : Word32) (core op : Nat)
  | nodeRead (module core op : Nat) (handle : Word32) (off n : Nat)
  | nodeWrite (module core op : Nat) (handle : Word32) (off : Nat) (bytes : List Byte)
  /-- a selection among n children from a handle on, of a parent with N + V = sum (R97) -/
  | nodeSel (module core op : Nat) (child : Word32) (n sum : Nat) (c f l : Word32)
  | remoteCancel (module : Nat) (group : Nat) (core op : Nat)
  /-- a walk goes on at another module, for an issuer: module, core, operation (R95) -/
  | remoteWalk (module : Nat) (issuer : Nat × Nat × Nat) (backup neg : Bool) (handle : Word32) (v : Word64) (left : Option Nat)
      (i : Nat)
  /-- a walk has ended, or stopped at a handle (R95) -/
  | walkDone (issuer : Nat × Nat × Nat) (stopped : Option Word32)
  | kvRef (module core op gbn : Nat) (up : Bool)
  /-- a row for a block of another module: slot, the block's number if it is placed, the row (R121) -/
  | kvRow (module core op : Nat) (slot : Nat) (gbn : Option Nat) (row : List Byte) (sup : Bool)
  | kvFetch (module core op : Nat) (sid : Word32) (blk : Nat)
  | sstAsk (module core op gbn : Nat)
  /-- REFCNT of a block, and a root with its table, for a reorder (R127) -/
  | kvCount (module core op gbn : Nat)
  | kvRoot (module core op : Nat) (sid : Word32)
  | remoteKv (module core op : Nat) (sid : Word32) (blk : Nat) (entry : Word64) (epoch : Word32)
  | remoteLaunch (module die : Nat) (launch : Nat)
  | remoteAbort (module die : Nat) (launch : Nat) (code : Nat)
  /-- a pre-emption forwarded to a die-slot of another module, with the packet's address (R402); what a die-slot here writes
  into its launch's context area there, images first and its record last (R403); a resume (R405) -/
  | remotePreempt (module die : Nat) (launch : Nat) (pctx packet : Nat)
  | remoteContext (module launch coord : Nat) (writes : List (Nat × List Byte))
  | remoteResume (module die launch : Nat) (insts : List (Nat × List Byte))
  | remoteSteal (module : Nat) (launch level inst : Nat)
  /-- what a participant contributes; an empty descriptor: it has failed (R163, R347) -/
  | collective (setId n : Nat) (desc src : List Byte)
  | heartbeat (die module : Nat)
  | remoteAnswer (ok : Bool) (bytes : List Byte)
  deriving DecidableEq, Repr

/-- An Abaod Link port (R416). -/
structure Port where
  lanes : BitVec 4
  nport : BitVec 4
  nmod : BitVec 12
  loop : Bool
  up : Bool
  deriving DecidableEq, Repr

/-- Firmware update progress (R420). -/
inductive UpdState where
  | none
  | requested
  | verified
  deriving DecidableEq, Repr

/-- The management endpoint's registers and the module's flash (R406 to R420). -/
structure Mgmt where
  modid : Word64
  pcap : Nat
  pfloor : Nat
  pcapNext : Nat
  pfloorNext : Nat
  pwr : Nat
  capped : Bool
  eol : BitVec 16
  eolwarn : BitVec 16
  eolSent : Bool
  hbp : BitVec 16
  kvdrain : Tbl Word64
  errcnt : Tbl Word64
  terr : BitVec 32
  ever : Bool
  lock : Bool
  /-- module time at which the servo's last lock was lost (R408) -/
  unlockAt : Word64
  receiver : Option Nat
  /-- PLDM events waiting: class, unit, address (R415) -/
  waiting : List (Nat × Nat × Word64)
  ports : Tbl Port
  /-- modules that some route reaches (R417) -/
  reachable : List Nat
  flash0 : List Byte
  flash1 : List Byte
  marked : Bool
  running : Bool
  svnMin : Nat
  svnRaise : Bool
  upd : UpdState
  /-- the inactive bank as it was when the update began (R420) -/
  saved : List Byte
  parity : Tbl Nat
  deriving DecidableEq, Repr

/-- An event that the machine's own units bring about, with nothing from outside: the like-named row of the opcode table. -/
inductive UnitEv where
  | loadReturn (core op : Nat)
  | storePerform (core op : Nat)
  | atomicPerform (core op : Nat)
  | fenceComplete (core op : Nat)
  | xferComplete (core op : Nat)
  | mdrainComplete (core op : Nat)
  | kvPlace (core op : Nat)
  | sstLookup (core op : Nat) (addr : Word64) (tier : BitVec 2) (valid : Bool)
  | tcancelComplete (core op : Nat)
  | walkComplete (core op : Nat)
  | foreignWalk (issuer : Nat × Nat × Nat) (backup neg : Bool) (handle : Word32) (v : Word64) (left : Option Nat) (i : Nat)
  | collectiveComplete (setId nth : Nat)
  | repartComplete (setId nth : Nat)
  | wait4Check (core : Nat) (q : SeqId)
  | idleTimeout (core : Nat) (q : SeqId)
  | stealRequest (core : Nat) (level : BitVec 3)
  | stealGrant (core : Nat) (level : BitVec 3)
  | bivouacCopyDone (core : Nat)
  | instanceEnd (core : Nat)
  | belayRunEnd (cluster : Nat)
  | belayGrant (cluster : Nat)
  | tileTaskIssue (cluster : Nat) (arr : Arr)
  | tileTaskComplete (cluster : Nat) (arr : Arr)
  | waitNodeTimeout (die slot : Nat)
  | graphNodeStart (die slot : Nat)
  | graphNodeComplete (die slot : Nat)
  | nowaitWorkEnd (die slot idx : Nat)
  | sweep (die : Nat)
  | evalHandoff (die : Nat)
  | binWindowExpiry (die bin : Nat)
  | binLaunch (die : Nat)
  | admission (die : Nat)
  | startHoldEnd (die launch : Nat)
  | samplerRequest (die : Nat)
  | beamRequest (die : Nat)
  | hostRingTimer (die ring : Nat)
  | preemptTimeout (die : Nat)
  | preemptSave (die : Nat)
  | groupFree (group : Nat)
  | tlbiDone
  | keyErase (slot : BitVec 12)
  | heartbeat (die : Nat)
  | platformEventMessage
  deriving DecidableEq, Repr

/-- Where an error of the memories arises (R68, R412, R413). -/
inductive ErrAt where
  | phys (pa : Nat)
  /-- a word of a line that the LLC holds: of HBM, or of the far tier (R62) -/
  | llc (pa : Nat)
  /-- the LLC gives up a line of this address (R69) -/
  | evict (pa : Nat)
  | cell (core : Nat) (c : Cell)
  /-- a slot of the priority queue of a die -/
  | queue (die slot : Nat)
  /-- a flit of a link port is retried, or its retries are exhausted -/
  | port (p : Nat)
  deriving DecidableEq, Repr

/-- One turn: what moves next: a sequencer, a unit of the machine, an event from outside, the passing of time. -/
inductive Turn where
  | seq (core : Nat) (q : SeqId)
  | unit (u : UnitEv)
  | event (i : Instr)
  | advance (ns : Nat)
  /-- an error arises, corrected or not (R68, R69) -/
  | error (at_ : ErrAt) (corrected : Bool)
  deriving DecidableEq, Repr

/-- The machine. -/
structure State where
  /-- what moves next; empty: a new round is laid out (log entry 2) -/
  turns : List Turn
  /-- the core and sequencer whose instruction exec runs -/
  core : Nat
  seq : SeqId
  /-- the model's own count of free values taken (log entry 3) -/
  fresh : Nat
  /-- module time, ns (R7) -/
  time : Word64
  cores : Tbl Core
  clusters : Tbl Cluster
  dies : Tbl Die
  /-- device physical memory below the far tier, canonical, unlisted bytes read 0 (R387, log entry 5) -/
  mem : List Host.Cell
  /-- host memory, which holds the far tier (R64) -/
  host : List Host.Cell
  /-- 128-byte lines that stand encrypted, and under which keys (R46, R63, R391) -/
  stamps : Tbl KeyMat
  /-- checked units that hold an uncorrectable error, as base address and bytes: codewords of HBM, words of vaults, of node
  memory and of lines in the LLC (R68, R69) -/
  bad : List (Nat × Nat)
  /-- the translations of pages that some TLB may hold, by space, level and page (R48, R49) -/
  tlb : Tbl (List TlbEntry)
  /-- sequencers that may be asleep in wait4, and units of graph slots that may wait for a word (R143, R233); the model's own (log
  entry 7) -/
  waiters : List (Nat × SeqId)
  remotePages : Tbl RemotePage
  groups : Tbl Group
  launches : Tbl Launch
  nextLaunch : Nat
  arriving : Tbl Arrival
  images : List Image
  spaces : Tbl Space
  keys : Tbl KeySlot
  /-- answers owed to other modules' cancels until retired slots are erased (R82, R86) -/
  owed : Nat
  keydata : List Word64
  keyErr : Bool
  keyLast : Nat
  tlbiva : Word64
  tlbictl : Word64
  tlbiGo : Bool
  /-- TLBIVA and TLBICTL as the invalidation in progress began (R390) -/
  tlbiRun : Word64 × Word64
  /-- by core, once the translations are dropped: the operations that used one and have not performed (R390) -/
  tlbiOps : Tbl (List Nat)
  /-- the physical pages of the range, once its translations are dropped (R390) -/
  tlbiOld : Option (List (Nat × Nat))
  aperbase : Word64
  farbase : Word64
  /-- DEVSTAT.STATE, BOOTERR, SVN (R383) -/
  boot : Nat
  booterr : Nat
  svn : Nat
  /-- MEAS0 to MEAS7, 256 bits each -/
  meas : Tbl (BitVec 256)
  /-- MOD_ID (R19) -/
  modId : BitVec 12
  roots : Tbl KvRoot
  /-- SBT cache: entry, epoch and whether it is held, by sequence id * 2^20 + block; of an entry that has been evicted the
  epoch stays, so that no older one is seen again (R118, R122) -/
  sbt : Tbl (Word64 × Word32 × Bool)
  mgmt : Mgmt
  out : List Msg
  deriving DecidableEq, Repr

/-- Why the machine stops with a fault. -/
inductive Fault where
  /-- Raised by exec of an instruction when the core it names runs no instance, or that sequencer has ended: no sequencer
  of the machine issues there (R16, R20). Safe. -/
  | notRunning
  deriving DecidableEq, Repr

/-- Why an instruction has no meaning. -/
inductive Refusal where
  /-- Raised by an arm of exec whose instruction the model has no meaning for yet. Safe. -/
  | notModelled (mnemonic : String)
  deriving DecidableEq, Repr

/-! ## Values at start and at reset -/

/-- A sequencer at instance start (R210, R357): TVEC and the level come from the address space and the core. -/
def Seqr.start (pc : PcWord) (tvec : PcWord) (sup : Bool) : Seqr where
  pc := pc
  ended := false
  x := Vector.replicate 16 0
  a := Vector.replicate 8 0
  p := Vector.replicate 16 0
  rstack := []
  sticky := 0
  timen := false
  sup := sup
  psup := false
  intrap := false
  trapCause := 0
  trapAsync := false
  wdone := false
  sdone := false
  trapVal := 0
  trapPc := 0
  trapMask := 0
  tvec := tvec
  timecmp := 0
  sscr0 := 0
  sscr1 := 0
  afterEret := false
  sleep := .none
  waitsOn := .none
  uncorr := none
  partTrap := none
  stopped := false

/-- A token edge at instance start (R27). -/
def Edge.start : Edge := ⟨0, 0, []⟩

/-- A bivouac at instance start: nothing configured (R263). -/
def Bivouac.start : Bivouac := ⟨0, 0, false, false, false, false, 0, 0⟩

/-- A core that runs nothing. -/
def Core.idle : Core where
  inst := none
  seqC := Seqr.start 0 0 false
  seqL := Seqr.start 0 0 false
  seqX := Seqr.start 0 0 false
  seqS := Seqr.start 0 0 false
  edgeC := Edge.start
  edgeL := Edge.start
  edgeX := Edge.start
  edgeS := Edge.start
  tiles := []
  tstat := []
  lists := []
  o := []
  lr := 0
  rings := []
  g := []
  banks := []
  curS := false
  curV := false
  planes := []
  lastS := true
  lastV := true
  pins := []
  lm := []
  asked := []
  wbs := []
  wbq := []
  sent := []
  l1 := []
  icache := []
  reel := []
  biv := Bivouac.start
  efq := []
  spilled := false
  engPend := false
  leased := false
  level := 0
  mBadShape := false
  mCancelled := false
  chain := none
  shape := none
  ops := []
  nextOp := 0
  bad := []

/-- An empty accumulator bank (R321). -/
def Bank.start : Bank := ⟨.empty, 0, 0, [], [], [], [], 0, 0⟩

/-- A plane nothing has loaded (R322). -/
def Plane.start : Plane := ⟨.empty, 0, false, 1, [], [], false, 0, []⟩

/-- A cluster without holder or entries. -/
def Cluster.start : Cluster := ⟨none, 0, 0, false, [], [], [], none, none, none, none, 0, []⟩

/-- A queue slot never used (R71; generation 0 at reset: log entry 6). -/
def Task.start : Task := ⟨0, .free, 0, 0, 0, 0, 0, 0, 0, 0, 0, 0, 0, 0⟩

/-- A graph slot after reset (R396). -/
def GSlot.start : GSlot := ⟨0, 0, 0, 0, 0, [], 0, 0, 0, .idle, 0, false, [], false, 0, 0⟩

/-- A host ring after reset (R398). -/
def HRing.start : HRing := ⟨0, 0, 0, 0, 0, 0, 0, 0⟩

/-- A dispatch table after reset (R383). -/
def DTable.start : DTable := ⟨0, 0, 0, [0, 0, 0, 0, 0, 0, 0, 0], [0, 0, 0, 0, 0, 0, 0, 0], 0, 0, 0, [], []⟩

/-- A die after reset (R383, R385); TILECAP is set at boot (R19). -/
def Die.start : Die where
  tasks := []
  badTasks := []
  seqno := 0
  stray := 0
  bins := []
  bfErr := 0
  areas := []
  lastArea := []
  nodes := []
  sampler := []
  act := none
  beam := []
  begun := []
  slots := []
  jobs := []
  nextJob := 0
  hrings := []
  hlaunch := []
  hlDropped := 0
  head := none
  pctx := 0
  pstatResult := 0
  pstatDone := false
  pstatBusy := false
  dvec := 0
  wsreg := 0
  kvrootb := 0
  sstb := 0
  sstn := 0
  kvas := 0
  collbase := 0
  dtables := []
  failover := []
  missed := []
  beatAt := 0
  collCount := []
  collFailed := []
  tilecap := 32
  hot := false
  arrgate := 0
  vecgate := 0
  lnkgate := 0
  age := 0

/-- A key slot after POWER (R391). -/
def KeySlot.start : KeySlot := ⟨false, none, none⟩

/-- An address space after reset (R383). -/
def Space.start : Space := ⟨0, 0, false⟩

/-- A link port after reset (R416). -/
def Port.start : Port := ⟨0, 0, 0, false, false⟩

/-- Group 0, the root: alive, of depth 1 (R81). -/
def Group.root : Group := ⟨0, 1, true, .plain, 0, 0, 0, 0, 0, 0, none⟩

/-- The management registers after POWER (R406 Table 1). -/
def Mgmt.start : Mgmt where
  modid := Config.flashModid &&& 0x1FFF
  pcap := 4000
  pfloor := 0x0C8
  pcapNext := 4000
  pfloorNext := 0x0C8
  pwr := 0
  capped := false
  eol := 0xFFFF
  eolwarn := 12
  eolSent := false
  hbp := 100
  kvdrain := []
  errcnt := []
  terr := 0xFFFF_FFFF
  ever := false
  lock := false
  unlockAt := 0
  receiver := none
  waiting := []
  ports := []
  reachable := []
  flash0 := []
  flash1 := []
  marked := false
  running := false
  svnMin := 1
  svnRaise := false
  upd := .none
  saved := []
  parity := []

/-- The machine right after a POWER reset, before the boot sequence of R386: no launch, nothing in memory, no space
enabled, every key slot FREE, STATE = BOOT (R383, R385; values without a stated reset: log entry 6). -/
def State.reset : State where
  turns := []
  core := 0
  seq := .control
  fresh := 0
  time := 0
  cores := []
  clusters := []
  dies := []
  mem := []
  host := []
  stamps := []
  bad := []
  tlb := []
  waiters := []
  remotePages := []
  groups := [(0, Group.root)]
  launches := []
  nextLaunch := 1
  arriving := []
  images := []
  spaces := []
  keys := []
  owed := 0
  keydata := [0, 0, 0, 0, 0, 0, 0, 0]
  keyErr := false
  keyLast := 0
  tlbiva := 0
  tlbictl := 0
  tlbiGo := false
  tlbiRun := (0, 0)
  tlbiOps := []
  tlbiOld := none
  aperbase := 0
  farbase := 0
  boot := 0
  booterr := 0
  svn := 0
  meas := []
  modId := 0
  roots := []
  sbt := []
  mgmt := Mgmt.start
  out := []

end Sys2Proof.Machine
end

