-- ==== Sys2Proof/Machine/Tables.lean ====
section
/-! DEFINITION. Sparse tables by number, and memory as a list of cells in one canonical form: addresses strictly rising
and no cell that holds 0, which an unlisted address reads as (log entry 5). -/

namespace Sys2Proof

/-- The entry of number n, if listed. -/
def Tbl.get? {α : Type} (t : Tbl α) (n : Nat) : Option α :=
  match t with
  | [] => none
  | (k, v) :: rest => if n = k then some v else if n < k then none else Tbl.get? rest n

/-- The entry of number n, or d. -/
def Tbl.getD {α : Type} (t : Tbl α) (n : Nat) (d : α) : α := (Tbl.get? t n).getD d

/-- Entry n becomes v; the order of numbers is kept. -/
def Tbl.set {α : Type} (t : Tbl α) (n : Nat) (v : α) : Tbl α :=
  match t with
  | [] => [(n, v)]
  | (k, u) :: rest => if n = k then (n, v) :: rest else if n < k then (n, v) :: (k, u) :: rest else (k, u) :: Tbl.set rest n v

/-- Entry n is no longer listed. -/
def Tbl.erase {α : Type} (t : Tbl α) (n : Nat) : Tbl α :=
  match t with
  | [] => []
  | (k, u) :: rest => if n = k then rest else if n < k then (k, u) :: rest else (k, u) :: Tbl.erase rest n

/-- Every listed entry mapped, with its number. -/
def Tbl.mapVals {α β : Type} (t : Tbl α) (f : Nat → α → β) : Tbl β := t.map fun e => (e.1, f e.1 e.2)

/-- The entries that pass a test. -/
def Tbl.keep {α : Type} (t : Tbl α) (f : Nat → α → Bool) : Tbl α := t.filter fun e => f e.1 e.2

/-- The byte at address a. -/
def Mem.read (m : List Host.Cell) (a : Nat) : Byte := Tbl.getD m a 0

/-- The byte at address a becomes b. -/
def Mem.write (m : List Host.Cell) (a : Nat) (b : Byte) : List Host.Cell :=
  if b = 0 then Tbl.erase m a else Tbl.set m a b

/-- n bytes from address a upwards. -/
def Mem.readN (m : List Host.Cell) (a n : Nat) : List Byte := (List.range n).map fun i => Mem.read m (a + i)

/-- Bytes stored from address a upwards. -/
def Mem.writeL (m : List Host.Cell) (a : Nat) (bs : List Byte) : List Host.Cell :=
  match bs with
  | [] => m
  | b :: rest => Mem.writeL (Mem.write m a b) (a + 1) rest

/-- The canonical form: addresses strictly rising, no cell holding 0. -/
def Memory.wf (m : List Host.Cell) : Bool :=
  match m with
  | [] => true
  | (_, b) :: [] => b != 0
  | (a, b) :: (a', b') :: rest => b != 0 && decide (a < a') && Memory.wf ((a', b') :: rest)

/-! ## Bytes and words, little-endian (R3) -/

/-- The number that bytes stand for, the first byte lowest. -/
def leNat (bs : List Byte) : Nat :=
  match bs with
  | [] => 0
  | b :: rest => b.toNat + 256 * leNat rest

/-- The n low bytes of a number. -/
def leBytes (n v : Nat) : List Byte := (List.range n).map fun i => BitVec.ofNat 8 (v / 256 ^ i)

/-- n bytes of a list from offset o; a missing byte reads 0. -/
def slice (bs : List Byte) (o n : Nat) : List Byte := (List.range n).map fun i => bs.getD (o + i) 0

/-- The little-endian field of n bytes at offset o of a record. -/
def fld (bs : List Byte) (o n : Nat) : Nat := leNat (slice bs o n)

/-- Bits [lo+n-1:lo] of a number. -/
def natBits (v lo n : Nat) : Nat := v / 2 ^ lo % 2 ^ n

/-- The least integer not below a / b (R10). -/
def ceilDiv (a b : Nat) : Nat := (a + b - 1) / b

/-- Byte i of a wide word. -/
def byteAt {w : Nat} (v : BitVec w) (i : Nat) : Byte := v.extractLsb' (8 * i) 8

/-- Byte i of a wide word becomes b. -/
def setByte {w : Nat} (v : BitVec w) (i : Nat) (b : Byte) : BitVec w :=
  (v &&& ~~~((0xFF : BitVec w) <<< (8 * i))) ||| (b.setWidth w <<< (8 * i))

/-- The word whose bytes, lowest first, are listed. -/
def ofBytes (w : Nat) (bs : List Byte) : BitVec w := BitVec.ofNat w (leNat bs)

/-- Bit i of a wide word becomes b. -/
def setBit {w : Nat} (v : BitVec w) (i : Nat) (b : Bool) : BitVec w :=
  if b then v ||| ((1 : BitVec w) <<< i) else v &&& ~~~((1 : BitVec w) <<< i)

/-- n saturated to m bits. -/
def satU (n m : Nat) : Nat := if n < 2 ^ m then n else 2 ^ m - 1

end Sys2Proof
end

