-- ==== Sys2Proof/WellFormed.lean ====
section
/-! DEFINITION. Which instructions a word can hold: the field values the formats and the entries allow (R200 to R212,
R292, R293, R334). An event is always well formed. -/

namespace Sys2Proof

/-- No token bits. -/
def Tok.clear (t : Tok) : Bool := !t.wb && !t.wa && !t.sb && !t.sa

/-- A one-word form has no second token nibble (R199). -/
def Hdr.oneWord (h : Hdr) : Bool := h.t1.clear

def ElemTy.isFloat : ElemTy → Bool
  | .fp32 | .fp16 | .bf16 => true
  | _ => false

/-- A destination position does not allow a broadcast (R204). -/
def TileOp.isDest : TileOp → Bool
  | .bcast _ => false
  | _ => true

/-- `.sat` on integer types only (R292 Table 1). -/
def wfSat (et : ElemTy) (sat : Bool) : Bool := !(sat && et.isFloat)

/-- The 4-byte types of the reel (R259). -/
def wfReelType (et : ElemTy) : Bool := et = .fp32 || et = .i32 || et = .u32

/-- Value rows of dqpush (R260). -/
def wfReelValues (vals : TileOp) (n : BitVec 3) : Bool :=
  n.toNat ≤ 1 || (match vals with | .tile _ r => decide (r.toNat + n.toNat ≤ 16) | _ => false)

/-- Types and saturation of vred (R292, R293). -/
def wfRed (op : RedOp) (et : ElemTy) (sat : Bool) : Bool :=
  match op with
  | .add => !(sat && et.isFloat)
  | .min | .max => !sat
  | _ => !sat && !et.isFloat

/-- Dimensions of vsfc (R293, R312). -/
def wfCurve (hilbert : Bool) (dims : BitVec 2) (r : BitVec 4) : Bool :=
  decide (dims.toNat < 3) && !(hilbert && dims = 2) && decide (r.toNat + dims.toNat + 1 ≤ 15)

/-- The instruction has words (R197 to R212). -/
def Instr.wf (i : Instr) : Bool :=
  match i with
  | .add h _ _ _ => h.oneWord
  | .addImm _ _ _ _ => true
  | .sub h _ _ _ => h.oneWord
  | .subImm _ _ _ _ => true
  | .mul h _ _ _ => h.oneWord
  | .mulImm _ _ _ _ => true
  | .mulh h _ _ _ => h.oneWord
  | .mulhImm _ _ _ _ => true
  | .mulhu h _ _ _ => h.oneWord
  | .mulhuImm _ _ _ _ => true
  | .div h _ _ _ => h.oneWord
  | .divImm _ _ _ _ => true
  | .divu h _ _ _ => h.oneWord
  | .divuImm _ _ _ _ => true
  | .rem h _ _ _ => h.oneWord
  | .remImm _ _ _ _ => true
  | .remu h _ _ _ => h.oneWord
  | .remuImm _ _ _ _ => true
  | .and h _ _ _ => h.oneWord
  | .andImm _ _ _ _ => true
  | .or h _ _ _ => h.oneWord
  | .orImm _ _ _ _ => true
  | .xor h _ _ _ => h.oneWord
  | .xorImm _ _ _ _ => true
  | .andn h _ _ _ => h.oneWord
  | .andnImm _ _ _ _ => true
  | .shl h _ _ _ => h.oneWord
  | .shlImm _ _ _ _ => true
  | .shr h _ _ _ => h.oneWord
  | .shrImm _ _ _ _ => true
  | .sra h _ _ _ => h.oneWord
  | .sraImm _ _ _ _ => true
  | .min h _ _ _ => h.oneWord
  | .minImm _ _ _ _ => true
  | .max h _ _ _ => h.oneWord
  | .maxImm _ _ _ _ => true
  | .minu h _ _ _ => h.oneWord
  | .minuImm _ _ _ _ => true
  | .maxu h _ _ _ => h.oneWord
  | .maxuImm _ _ _ _ => true
  | .clz h _ _ => h.oneWord
  | .popc h _ _ => h.oneWord
  | .sext h _ _ _ => h.oneWord
  | .zext h _ _ _ => h.oneWord
  | .movXX h _ _ => h.oneWord
  | .movXA h _ _ => h.oneWord
  | .movAX h _ _ => h.oneWord
  | .sel _ _ _ _ _ => true
  | .li h _ _ => h.oneWord
  | .liExt _ _ _ => true
  | .cmp h _ _ _ _ => h.oneWord
  | .cmpImm _ _ _ _ _ => true
  | .fadd h _ _ _ => h.oneWord
  | .faddImm _ _ _ _ => true
  | .fsub h _ _ _ => h.oneWord
  | .fsubImm _ _ _ _ => true
  | .fmul h _ _ _ => h.oneWord
  | .fmulImm _ _ _ _ => true
  | .fma h _ _ _ => h.oneWord
  | .fmaImm _ _ _ _ => true
  | .fmin h _ _ _ => h.oneWord
  | .fminImm _ _ _ _ => true
  | .fmax h _ _ _ => h.oneWord
  | .fmaxImm _ _ _ _ => true
  | .fcvt _ _ _ _ _ rm _ => rm != .sr
  | .fcmp h _ _ _ _ => h.oneWord
  | .fcmpImm _ _ _ _ _ => true
  | .pand h _ _ _ => h.oneWord
  | .por h _ _ _ => h.oneWord
  | .pxor h _ _ _ => h.oneWord
  | .pandn h _ _ _ => h.oneWord
  | .pmov h _ _ => h.oneWord
  | .pset h _ _ _ => h.oneWord
  | .pcnt h _ _ _ => h.oneWord
  | .pfirst h _ _ _ => h.oneWord
  | .br h _ => h.oneWord
  | .brExt _ _ => true
  | .call h _ => h.oneWord
  | .callExt _ _ => true
  | .brq h _ _ => h.oneWord
  | .brqExt _ _ _ => true
  | .loop h _ _ => h.oneWord
  | .loopExt _ _ _ => true
  | .jr h _ => h.oneWord
  | .ret h => h.oneWord
  | .nop h => h.oneWord
  | .pool h _ => h.oneWord && h.g = 15 && !h.gn
  | .tkwB h _ => h.oneWord
  | .tkwA h _ => h.oneWord
  | .tksB h _ => h.oneWord
  | .tksA h _ => h.oneWord
  | .qpush h _ => h.oneWord
  | .qpop h _ => h.oneWord
  | .kwait h _ _ => h.oneWord
  | .rnext h _ _ _ => h.oneWord
  | .lvlBase h _ _ => h.oneWord
  | .lvlLimit h _ _ => h.oneWord
  | .lvlTrip h _ _ => h.oneWord
  | .lvlCoord h _ _ => h.oneWord
  | .ldlW h _ _ => h.oneWord
  | .ldlWExt _ _ _ => true
  | .ldlD h _ _ => h.oneWord
  | .ldlDExt _ _ _ => true
  | .ld h _ _ _ _ _ => h.oneWord
  | .ldOffset _ _ _ _ _ _ _ => true
  | .st h _ _ _ _ => h.oneWord
  | .stOffset _ _ _ _ _ _ => true
  | .dqpush _ et _ _ vals n => wfReelType et && n.toNat ≤ 4 && wfReelValues vals n
  | .dqdrain _ et _ row _ _ n => wfReelType et && n.toNat ≤ 4 && row.toNat + n.toNat ≤ 15
  | .dqcnt _ _ => true
  | .ldt _ _ row nr _ _ _ _ => row.toNat + nr.toNat ≤ 15
  | .stt _ _ row nr _ _ _ => row.toNat + nr.toNat ≤ 15
  | .copy _ _ _ _ _ _ _ _ _ => true
  | .gath _ _ _ _ esz _ _ _ _ _ => esz.toNat ≤ 12
  | .scat _ _ _ _ esz _ _ _ _ _ => esz.toNat ≤ 12
  | .pref _ _ _ _ => true
  | .invr _ _ _ _ => true
  | .sppin _ _ _ _ => true
  | .spunp _ _ _ => true
  | .feclr _ _ _ => true
  | .feset _ _ _ => true
  | .racq h _ _ => h.oneWord
  | .rrel h _ => h.oneWord
  | .rwait h _ _ _ => h.oneWord
  | .radv h _ _ => h.oneWord
  | .rcfg _ _ _ _ _ => true
  | .amoAdd _ _ _ _ _ _ _ _ _ => true
  | .amoMin _ _ _ _ _ _ _ _ _ => true
  | .amoMax _ _ _ _ _ _ _ _ _ => true
  | .amoAnd _ _ _ _ _ _ _ _ _ => true
  | .amoOr _ _ _ _ _ _ _ _ _ => true
  | .amoXor _ _ _ _ _ _ _ _ _ => true
  | .amoXchg _ _ _ _ _ _ _ _ _ => true
  | .amoCas _ _ _ _ _ _ _ _ _ => true
  | .vamoAdd _ _ _ _ _ _ _ _ _ _ => true
  | .vamoMin _ _ _ _ _ _ _ _ _ _ => true
  | .vamoMax _ _ _ _ _ _ _ _ _ _ => true
  | .vamoAnd _ _ _ _ _ _ _ _ _ _ => true
  | .vamoOr _ _ _ _ _ _ _ _ _ _ => true
  | .vamoXor _ _ _ _ _ _ _ _ _ _ => true
  | .vamoXchg _ _ _ _ _ _ _ _ _ _ => true
  | .vamoCas _ _ _ _ _ _ _ rv _ _ => rv.toNat ≠ 15
  | .fence h _ _ _ => h.oneWord
  | .fwait h => h.oneWord
  | .wait4 h _ _ => h.oneWord
  | .bexp h xa => h.oneWord && !xa.getLsbD 0
  | .bwait h _ xa => h.oneWord && !xa.getLsbD 0
  | .vadd _ et sat d _ _ => wfSat et sat && d.isDest
  | .vsub _ et sat d _ _ => wfSat et sat && d.isDest
  | .vmul _ et sat d _ _ => wfSat et sat && d.isDest
  | .vfma _ et sat d _ _ => wfSat et sat && d.isDest
  | .vmin _ _ d _ _ => d.isDest
  | .vmax _ _ d _ _ => d.isDest
  | .vabs _ et sat d _ => wfSat et sat && d.isDest
  | .vneg _ et sat d _ => wfSat et sat && d.isDest
  | .vcmp _ c et _ _ _ => (et.isFloat || (c != .un && c != .ord))
  | .vsel _ _ d _ _ _ => d.isDest
  | .vmov _ _ d _ => d.isDest
  | .vand _ _ d _ _ => d.isDest
  | .vor _ _ d _ _ => d.isDest
  | .vxor _ _ d _ _ => d.isDest
  | .vlop3 _ _ d _ _ => d.isDest
  | .vshl _ et d _ _ => !et.isFloat && d.isDest
  | .vshr _ et d _ _ => !et.isFloat && d.isDest
  | .vsra _ et d _ _ => !et.isFloat && d.isDest
  | .vfunl _ et d _ _ => !et.isFloat && d.isDest
  | .vfunr _ et d _ _ => !et.isFloat && d.isDest
  | .vrot _ _ d _ _ => d.isDest
  | .vperm _ _ d _ _ => d.isDest
  | .vbcast _ _ d _ _ => d.isDest
  | .vcvt _ _ _ _ _ d _ => d.isDest
  | .vpack _ _ d a _ => d.isDest && a.isDest
  | .vunpk _ d a _ => d.isDest && a.isDest
  | .vred _ op et sat d _ => wfRed op et sat && d.isDest
  | .vexp _ et d _ => et.isFloat && d.isDest
  | .vlog _ et d _ => et.isFloat && d.isDest
  | .vrcp _ et d _ => et.isFloat && d.isDest
  | .vrsq _ et d _ => et.isFloat && d.isDest
  | .vrng _ et d => (et = .fp32 || et = .u32) && d.isDest
  | .vbern _ _ _ => true
  | .rlcfg _ _ _ _ _ => true
  | .rlins _ _ _ _ _ => true
  | .rlmrg _ _ _ _ => true
  | .rlthr _ _ _ _ => true
  | .rlrd _ d _ _ => d.isDest
  | .vsfc _ hilbert dims d _ r => wfCurve hilbert dims r && d.isDest
  | .gset _ _ _ _ => true
  | .gadv _ _ _ _ => true
  | .mlease _ _ _ => true
  | .mfree _ => true
  | .mloadb _ _ _ _ _ _ _ => true
  | .mmul _ _ _ _ _ _ _ _ _ _ => true
  | .mattn _ _ _ _ _ _ _ _ => true
  | .mdrainTile _ _ _ _ _ row nr _ _ _ => row.toNat + nr.toNat ≤ 15
  | .mdrainMemory _ _ _ _ _ _ _ _ _ _ _ => true
  | .mswap _ _ => true
  | .mchain _ _ => true
  | .mshape _ _ _ => true
  | .sample _ _ _ _ _ _ => true
  | .beamsel _ _ _ _ _ _ => true
  | .kvapp _ _ _ _ _ _ _ => true
  | .kvappNew _ _ _ _ _ _ => true
  | .kvappDrop _ _ _ _ _ => true
  | .kvmap _ _ _ _ _ _ _ _ => true
  | .tspawn _ _ xa _ _ _ => xa.toNat ≤ 12
  | .tpop _ xc _ _ _ => xc.toNat ≤ 11
  | .trepri _ _ _ _ => true
  | .tcancel _ _ _ _ _ => true
  | .tcont _ _ xa _ _ _ => xa.toNat ≤ 12
  | .tdone _ _ _ _ => true
  | .cpoint _ _ => true
  | .gnewPlain _ xc _ _ => xc.toNat ≤ 14
  | .gnewRope _ xc _ _ _ => xc.toNat ≤ 14
  | .gnewSib _ xc _ _ => xc.toNat ≤ 14
  | .gnewQ _ xc _ _ => xc.toNat ≤ 14
  | .nalloc _ _ _ _ _ => true
  | .nallocFree _ _ _ _ => true
  | .nrd _ _ _ _ _ _ => true
  | .nwr _ _ _ _ _ _ _ => true
  | .nvloss _ _ _ _ _ => true
  | .nbackup _ _ _ _ _ _ _ => true
  | .nsel _ _ _ xb _ => xb.toNat ≤ 14
  | .ballot _ _ _ _ _ => true
  | .collAr _ _ _ _ _ => true
  | .collAg _ _ _ _ _ => true
  | .collRs _ _ _ _ _ => true
  | .collA2a _ _ _ _ _ => true
  | .repart _ _ _ _ _ => true
  | .disp _ xc _ _ _ _ => xc.toNat ≤ 14
  | .dispMb _ _ _ => true
  | .gparm _ _ _ _ _ => true
  | .gparmReplay _ _ _ => true
  | .hring _ _ _ _ _ _ _ => true
  | .time _ _ => true
  | .trap h _ => h.oneWord
  | .eret h => h.oneWord
  | .sysrd h _ _ => h.oneWord
  | .syswr h _ _ => h.oneWord
  | .yield h => h.oneWord
  | .idle h _ => h.oneWord
  | .bkpt h _ => h.oneWord
  | .spbeg h _ _ => h.oneWord
  | .spcom h => h.oneWord
  | .spabt h => h.oneWord
  | .uncorrTrap _ _ => true
  | .engineTrap _ => true
  | .timer _ _ => true
  | .loadReturn _ _ => true
  | .storePerform _ _ => true
  | .atomicPerform _ _ => true
  | .fenceComplete _ _ => true
  | .xferComplete _ _ => true
  | .wait4Check _ _ => true
  | .bivouacCopyDone _ => true
  | .admission _ => true
  | .startHoldEnd _ _ => true
  | .instanceEnd _ => true
  | .launchAbort _ _ _ => true
  | .stealRequest _ _ => true
  | .stealGrant _ _ => true
  | .belayGrant _ => true
  | .belayRunEnd _ => true
  | .tileTaskIssue _ _ => true
  | .tileTaskComplete _ _ => true
  | .samplerRequest _ => true
  | .beamRequest _ => true
  | .evalHandoff _ => true
  | .binWindowExpiry _ _ => true
  | .binLaunch _ => true
  | .sweep _ => true
  | .remoteTref _ _ => true
  | .remoteTcancel _ => true
  | .tcancelComplete _ _ => true
  | .groupFree _ => true
  | .walkComplete _ _ => true
  | .remoteWalk _ _ _ _ _ _ => true
  | .kvBroadcast _ _ _ _ => true
  | .sbtFetch _ _ _ _ => true
  | .sstLookup _ _ _ _ _ => true
  | .kvPlace _ _ _ => true
  | .collectiveComplete _ _ _ => true
  | .repartComplete _ _ _ => true
  | .remoteAccess _ _ _ _ => true
  | .remoteResponse _ => true
  | .graphNodeStart _ _ => true
  | .graphNodeComplete _ _ => true
  | .nowaitWorkEnd _ _ _ => true
  | .waitNodeTimeout _ _ => true
  | .hostRingTimer _ _ => true
  | .preemptTimeout _ => true
  | .preemptSave _ => true
  | .hlaunch _ _ => true
  | .labort _ _ => true
  | .preq _ _ => true
  | .resume _ _ => true
  | .greplay _ _ => true
  | .gabort _ _ => true
  | .hrccntWrite _ _ _ => true
  | .hrcfgWrite _ _ _ => true
  | .tlbiOnePage _ => true
  | .tlbiOneSpace _ => true
  | .tlbiAll  => true
  | .tlbiDone  => true
  | .keyLoad _ => true
  | .keyRetire _ => true
  | .keyErase _ => true
  | .keyBind _ _ => true
  | .keyUnbind _ => true
  | .dispatchTableWrite _ _ _ _ => true
  | .hostApertureAccess _ => true
  | .registerWrite _ _ => true
  | .resetctlModule  => true
  | .resetctlFunction  => true
  | .pcieFlr  => true
  | .powerOn  => true
  | .modidTimeout  => true
  | .mctpRead _ _ => true
  | .mctpWrite _ _ _ => true
  | .attest _ => true
  | .cntclr _ => true
  | .pcapWrite _ => true
  | .pfloorWrite _ => true
  | .modidWrite _ => true
  | .failedClear _ _ _ => true
  | .requestUpdate _ => true
  | .firmwareImageTransfer _ _ => true
  | .verifyComplete  => true
  | .activateFirmware _ => true
  | .platformEventMessage  => true
  | .arbiterPeriod _ _ _ _ _ => true
  | .thermalTrip _ => true
  | .thermalClear _ => true
  | .ageRefresh _ _ => true
  | .eolRecompute _ => true
  | .heartbeat _ => true
  | .heartbeatAnswer _ _ => true
  | .timeLock  => true
  | .timeUnlock  => true
  | .portDown _ => true
  | .portRetrain _ _ _ _ => true
  | .routeRecompute _ => true
  | .idleTimeout _ _ => true
  | .mdrainComplete _ _ => true
  | .managementModuleReset  => true
  | .setEventReceiver _ => true
  | .farTierHostWrite _ _ => true
  | .launchForward _ _ _ _ => true

/-- The sequencers on which an instruction's words stand for it: mdrain's form is the issuing sequencer's (R330). -/
def Instr.fits (q : SeqId) (i : Instr) : Prop :=
  match i with
  | .mdrainTile .. => q ≠ .store
  | .mdrainMemory .. => q = .store
  | _ => True

end Sys2Proof
end

