-- ==== Sys2Proof/Machine/Float.lean ====
section
/-! DEFINITION. The three floating-point formats, rounding, exact arithmetic and conversions (R175 to R181, R188). -/

namespace Sys2Proof

/-- Bytes of an element (R208 Table 5). -/
def ElemTy.bytes : ElemTy → Nat
  | .fp32 | .i32 | .u32 => 4
  | .fp16 | .bf16 | .i16 | .u16 => 2
  | .i8 | .u8 => 1
  | .i64 | .u64 => 8

def ElemTy.bits (t : ElemTy) : Nat := 8 * t.bytes

def ElemTy.signed : ElemTy → Bool
  | .i8 | .i16 | .i32 | .i64 => true
  | _ => false

/-- A floating-point format: exponent and fraction bits (R175 Table 1). -/
structure Fmt where
  ebits : Nat
  fbits : Nat
  deriving DecidableEq, Repr

def f32 : Fmt := ⟨8, 23⟩
def f16 : Fmt := ⟨5, 10⟩
def b16 : Fmt := ⟨8, 7⟩

def ElemTy.fmt : ElemTy → Fmt
  | .fp16 => f16
  | .bf16 => b16
  | _ => f32

def Fmt.bias (f : Fmt) : Nat := 2 ^ (f.ebits - 1) - 1

/-- The pattern of +∞, of the canonical NaN, of the largest finite number, of the sign bit (R175). -/
def Fmt.infBits (f : Fmt) : Nat := (2 ^ f.ebits - 1) * 2 ^ f.fbits

def Fmt.nanBits (f : Fmt) : Nat := f.infBits + 2 ^ (f.fbits - 1)

def Fmt.maxBits (f : Fmt) : Nat := f.infBits - 1

def Fmt.signBit (f : Fmt) : Nat := 2 ^ (f.ebits + f.fbits)

/-- An exact value: a NaN, an infinity, or m × 2^e with a sign. -/
inductive FVal where
  | nan (signalling : Bool)
  | inf (neg : Bool)
  | fin (neg : Bool) (m : Nat) (e : Int)
  deriving DecidableEq, Repr

/-- Sticky events, in the places of a tile's status (R195): OVF SAT INV INX. -/
abbrev Ev := BitVec 4

def evInx : Ev := 1
def evInv : Ev := 2
def evSat : Ev := 4
def evOvf : Ev := 8

/-- The value a pattern stands for. -/
def Fmt.dec (f : Fmt) (b : Nat) : FVal :=
  let neg := natBits b (f.ebits + f.fbits) 1 = 1
  let ex := natBits b f.fbits f.ebits
  let fr := natBits b 0 f.fbits
  if ex = 2 ^ f.ebits - 1 then
    if fr = 0 then .inf neg else .nan (fr < 2 ^ (f.fbits - 1))
  else if ex = 0 then .fin neg fr (1 - (f.bias : Int) - f.fbits)
  else .fin neg (fr + 2 ^ f.fbits) ((ex : Int) - f.bias - f.fbits)

/-- m × 2^sh as an integer under a rounding mode, u the random word of SR, and whether it is inexact (R178, R188). -/
def roundShift (rm : RMode) (u : Nat) (neg : Bool) (m : Nat) (sh : Int) : Nat × Bool :=
  if 0 ≤ sh then (m * 2 ^ sh.toNat, false)
  else
    let d := 2 ^ (-sh).toNat
    let q := m / d
    let r := m % d
    if r = 0 then (q, false)
    else
      let up := match rm with
        | .rne => decide (d < 2 * r) || (decide (2 * r = d) && decide (q % 2 = 1))
        | .rtz => false
        | .rdn => neg
        | .rup => !neg
        | .rna => decide (d ≤ 2 * r)
        | .sr => decide (u < r * 2 ^ 32 / d)
      (if up then q + 1 else q, true)

/-- The exponent of the unit in the last place of format f at magnitude m × 2^e. -/
def Fmt.ulpExp (f : Fmt) (m : Nat) (e : Int) : Int := max (e + Nat.log2 m) (1 - (f.bias : Int)) - f.fbits

/-- RoundFmt with the saturating form and the random word of SR: the pattern and the events (R179, R181). -/
def Fmt.round (f : Fmt) (rm : RMode) (u : Nat) (sat : Bool) (v : FVal) : Nat × Ev :=
  match v with
  | .nan _ => (f.nanBits, 0)
  | .inf neg => ((if neg then f.signBit else 0) + f.infBits, 0)
  | .fin neg m e =>
    let sg := if neg then f.signBit else 0
    if m = 0 then (sg, 0)
    else
      let q := f.ulpExp m e
      let (n, inx) := roundShift rm u neg m (e - q)
      let mag := n + (q - (1 - (f.bias : Int) - f.fbits)).toNat * 2 ^ f.fbits
      if mag < f.infBits then (sg + mag, if inx then evInx else 0)
      else if sat then (sg + f.maxBits, evSat ||| evInx)
      else
        let big := match rm with
          | .rtz => true
          | .rdn => !neg
          | .rup => neg
          | _ => false
        (sg + (if big then f.maxBits else f.infBits), evOvf ||| evInx)

/-- RoundF32 (R181). -/
def roundF32 (v : FVal) : Word32 × Ev := let (b, e) := f32.round .rne 0 false v; (BitVec.ofNat 32 b, e)

/-! ## Exact arithmetic -/

def FVal.isNan : FVal → Bool | .nan _ => true | _ => false

def FVal.isSnan : FVal → Bool | .nan s => s | _ => false

def FVal.neg : FVal → FVal
  | .nan s => .nan s
  | .inf n => .inf (!n)
  | .fin n m e => .fin (!n) m e

def FVal.sgn : FVal → Bool
  | .nan _ => false
  | .inf n => n
  | .fin n _ _ => n

def FVal.isZero : FVal → Bool | .fin _ m _ => m = 0 | _ => false

/-- The signed multiple of 2^q, for q at or below the exponent. -/
def scaled (neg : Bool) (m : Nat) (e q : Int) : Int :=
  let v : Int := m * 2 ^ (e - q).toNat
  if neg then -v else v

/-- Exact sum; an invalid sum is a NaN with INV (R176). -/
def FVal.add (a b : FVal) : FVal × Ev :=
  if a.isNan || b.isNan then (.nan false, if a.isSnan || b.isSnan then evInv else 0)
  else
    match a, b with
    | .inf m, .inf n => if m = n then (.inf m, 0) else (.nan false, evInv)
    | .inf m, _ => (.inf m, 0)
    | _, .inf n => (.inf n, 0)
    | .fin n1 m1 e1, .fin n2 m2 e2 =>
      let q := min e1 e2
      let v := scaled n1 m1 e1 q + scaled n2 m2 e2 q
      if v = 0 then (.fin (n1 && n2) 0 0, 0) else (.fin (decide (v < 0)) v.natAbs q, 0)
    | _, _ => (.nan false, 0)

/-- Exact product. -/
def FVal.mul (a b : FVal) : FVal × Ev :=
  if a.isNan || b.isNan then (.nan false, if a.isSnan || b.isSnan then evInv else 0)
  else
    match a, b with
    | .fin n1 m1 e1, .fin n2 m2 e2 => (.fin (n1 != n2) (m1 * m2) (e1 + e2), 0)
    | x, y => if x.isZero || y.isZero then (.nan false, evInv) else (.inf (x.sgn != y.sgn), 0)

/-- Exact a × b + c, NaN operands first. -/
def FVal.fma (a b c : FVal) : FVal × Ev :=
  if a.isNan || b.isNan || c.isNan then (.nan false, if a.isSnan || b.isSnan || c.isSnan then evInv else 0)
  else
    let (p, e1) := a.mul b
    if p.isNan then (p, e1) else p.add c

/-- Order of two numbers, none if either is a NaN; -0 equals +0. -/
def FVal.cmp (a b : FVal) : Option Ordering :=
  match a, b with
  | .nan _, _ => none
  | _, .nan _ => none
  | .inf m, .inf n => some (if m = n then .eq else if m then .lt else .gt)
  | .inf m, .fin .. => some (if m then .lt else .gt)
  | .fin .., .inf n => some (if n then .gt else .lt)
  | .fin n1 m1 e1, .fin n2 m2 e2 =>
    let q := min e1 e2
    some (compare (scaled n1 m1 e1 q) (scaled n2 m2 e2 q))

def FVal.lt (a b : FVal) : Bool := a.cmp b = some .lt

def FVal.eq (a b : FVal) : Bool := a.cmp b = some .eq

/-- A quotient of positive dyadic numbers to more bits than any format, its last bit standing for the rest. -/
def divMag (m1 : Nat) (e1 : Int) (m2 : Nat) (e2 : Int) : Nat × Int :=
  let k := 200 + Nat.log2 m2
  let n := m1 * 2 ^ k
  (2 * (n / m2) + (if n % m2 = 0 then 0 else 1), e1 - e2 - k - 1)

/-- Quotient; 0 / 0 and ∞ / ∞ are invalid. -/
def FVal.div (a b : FVal) : FVal × Ev :=
  if a.isNan || b.isNan then (.nan false, if a.isSnan || b.isSnan then evInv else 0)
  else
    match a, b with
    | .inf _, .inf _ => (.nan false, evInv)
    | .inf m, y => (.inf (m != y.sgn), 0)
    | x, .inf n => (.fin (x.sgn != n) 0 0, 0)
    | .fin n1 m1 e1, .fin n2 m2 e2 =>
      if m2 = 0 then (if m1 = 0 then (.nan false, evInv) else (.inf (n1 != n2), 0))
      else
        let (m, e) := divMag m1 e1 m2 e2
        (.fin (n1 != n2) m e, 0)
    | _, _ => (.nan false, 0)

/-- The integer square root of n below 4^b, bit by bit; r is the root's part so far. -/
def isqrtGo (n : Nat) (b r : Nat) : Nat :=
  match b with
  | 0 => r
  | k + 1 => isqrtGo n k (if (r + 2 ^ k) * (r + 2 ^ k) ≤ n then r + 2 ^ k else r)

/-- The integer square root. -/
def isqrt (n : Nat) : Nat := isqrtGo n (Nat.log2 n / 2 + 1) 0

/-- Square root of a positive number to more bits than any format, its last bit standing for the rest. -/
def sqrtMag (m : Nat) (e : Int) : Nat × Int :=
  let k : Nat := 400 + (if (e % 2) = 0 then 0 else 1)
  let n := m * 2 ^ k
  let r := isqrt n
  (2 * r + (if r * r = n then 0 else 1), (e - k) / 2 - 1)

/-- An integer as an exact value. -/
def FVal.ofInt (i : Int) : FVal := .fin (decide (i < 0)) i.natAbs 0

/-! ## Operations of a format (R176, R244, R294) -/

def Fmt.op (f : Fmt) (r : FVal × Ev) : Nat × Ev :=
  let (b, e) := f.round .rne 0 false r.1
  (b, e ||| r.2)

def Fmt.add (f : Fmt) (a b : Nat) : Nat × Ev := f.op ((f.dec a).add (f.dec b))

def Fmt.sub (f : Fmt) (a b : Nat) : Nat × Ev := f.op ((f.dec a).add (f.dec b).neg)

def Fmt.mul (f : Fmt) (a b : Nat) : Nat × Ev := f.op ((f.dec a).mul (f.dec b))

def Fmt.fma (f : Fmt) (a b c : Nat) : Nat × Ev := f.op ((f.dec a).fma (f.dec b) (f.dec c))

/-- Minimum or maximum (R244): a lone NaN loses, -0 is below +0. -/
def Fmt.minMax (f : Fmt) (isMax : Bool) (a b : Nat) : Nat × Ev :=
  let x := f.dec a
  let y := f.dec b
  let ev := if x.isSnan || y.isSnan then evInv else 0
  match x.isNan, y.isNan with
  | true, true => (f.nanBits, ev)
  | true, false => (b, ev)
  | false, true => (a, ev)
  | false, false =>
    let aLow := x.lt y || (x.eq y && x.sgn)
    (if aLow != isMax then a else b, ev)

/-- A floating-point condition and whether it sets INV (R207, R246). -/
def Fmt.cond (f : Fmt) (c : FCond) (a b : Nat) : Bool × Ev :=
  let x := f.dec a
  let y := f.dec b
  let o := x.cmp y
  let un := o.isNone
  let snan := x.isSnan || y.isSnan
  match c with
  | .eq => (o = some .eq, if snan then evInv else 0)
  | .ne => (o != some .eq, if snan then evInv else 0)
  | .lt => (o = some .lt, if un then evInv else 0)
  | .le => (o = some .lt || o = some .eq, if un then evInv else 0)
  | .gt => (o = some .gt, if un then evInv else 0)
  | .ge => (o = some .gt || o = some .eq, if un then evInv else 0)
  | .un => (un, if snan then evInv else 0)
  | .ord => (!un, if snan then evInv else 0)

/-! ## Conversions (R179, R180) -/

/-- The low bits of a pattern as the integer of a type. -/
def ElemTy.toInt (t : ElemTy) (b : Nat) : Int :=
  let v := b % 2 ^ t.bits
  if t.signed && 2 ^ (t.bits - 1) ≤ v then (v : Int) - 2 ^ t.bits else v

/-- The pattern of an integer in a type: its low bits. -/
def ElemTy.ofInt (t : ElemTy) (i : Int) : Nat := (i % (2 ^ t.bits : Int)).toNat

def ElemTy.minInt (t : ElemTy) : Int := if t.signed then -(2 ^ (t.bits - 1) : Int) else 0

def ElemTy.maxInt (t : ElemTy) : Int := if t.signed then 2 ^ (t.bits - 1) - 1 else 2 ^ t.bits - 1

/-- The nearest value of a type, and whether that changed it. -/
def ElemTy.clamp (t : ElemTy) (i : Int) : Int × Bool :=
  if i < t.minInt then (t.minInt, true) else if t.maxInt < i then (t.maxInt, true) else (i, false)

/-- The exact value of an element. -/
def ElemTy.val (t : ElemTy) (b : Nat) : FVal := if t.isFloat then t.fmt.dec (b % 2 ^ t.bits) else .ofInt (t.toInt b)

/-- A number rounded to an integer type (R180). -/
def toIntTy (t : ElemTy) (rm : RMode) (u : Nat) (v : FVal) : Nat × Ev :=
  match v with
  | .nan _ => (0, evInv)
  | .inf neg => (t.ofInt (if neg then t.minInt else t.maxInt), evSat)
  | .fin neg m e =>
    let (n, inx) := roundShift rm u neg m e
    let i : Int := if neg then -(n : Int) else n
    let (c, s) := t.clamp i
    (t.ofInt c, (if inx then evInx else 0) ||| (if s then evSat else 0))

/-- Conversion of an element's pattern between types; u is the random word of SR (R178 to R180). -/
def convert (src dst : ElemTy) (rm : RMode) (sat : Bool) (u : Nat) (b : Nat) : Nat × Ev :=
  if src.isFloat then
    let v := src.fmt.dec (b % 2 ^ src.bits)
    if dst.isFloat then
      let (r, e) := dst.fmt.round rm u sat v
      (r, e ||| (if v.isSnan then evInv else 0))
    else toIntTy dst rm u v
  else
    let i := src.toInt b
    if dst.isFloat then dst.fmt.round rm u sat (.ofInt i)
    else if sat then
      let (c, s) := dst.clamp i
      (dst.ofInt c, if s then evSat else 0)
    else (dst.ofInt i, 0)

/-- The discard word of an element rounded with unit 2^q (R188). -/
def discardAt (v : FVal) (q : Int) : Nat :=
  match v with
  | .fin _ m e =>
    if q ≤ e then 0 else
      let d := 2 ^ (q - e).toNat
      (m % d) * 2 ^ 32 / d
  | _ => 0

/-- The discard word under a destination type. -/
def discardTy (dst : ElemTy) (v : FVal) : Nat :=
  match v with
  | .fin _ m e => if m = 0 then 0 else discardAt v (if dst.isFloat then dst.fmt.ulpExp m e else 0)
  | _ => 0

/-- The random word of the element at position i of its group, from its neighbours' discard words (R188). -/
def srWord (pv nx i : Nat) : Nat :=
  let x : Word32 := BitVec.ofNat 32 pv ^^^ BitVec.ofNat 32 (nx * 2 ^ 16 + nx / 2 ^ 16) ^^^ BitVec.ofNat 32 (i * 0x9E37_79B9)
  let x := x * 0x85EB_CA6B
  let x := x ^^^ (x >>> 13)
  let x := x * 0xC2B2_AE35
  (x ^^^ (x >>> 16)).toNat

end Sys2Proof
end

