-- ==== Sys2Proof/Decode.lean ====
section
/-! DEFINITION. The decoder, total on any words, refusing by name (R197 to R212, R292, R314, R334), and the encoder, from
the same tables. Chapter 08 fixes the fields; a word is cut once, here. -/

namespace Sys2Proof

/-! ## Fields of the words -/

/-- Bits [lo+n-1:lo] of a word. -/
def bits {m : Nat} (w : BitVec m) (lo n : Nat) : BitVec n := w.extractLsb' lo n

/-- A token nibble: WB, WA, SB, SA from the high bit down (R198). -/
def Tok.enc (t : Tok) : BitVec 4 := BitVec.ofBool t.wb ++ BitVec.ofBool t.wa ++ BitVec.ofBool t.sb ++ BitVec.ofBool t.sa

def Tok.dec (n : BitVec 4) : Tok := ⟨n.getLsbD 3, n.getLsbD 2, n.getLsbD 1, n.getLsbD 0⟩

/-- W0 (R198 Table 1). -/
def packW0 (t : Tok) (g : BitVec 4) (gn x : Bool) (maj : BitVec 6) (f : BitVec 16) : Word32 :=
  t.enc ++ g ++ BitVec.ofBool gn ++ BitVec.ofBool x ++ maj ++ f

/-- The extension word (R199). -/
def packE (t : Tok) (pay : BitVec 28) : Word32 := t.enc ++ pay

/-- REG format (R202 Table 2). -/
def packReg (d a b s : BitVec 4) : BitVec 16 := d ++ a ++ b ++ s

/-- IMM format. -/
def packImm (d : BitVec 4) (v : BitVec 12) : BitVec 16 := d ++ v

/-- FLOW format. -/
def packFlow (s : BitVec 3) (l : BitVec 13) : BitVec 16 := s ++ l

/-- CPL format. -/
def packCpl (s r : BitVec 4) (n : BitVec 8) : BitVec 16 := s ++ r ++ n

/-- MEM format. -/
def packMem (xr : BitVec 4) (a sz : BitVec 3) (fe : BitVec 2) (k : BitVec 3) (kv : Bool) : BitVec 16 :=
  xr ++ a ++ sz ++ fe ++ k ++ BitVec.ofBool kv

/-- TILE format, W0 and E. -/
def packTile (tb : BitVec 11) (et : BitVec 4) (sat : Bool) : BitVec 16 := tb ++ et ++ BitVec.ofBool sat

def packTileE (td ta : BitVec 11) (sub md : BitVec 3) : BitVec 28 := td ++ ta ++ sub ++ md

/-- TMEM format, W0 and E. -/
def packTmem (t : BitVec 5) (row nr : BitVec 4) (a : BitVec 3) : BitVec 16 := t ++ row ++ nr ++ a

def packTmemE (off : BitVec 20) (fe : BitVec 2) (dir rsv : Bool) (k : BitVec 3) (kv : Bool) : BitVec 28 :=
  off ++ fe ++ BitVec.ofBool dir ++ BitVec.ofBool rsv ++ k ++ BitVec.ofBool kv

/-- CMD format, E; its W0 is packReg A B C SUB. -/
def packCmdE (acq rel k : BitVec 3) (kv : Bool) (cf : BitVec 18) : BitVec 28 := acq ++ rel ++ k ++ BitVec.ofBool kv ++ cf

/-- SYNC format. -/
def packSync (s : BitVec 4) (sc k : BitVec 3) (cv : BitVec 2) (xa : BitVec 4) : BitVec 16 := s ++ sc ++ k ++ cv ++ xa

/-- RING format. -/
def packRing (s b a : BitVec 3) (n : BitVec 7) : BitVec 16 := s ++ b ++ a ++ n

/-! ## Code fields (R207 to R209, R178) -/

def ICond.enc : ICond → BitVec 4
  | .eq => 0 | .ne => 1 | .lt => 2 | .ge => 3 | .ltu => 4 | .geu => 5 | .le => 6 | .gt => 7 | .leu => 8 | .gtu => 9

def ICond.dec (c : BitVec 4) : Except Reject ICond :=
  match c.toNat with
  | 0 => .ok .eq | 1 => .ok .ne | 2 => .ok .lt | 3 => .ok .ge | 4 => .ok .ltu | 5 => .ok .geu | 6 => .ok .le
  | 7 => .ok .gt | 8 => .ok .leu | 9 => .ok .gtu | _ => .error .code

def FCond.enc : FCond → BitVec 3
  | .eq => 0 | .ne => 1 | .lt => 2 | .le => 3 | .gt => 4 | .ge => 5 | .un => 6 | .ord => 7

def FCond.dec (c : BitVec 3) : FCond :=
  match c.toNat with
  | 0 => .eq | 1 => .ne | 2 => .lt | 3 => .le | 4 => .gt | 5 => .ge | 6 => .un | _ => .ord

def ExtW.enc : ExtW → BitVec 4 | .b => 0 | .h => 1 | .w => 2

def ExtW.dec (c : BitVec 4) : Except Reject ExtW :=
  match c.toNat with | 0 => .ok .b | 1 => .ok .h | 2 => .ok .w | _ => .error .code

def PredW.enc : PredW → BitVec 4 | .b => 0 | .h => 1 | .w => 2 | .d => 3

def PredW.dec (c : BitVec 4) : Except Reject PredW :=
  match c.toNat with | 0 => .ok .b | 1 => .ok .h | 2 => .ok .w | 3 => .ok .d | _ => .error .code

def ElemTy.enc : ElemTy → BitVec 4
  | .fp32 => 0 | .fp16 => 1 | .bf16 => 2 | .i8 => 3 | .i16 => 4 | .i32 => 5 | .i64 => 6 | .u8 => 7 | .u16 => 8
  | .u32 => 9 | .u64 => 10

def ElemTy.dec (c : BitVec 4) : Except Reject ElemTy :=
  match c.toNat with
  | 0 => .ok .fp32 | 1 => .ok .fp16 | 2 => .ok .bf16 | 3 => .ok .i8 | 4 => .ok .i16 | 5 => .ok .i32 | 6 => .ok .i64
  | 7 => .ok .u8 | 8 => .ok .u16 | 9 => .ok .u32 | 10 => .ok .u64 | _ => .error .code

def RMode.enc : RMode → BitVec 3 | .rne => 0 | .rtz => 1 | .rdn => 2 | .rup => 3 | .rna => 4 | .sr => 5

def RMode.dec (c : BitVec 3) : Except Reject RMode :=
  match c.toNat with
  | 0 => .ok .rne | 1 => .ok .rtz | 2 => .ok .rdn | 3 => .ok .rup | 4 => .ok .rna | 5 => .ok .sr | _ => .error .code

def LdSize.enc : LdSize → BitVec 3 | .b => 0 | .bu => 1 | .h => 2 | .hu => 3 | .w => 4 | .wu => 5 | .d => 6

def LdSize.dec (c : BitVec 3) : Except Reject LdSize :=
  match c.toNat with
  | 0 => .ok .b | 1 => .ok .bu | 2 => .ok .h | 3 => .ok .hu | 4 => .ok .w | 5 => .ok .wu | 6 => .ok .d | _ => .error .code

def StSize.enc : StSize → BitVec 3 | .b => 0 | .h => 2 | .w => 4 | .d => 6

def StSize.dec (c : BitVec 3) : Except Reject StSize :=
  match c.toNat with | 0 => .ok .b | 2 => .ok .h | 4 => .ok .w | 6 => .ok .d | _ => .error .code

def FEq.enc : FEq → BitVec 2 | .none => 0 | .fc => 1 | .fk => 2

def FEq.dec (c : BitVec 2) : Except Reject FEq :=
  match c.toNat with | 0 => .ok .none | 1 => .ok .fc | 2 => .ok .fk | _ => .error .code

/-- FE and FC bits of a matrix command (R325, R329): FC without FE is illegal. -/
def FEq.ofBits (fe fc : Bool) : Except Reject FEq :=
  match fe, fc with
  | false, false => .ok .none
  | true, true => .ok .fc
  | true, false => .ok .fk
  | false, true => .error .code

def FEq.feBit : FEq → Bool | .none => false | _ => true

def FEq.fcBit : FEq → Bool | .fc => true | _ => false

def Scope.enc : Scope → BitVec 3 | .seq => 1 | .core => 2 | .clu => 3 | .die => 4 | .mod => 5 | .sys => 6

def Scope.dec (c : BitVec 3) : Except Reject Scope :=
  match c.toNat with
  | 1 => .ok .seq | 2 => .ok .core | 3 => .ok .clu | 4 => .ok .die | 5 => .ok .mod | 6 => .ok .sys | _ => .error .code

def OScope.enc : OScope → BitVec 3 | none => 0 | some s => s.enc

def OScope.dec (c : BitVec 3) : Except Reject OScope :=
  match c.toNat with
  | 0 => .ok none | 1 => .ok (some .seq) | 2 => .ok (some .core) | 3 => .ok (some .clu) | 4 => .ok (some .die)
  | 5 => .ok (some .mod) | 6 => .ok (some .sys) | _ => .error .code

def Cover.enc : Cover → BitVec 2 | .all => 0 | .acq => 1 | .rel => 2 | .st => 3

def Cover.dec (c : BitVec 2) : Cover := match c.toNat with | 0 => .all | 1 => .acq | 2 => .rel | _ => .st

def Arr.enc : Arr → Bool | .s => false | .v => true

def Arr.dec (b : Bool) : Arr := if b then .v else .s

def DrainMode.enc : DrainMode → BitVec 2 | .sums => 0 | .rowMax => 1 | .rowSum => 2 | .list => 3

def DrainMode.dec (c : BitVec 2) : DrainMode :=
  match c.toNat with | 0 => .sums | 1 => .rowMax | 2 => .rowSum | _ => .list

def RedOp.enc : RedOp → BitVec 3 | .add => 0 | .min => 1 | .max => 2 | .band => 3 | .bor => 4 | .bxor => 5

def RedOp.dec (c : BitVec 3) : Except Reject RedOp :=
  match c.toNat with
  | 0 => .ok .add | 1 => .ok .min | 2 => .ok .max | 3 => .ok .band | 4 => .ok .bor | 5 => .ok .bxor | _ => .error .code

/-- The K field and KV bit of a counter (R202): K must be 0 without KV. -/
def Ctr.kBits (k : Ctr) : BitVec 3 := k.getD 0

def Ctr.kv (k : Ctr) : Bool := k.isSome

def Ctr.dec (k : BitVec 3) (kv : Bool) : Except Reject Ctr :=
  if kv then .ok (some k) else if k = 0 then .ok none else .error .field

/-- An optional x register beside its enable bit: the field must be 0 without it. -/
def OptX.dec (en : Bool) (x : BitVec 4) : Except Reject (Option XReg) :=
  if en then .ok (some x) else if x = 0 then .ok none else .error .field

/-- A ring handle beside FILL (R272). -/
def OptRing.dec (en : Bool) (b : BitVec 3) : Except Reject (Option BRing) :=
  if en then .ok (some b) else if b = 0 then .ok none else .error .field

/-- A 4-bit field that names an a register or a counter must hold 0 in its high bit (R202). -/
def reg3 (f : BitVec 4) : Except Reject (BitVec 3) := if f.getLsbD 3 then .error .code else .ok (bits f 0 3)

def up4 (a : BitVec 3) : BitVec 4 := (0 : BitVec 1) ++ a

/-- A field that must be zero (R201). -/
def need0 {n : Nat} (f : BitVec n) : Except Reject Unit := if f = 0 then .ok () else .error .field

def needFalse (b : Bool) : Except Reject Unit := if b then .error .field else .ok ()

/-- A tile operand field (R203 Table 3a). -/
def TileOp.enc : TileOp → BitVec 11
  | .tile t r => (0 : BitVec 2) ++ t ++ r
  | .opd o => (1 : BitVec 2) ++ (0 : BitVec 7) ++ o
  | .latch => (2 : BitVec 2) ++ (0 : BitVec 9)
  | .bcast x => (3 : BitVec 2) ++ (0 : BitVec 5) ++ x

def TileOp.dec (f : BitVec 11) : Except Reject TileOp :=
  match (bits f 9 2).toNat with
  | 0 => .ok (.tile (bits f 4 5) (bits f 0 4))
  | 1 => if bits f 2 7 = 0 then .ok (.opd (bits f 0 2)) else .error .field
  | 2 => if bits f 0 9 = 0 then .ok .latch else .error .field
  | _ => if bits f 4 5 = 0 then .ok (.bcast (bits f 0 4)) else .error .field

/-- A destination: a broadcast raises ILLEGAL (R204). -/
def TileOp.decD (f : BitVec 11) : Except Reject TileOp :=
  match TileOp.dec f with
  | .ok (.bcast _) => .error .level
  | r => r

/-- A source where no element type is used: a broadcast raises ILLEGAL (R204). -/
def TileOp.decNoB (f : BitVec 11) : Except Reject TileOp := TileOp.decD f

/-- A list operand or coordinate field: level 0b00 only (R293). -/
def decList (f : BitVec 11) : Except Reject (BitVec 5 × BitVec 4) :=
  if bits f 9 2 = 0 then .ok (bits f 4 5, bits f 0 4) else .error .level

def encList (t : BitVec 5) (n : BitVec 4) : BitVec 11 := (0 : BitVec 2) ++ t ++ n

/-- An x-register field of a tile form: level 0b11 (R292). -/
def decX (f : BitVec 11) : Except Reject XReg :=
  if bits f 9 2 = 3 then if bits f 4 5 = 0 then .ok (bits f 0 4) else .error .field else .error .level

def encX (x : XReg) : BitVec 11 := (3 : BitVec 2) ++ (0 : BitVec 5) ++ x

/-- A predicate, g-register, type or plain x number in bits [3:0], bits [10:4] zero (R292, R262). -/
def decLow (f : BitVec 11) : Except Reject (BitVec 4) := if bits f 4 7 = 0 then .ok (bits f 0 4) else .error .field

def encLow (n : BitVec 4) : BitVec 11 := (0 : BitVec 7) ++ n

/-! ## Cut words -/

/-- What a decoder arm sees: the header, the format fields of W0 and the payload of E when X = 1. -/
structure Cut where
  h : Hdr
  f : BitVec 16
  e : Option (BitVec 28)
  deriving DecidableEq, Repr

def noExt (c : Cut) : Except Reject Unit := match c.e with | none => .ok () | some _ => .error .ext

def ext (c : Cut) : Except Reject (BitVec 28) := match c.e with | none => .error .ext | some e => .ok e

/-- The fields of a CMD word (R202). -/
structure Cmd where
  a : BitVec 4
  b : BitVec 4
  c : BitVec 4
  sub : BitVec 4
  acq : BitVec 3
  rel : BitVec 3
  k : BitVec 3
  kv : Bool
  cf : BitVec 18
  deriving DecidableEq, Repr

def cutCmd (f : BitVec 16) (e : BitVec 28) : Cmd :=
  ⟨bits f 12 4, bits f 8 4, bits f 4 4, bits f 0 4, bits e 25 3, bits e 22 3, bits e 19 3, e.getLsbD 18, bits e 0 18⟩

/-- A command that takes neither ACQ, REL nor a counter. -/
def Cmd.bare (c : Cmd) : Except Reject Unit := do
  need0 c.acq; need0 c.rel; need0 c.k; needFalse c.kv

/-! ## Majors -/

/-- ALU (R238). -/
def decAlu (c : Cut) : Except Reject Instr :=
  let d := bits c.f 12 4
  let a := bits c.f 8 4
  let b := bits c.f 4 4
  match c.e with
  | none =>
    match (bits c.f 0 4).toNat with
    | 0 => .ok (.add c.h d a b)
    | 1 => .ok (.sub c.h d a b)
    | 2 => .ok (.mul c.h d a b)
    | 3 => .ok (.mulh c.h d a b)
    | 4 => .ok (.mulhu c.h d a b)
    | 5 => .ok (.div c.h d a b)
    | 6 => .ok (.divu c.h d a b)
    | 7 => .ok (.rem c.h d a b)
    | 8 => .ok (.remu c.h d a b)
    | 9 => .ok (.and c.h d a b)
    | 10 => .ok (.or c.h d a b)
    | 11 => .ok (.xor c.h d a b)
    | 12 => .ok (.andn c.h d a b)
    | 13 => .ok (.shl c.h d a b)
    | 14 => .ok (.shr c.h d a b)
    | _ => .ok (.sra c.h d a b)
  | some e => do
    need0 b
    match (bits c.f 0 4).toNat with
    | 0 => .ok (.addImm c.h d a e)
    | 1 => .ok (.subImm c.h d a e)
    | 2 => .ok (.mulImm c.h d a e)
    | 3 => .ok (.mulhImm c.h d a e)
    | 4 => .ok (.mulhuImm c.h d a e)
    | 5 => .ok (.divImm c.h d a e)
    | 6 => .ok (.divuImm c.h d a e)
    | 7 => .ok (.remImm c.h d a e)
    | 8 => .ok (.remuImm c.h d a e)
    | 9 => .ok (.andImm c.h d a e)
    | 10 => .ok (.orImm c.h d a e)
    | 11 => .ok (.xorImm c.h d a e)
    | 12 => .ok (.andnImm c.h d a e)
    | 13 => .ok (.shlImm c.h d a e)
    | 14 => .ok (.shrImm c.h d a e)
    | _ => .ok (.sraImm c.h d a e)

/-- ALU2 (R240). -/
def decAlu2 (c : Cut) : Except Reject Instr :=
  let d := bits c.f 12 4
  let a := bits c.f 8 4
  let b := bits c.f 4 4
  match c.e with
  | none =>
    match (bits c.f 0 4).toNat with
    | 0 => .ok (.min c.h d a b)
    | 1 => .ok (.max c.h d a b)
    | 2 => .ok (.minu c.h d a b)
    | 3 => .ok (.maxu c.h d a b)
    | 4 => do need0 b; .ok (.clz c.h d a)
    | 5 => do need0 b; .ok (.popc c.h d a)
    | 6 => do let w ← ExtW.dec b; .ok (.sext c.h d a w)
    | 7 => do let w ← ExtW.dec b; .ok (.zext c.h d a w)
    | 8 => do need0 b; .ok (.movXX c.h d a)
    | 9 => do need0 b; let r ← reg3 d; .ok (.movXA c.h r a)
    | 10 => do need0 b; let r ← reg3 a; .ok (.movAX c.h d r)
    | 11 => .error .ext
    | _ => .error .sub
  | some e =>
    match (bits c.f 0 4).toNat with
    | 0 => do need0 b; .ok (.minImm c.h d a e)
    | 1 => do need0 b; .ok (.maxImm c.h d a e)
    | 2 => do need0 b; .ok (.minuImm c.h d a e)
    | 3 => do need0 b; .ok (.maxuImm c.h d a e)
    | 11 => do need0 (bits e 4 24); .ok (.sel c.h d a b (bits e 0 4))
    | 4 | 5 | 6 | 7 | 8 | 9 | 10 => .error .ext
    | _ => .error .sub

/-- LI (R241). -/
def decLi (c : Cut) : Except Reject Instr :=
  match c.e with
  | none => .ok (.li c.h (bits c.f 12 4) (bits c.f 0 12))
  | some e => .ok (.liExt c.h (bits c.f 12 4) (e ++ bits c.f 0 12))

/-- CMP (R242). -/
def decCmp (c : Cut) : Except Reject Instr := do
  let cc ← ICond.dec (bits c.f 0 4)
  match c.e with
  | none => .ok (.cmp c.h cc (bits c.f 12 4) (bits c.f 8 4) (bits c.f 4 4))
  | some e => do need0 (bits c.f 4 4); .ok (.cmpImm c.h cc (bits c.f 12 4) (bits c.f 8 4) e)

/-- FPU (R243, R245). -/
def decFpu (c : Cut) : Except Reject Instr :=
  let d := bits c.f 12 4
  let a := bits c.f 8 4
  let b := bits c.f 4 4
  match c.e with
  | none =>
    match (bits c.f 0 4).toNat with
    | 0 => .ok (.fadd c.h d a b)
    | 1 => .ok (.fsub c.h d a b)
    | 2 => .ok (.fmul c.h d a b)
    | 3 => .ok (.fma c.h d a b)
    | 4 => .ok (.fmin c.h d a b)
    | 5 => .ok (.fmax c.h d a b)
    | 6 => .error .ext
    | _ => .error .sub
  | some e =>
    match (bits c.f 0 4).toNat with
    | 0 => do need0 b; .ok (.faddImm c.h d a e)
    | 1 => do need0 b; .ok (.fsubImm c.h d a e)
    | 2 => do need0 b; .ok (.fmulImm c.h d a e)
    | 3 => do need0 b; .ok (.fmaImm c.h d a e)
    | 4 => do need0 b; .ok (.fminImm c.h d a e)
    | 5 => do need0 b; .ok (.fmaxImm c.h d a e)
    | 6 => do
      need0 b
      need0 (bits e 0 16)
      let src ← ElemTy.dec (bits e 24 4)
      let dst ← ElemTy.dec (bits e 20 4)
      let rm ← RMode.dec (bits e 17 3)
      if rm = .sr then .error .code else .ok (.fcvt c.h d a src dst rm (e.getLsbD 16))
    | _ => .error .sub

/-- FCMP (R246): codes 8 to 15 are reserved. -/
def decFcmp (c : Cut) : Except Reject Instr :=
  if c.f.getLsbD 3 then .error .code else
  let cc := FCond.dec (bits c.f 0 3)
  match c.e with
  | none => .ok (.fcmp c.h cc (bits c.f 12 4) (bits c.f 8 4) (bits c.f 4 4))
  | some e => do need0 (bits c.f 4 4); .ok (.fcmpImm c.h cc (bits c.f 12 4) (bits c.f 8 4) e)

/-- PRED (R247). -/
def decPred (c : Cut) : Except Reject Instr := do
  noExt c
  let d := bits c.f 12 4
  let a := bits c.f 8 4
  let b := bits c.f 4 4
  match (bits c.f 0 4).toNat with
  | 0 => .ok (.pand c.h d a b)
  | 1 => .ok (.por c.h d a b)
  | 2 => .ok (.pxor c.h d a b)
  | 3 => .ok (.pandn c.h d a b)
  | 4 => do need0 b; .ok (.pmov c.h d a)
  | 5 => do let w ← PredW.dec b; .ok (.pset c.h w d a)
  | 6 => do let w ← PredW.dec b; .ok (.pcnt c.h w d a)
  | 7 => do let w ← PredW.dec b; .ok (.pfirst c.h w d a)
  | _ => .error .sub

/-- FLOW (R211, R212). -/
def decFlow (c : Cut) : Except Reject Instr :=
  let l := bits c.f 0 13
  match c.e with
  | none =>
    match (bits c.f 13 3).toNat with
    | 0 => .ok (.br c.h l)
    | 1 => .ok (.call c.h l)
    | 2 => .ok (.brq c.h (l.getLsbD 12) (bits l 0 12))
    | 3 => .ok (.loop c.h (bits l 9 4) (bits l 0 9))
    | 4 => do need0 (bits l 0 9); .ok (.jr c.h (bits l 9 4))
    | 5 => do need0 l; .ok (.ret c.h)
    | 6 => do need0 l; .ok (.nop c.h)
    | _ => if c.h.g = 15 ∧ c.h.gn = false then .ok (.pool c.h l) else .error .code
  | some e =>
    match (bits c.f 13 3).toNat with
    | 0 => .ok (.brExt c.h (e ++ l))
    | 1 => .ok (.callExt c.h (e ++ l))
    | 2 => .ok (.brqExt c.h (l.getLsbD 12) (e ++ bits l 0 12))
    | 3 => .ok (.loopExt c.h (bits l 9 4) (e ++ bits l 0 9))
    | _ => .error .ext

/-- COUPLE (R253, R254, R256). -/
def decCouple (c : Cut) : Except Reject Instr := do
  noExt c
  let r := bits c.f 8 4
  let n := bits c.f 0 8
  match (bits c.f 12 4).toNat with
  | 0 => do need0 r; .ok (.tkwB c.h n)
  | 1 => do need0 r; .ok (.tkwA c.h n)
  | 2 => do need0 r; .ok (.tksB c.h n)
  | 3 => do need0 r; .ok (.tksA c.h n)
  | 4 => do need0 n; .ok (.qpush c.h r)
  | 5 => do need0 n; .ok (.qpop c.h r)
  | 6 => do let k ← reg3 r; .ok (.kwait c.h k n)
  | _ => .error .sub

/-- WORK (R257, R258): levels 8 to 15 are reserved. -/
def decWork (c : Cut) : Except Reject Instr := do
  noExt c
  let d := bits c.f 12 4
  let a := bits c.f 8 4
  let j ← reg3 (bits c.f 4 4)
  match (bits c.f 0 4).toNat with
  | 0 => .ok (.rnext c.h d a j)
  | 1 => do need0 a; .ok (.lvlBase c.h d j)
  | 2 => do need0 a; .ok (.lvlLimit c.h d j)
  | 3 => do need0 a; .ok (.lvlTrip c.h d j)
  | 4 => do need0 a; .ok (.lvlCoord c.h d j)
  | _ => .error .sub

/-- The 4-byte element types that govern the reel (R259). -/
def reelEt (et : ElemTy) : Bool := et = .fp32 || et = .i32 || et = .u32

/-- Whether value rows of a dqpush are legal (R260). -/
def reelVals (vals : TileOp) (n : BitVec 3) : Bool :=
  if n.toNat ≤ 1 then true else match vals with
  | .tile _ r => r.toNat + n.toNat ≤ 16
  | _ => false

/-- REEL (R259 to R262). -/
def decReel (c : Cut) : Except Reject Instr := do
  let e ← ext c
  let md := bits e 0 3
  needFalse (c.f.getLsbD 0)
  match (bits e 3 3).toNat with
  | 0 => do
    let et ← ElemTy.dec (bits c.f 1 4)
    let pr ← decLow (bits e 17 11)
    let tag ← TileOp.dec (bits e 6 11)
    let vals ← TileOp.dec (bits c.f 5 11)
    if !reelEt et || md.toNat > 4 then .error .code else
    if reelVals vals md then .ok (.dqpush c.h et pr tag vals md) else .error .level
  | 1 => do
    let et ← ElemTy.dec (bits c.f 1 4)
    let d ← decList (bits e 17 11)
    need0 (bits e 11 6)
    need0 (bits c.f 5 11)
    if !reelEt et || md.toNat > 4 then .error .code else
    if d.2.toNat + md.toNat ≤ 15 then .ok (.dqdrain c.h et d.1 d.2 (e.getLsbD 10) (bits e 6 4) md) else .error .level
  | 2 => do
    need0 md
    need0 (bits c.f 1 4)
    need0 (bits c.f 5 11)
    need0 (bits e 6 11)
    let x ← decLow (bits e 17 11)
    .ok (.dqcnt c.h x)
  | _ => .error .sub

/-- LDL (R248). -/
def decLdl (c : Cut) : Except Reject Instr :=
  let d := bits c.f 12 4
  let o := bits c.f 0 11
  match c.e, c.f.getLsbD 11 with
  | none, false => .ok (.ldlW c.h d o)
  | some e, false => .ok (.ldlWExt c.h d (e ++ o))
  | none, true => .ok (.ldlD c.h d o)
  | some e, true => .ok (.ldlDExt c.h d (e ++ o))

/-- LD (R267). -/
def decLd (c : Cut) : Except Reject Instr := do
  let sz ← LdSize.dec (bits c.f 6 3)
  let fe ← FEq.dec (bits c.f 4 2)
  let k ← Ctr.dec (bits c.f 1 3) (c.f.getLsbD 0)
  match c.e with
  | none => .ok (.ld c.h (bits c.f 12 4) (bits c.f 9 3) sz fe k)
  | some e => .ok (.ldOffset c.h (bits c.f 12 4) (bits c.f 9 3) sz fe k e)

/-- ST (R268). -/
def decSt (c : Cut) : Except Reject Instr := do
  let sz ← StSize.dec (bits c.f 6 3)
  need0 (bits c.f 4 2)
  let k ← Ctr.dec (bits c.f 1 3) (c.f.getLsbD 0)
  match c.e with
  | none => .ok (.st c.h (bits c.f 12 4) (bits c.f 9 3) sz k)
  | some e => .ok (.stOffset c.h (bits c.f 12 4) (bits c.f 9 3) sz k e)

/-- TMEM (R270). -/
def decTmem (c : Cut) : Except Reject Instr := do
  let e ← ext c
  let t := bits c.f 11 5
  let row := bits c.f 7 4
  let nr := bits c.f 3 4
  let a := bits c.f 0 3
  needFalse (e.getLsbD 4)
  let fe ← FEq.dec (bits e 6 2)
  let k ← Ctr.dec (bits e 1 3) (e.getLsbD 0)
  if row.toNat + nr.toNat > 15 then .error .field else
  if e.getLsbD 5 then
    if fe = .none then .ok (.stt c.h t row nr a (bits e 8 20) k) else .error .code
  else .ok (.ldt c.h t row nr a (bits e 8 20) fe k)

/-- XFER (R272 to R276). -/
def decXfer (c : Cut) : Except Reject Instr := do
  let e ← ext c
  let m := cutCmd c.f e
  let k ← Ctr.dec m.k m.kv
  if m.sub.toNat < 3 then do
    let a ← reg3 m.a
    let b ← reg3 m.b
    let acq ← OScope.dec m.acq
    let rel ← OScope.dec m.rel
    let cnt ← OptX.dec (m.cf.getLsbD 17) (bits m.cf 13 4)
    let fill ← OptRing.dec (m.cf.getLsbD 12) (bits m.cf 9 3)
    need0 (bits m.cf 0 5)
    let esz := bits m.cf 5 4
    if esz.toNat > 12 then .error .code else
    match m.sub.toNat with
    | 0 => do need0 esz; .ok (.copy c.h a b m.c acq rel k cnt fill)
    | 1 => .ok (.gath c.h a b m.c esz acq rel k cnt fill)
    | _ => .ok (.scat c.h a b m.c esz acq rel k cnt fill)
  else if m.sub.toNat < 5 then do
    let a ← reg3 m.a
    need0 m.b
    need0 m.acq
    need0 m.rel
    need0 m.cf
    if m.sub = 3 then .ok (.pref c.h a m.c k) else .ok (.invr c.h a m.c k)
  else .error .sub

/-- LMCTL (R277, R278). -/
def decLmctl (c : Cut) : Except Reject Instr := do
  let e ← ext c
  let m := cutCmd c.f e
  m.bare
  need0 m.cf
  match m.sub.toNat with
  | 0 => .ok (.sppin c.h m.c m.a m.b)
  | 1 => do need0 m.c; .ok (.spunp c.h m.a m.b)
  | 2 => do need0 m.c; .ok (.feclr c.h m.a m.b)
  | 3 => do need0 m.c; .ok (.feset c.h m.a m.b)
  | _ => .error .sub

/-- RING (R280 to R282). -/
def decRing (c : Cut) : Except Reject Instr :=
  let b := bits c.f 10 3
  let a := bits c.f 7 3
  let n := bits c.f 0 7
  match c.e with
  | none =>
    match (bits c.f 13 3).toNat with
    | 0 => do need0 n; .ok (.racq c.h b a)
    | 1 => do need0 a; need0 n; .ok (.rrel c.h b)
    | 2 => .ok (.rwait c.h b a n)
    | 3 => do need0 a; .ok (.radv c.h b n)
    | 4 => .error .ext
    | _ => .error .sub
  | some e =>
    match (bits c.f 13 3).toNat with
    | 4 => do need0 a; need0 (bits e 0 8); .ok (.rcfg c.h b (bits e 15 13) (bits e 8 7) n)
    | 0 | 1 | 2 | 3 => .error .ext
    | _ => .error .sub

/-- AMO (R283). -/
def decAmo (c : Cut) : Except Reject Instr := do
  let e ← ext c
  let m := cutCmd c.f e
  let a ← reg3 m.a
  let acq ← OScope.dec m.acq
  let rel ← OScope.dec m.rel
  let k ← Ctr.dec m.k m.kv
  let dw := m.sub.getLsbD 3
  match (bits m.sub 0 3).toNat with
  | 0 => .ok (.amoAdd c.h dw a m.b m.c acq rel k m.cf)
  | 1 => .ok (.amoMin c.h dw a m.b m.c acq rel k m.cf)
  | 2 => .ok (.amoMax c.h dw a m.b m.c acq rel k m.cf)
  | 3 => .ok (.amoAnd c.h dw a m.b m.c acq rel k m.cf)
  | 4 => .ok (.amoOr c.h dw a m.b m.c acq rel k m.cf)
  | 5 => .ok (.amoXor c.h dw a m.b m.c acq rel k m.cf)
  | 6 => .ok (.amoXchg c.h dw a m.b m.c acq rel k m.cf)
  | _ => .ok (.amoCas c.h dw a m.b m.c acq rel k m.cf)

/-- VAMO (R284): cas with RV = 15 is illegal. -/
def decVamo (c : Cut) : Except Reject Instr := do
  let e ← ext c
  let m := cutCmd c.f e
  let a ← reg3 m.a
  need0 m.b
  need0 m.c
  let acq ← OScope.dec m.acq
  let rel ← OScope.dec m.rel
  let k ← Ctr.dec m.k m.kv
  let dw := m.sub.getLsbD 3
  let tv := bits m.cf 13 5
  let rv := bits m.cf 9 4
  let ti := bits m.cf 4 5
  let ri := bits m.cf 0 4
  match (bits m.sub 0 3).toNat with
  | 0 => .ok (.vamoAdd c.h dw a acq rel k tv rv ti ri)
  | 1 => .ok (.vamoMin c.h dw a acq rel k tv rv ti ri)
  | 2 => .ok (.vamoMax c.h dw a acq rel k tv rv ti ri)
  | 3 => .ok (.vamoAnd c.h dw a acq rel k tv rv ti ri)
  | 4 => .ok (.vamoOr c.h dw a acq rel k tv rv ti ri)
  | 5 => .ok (.vamoXor c.h dw a acq rel k tv rv ti ri)
  | 6 => .ok (.vamoXchg c.h dw a acq rel k tv rv ti ri)
  | _ => if rv = 15 then .error .code else .ok (.vamoCas c.h dw a acq rel k tv rv ti ri)

/-- SYNC (R227, R286 to R288). -/
def decSync (c : Cut) : Except Reject Instr := do
  noExt c
  let sc := bits c.f 9 3
  let k := bits c.f 6 3
  let cv := bits c.f 4 2
  let xa := bits c.f 0 4
  match (bits c.f 12 4).toNat with
  | 0 => do
    let s ← Scope.dec sc
    need0 xa
    .ok (.fence c.h s k (Cover.dec cv))
  | 1 => do need0 sc; need0 k; need0 cv; need0 xa; .ok (.fwait c.h)
  | 2 => do need0 sc; need0 k; .ok (.wait4 c.h xa cv)
  | 3 => do need0 sc; need0 k; need0 cv; if xa.getLsbD 0 then .error .code else .ok (.bexp c.h xa)
  | 4 => do
    let s ← Scope.dec sc
    need0 k
    need0 cv
    if xa.getLsbD 0 then .error .code else .ok (.bwait c.h s xa)
  | _ => .error .sub

/-! ## Tile-row majors (R292, R293) -/

/-- The fields of a TILE word. -/
structure TileW where
  td : BitVec 11
  ta : BitVec 11
  tb : BitVec 11
  et : BitVec 4
  sat : Bool
  sub : Nat
  md : BitVec 3
  deriving DecidableEq, Repr

def cutTile (f : BitVec 16) (e : BitVec 28) : TileW :=
  ⟨bits e 17 11, bits e 6 11, bits f 5 11, bits f 1 4, f.getLsbD 0, (bits e 3 3).toNat, bits e 0 3⟩

def isFp (et : ElemTy) : Bool := et = .fp32 || et = .fp16 || et = .bf16

/-- An element type of an integer-only position. -/
def decInt (c : BitVec 4) : Except Reject ElemTy := do
  let et ← ElemTy.dec c
  if isFp et then .error .code else .ok et

def decFp (c : BitVec 4) : Except Reject ElemTy := do
  let et ← ElemTy.dec c
  if isFp et then .ok et else .error .code

/-- SAT is allowed on integer types only. -/
def satOk (et : ElemTy) (sat : Bool) : Except Reject Unit := if sat && isFp et then .error .code else .ok ()

/-- VARITH. -/
def decVarith (c : Cut) : Except Reject Instr := do
  let e ← ext c
  let m := cutTile c.f e
  need0 m.md
  let et ← ElemTy.dec m.et
  let d ← TileOp.decD m.td
  let a ← TileOp.dec m.ta
  if m.sub < 6 then do
    let b ← TileOp.dec m.tb
    match m.sub with
    | 0 => do satOk et m.sat; .ok (.vadd c.h et m.sat d a b)
    | 1 => do satOk et m.sat; .ok (.vsub c.h et m.sat d a b)
    | 2 => do satOk et m.sat; .ok (.vmul c.h et m.sat d a b)
    | 3 => do satOk et m.sat; .ok (.vfma c.h et m.sat d a b)
    | 4 => do needFalse m.sat; .ok (.vmin c.h et d a b)
    | _ => do needFalse m.sat; .ok (.vmax c.h et d a b)
  else do
    need0 m.tb
    satOk et m.sat
    if m.sub = 6 then .ok (.vabs c.h et m.sat d a) else .ok (.vneg c.h et m.sat d a)

/-- VCMPSEL. -/
def decVcmpsel (c : Cut) : Except Reject Instr := do
  let e ← ext c
  let m := cutTile c.f e
  needFalse m.sat
  let et ← ElemTy.dec m.et
  let a ← TileOp.dec m.ta
  match m.sub with
  | 0 => do
    let d ← decLow m.td
    let b ← TileOp.dec m.tb
    let cc := FCond.dec m.md
    if (cc = .un || cc = .ord) && !isFp et then .error .code else .ok (.vcmp c.h cc et d a b)
  | 1 => do
    let d ← TileOp.decD m.td
    let b ← TileOp.dec m.tb
    .ok (.vsel c.h et d a b m.md)
  | 2 => do
    let d ← TileOp.decD m.td
    need0 m.tb
    need0 m.md
    .ok (.vmov c.h et d a)
  | _ => .error .sub

/-- VLOGIC. -/
def decVlogic (c : Cut) : Except Reject Instr := do
  let e ← ext c
  let m := cutTile c.f e
  let d ← TileOp.decD m.td
  let a ← TileOp.dec m.ta
  let b ← TileOp.dec m.tb
  match m.sub with
  | 0 => do needFalse m.sat; need0 m.md; let et ← ElemTy.dec m.et; .ok (.vand c.h et d a b)
  | 1 => do needFalse m.sat; need0 m.md; let et ← ElemTy.dec m.et; .ok (.vor c.h et d a b)
  | 2 => do needFalse m.sat; need0 m.md; let et ← ElemTy.dec m.et; .ok (.vxor c.h et d a b)
  | 3 => .ok (.vlop3 c.h (m.et ++ BitVec.ofBool m.sat ++ m.md) d a b)
  | _ => .error .sub

/-- VSHIFT. -/
def decVshift (c : Cut) : Except Reject Instr := do
  let e ← ext c
  let m := cutTile c.f e
  needFalse m.sat
  need0 m.md
  let d ← TileOp.decD m.td
  let a ← TileOp.dec m.ta
  let b ← TileOp.dec m.tb
  match m.sub with
  | 0 => do let et ← decInt m.et; .ok (.vshl c.h et d a b)
  | 1 => do let et ← decInt m.et; .ok (.vshr c.h et d a b)
  | 2 => do let et ← decInt m.et; .ok (.vsra c.h et d a b)
  | 3 => do let et ← decInt m.et; .ok (.vfunl c.h et d a b)
  | 4 => do let et ← decInt m.et; .ok (.vfunr c.h et d a b)
  | 5 => do let et ← ElemTy.dec m.et; .ok (.vrot c.h et d a b)
  | _ => .error .sub

/-- VPERM. -/
def decVperm (c : Cut) : Except Reject Instr := do
  let e ← ext c
  let m := cutTile c.f e
  needFalse m.sat
  need0 m.md
  let et ← ElemTy.dec m.et
  let d ← TileOp.decD m.td
  let a ← TileOp.dec m.ta
  let b ← TileOp.dec m.tb
  match m.sub with
  | 0 => .ok (.vperm c.h et d a b)
  | 1 => .ok (.vbcast c.h et d a b)
  | _ => .error .sub

/-- VCVT: vpack and vunpk take type 11, where a broadcast raises ILLEGAL (R204). -/
def decVcvt (c : Cut) : Except Reject Instr := do
  let e ← ext c
  let m := cutTile c.f e
  let d ← TileOp.decD m.td
  let n ← decLow m.tb
  match m.sub with
  | 0 => do
    let a ← TileOp.dec m.ta
    let dst ← ElemTy.dec m.et
    let src ← ElemTy.dec n
    let rm ← RMode.dec m.md
    .ok (.vcvt c.h dst src m.sat rm d a)
  | 1 => do
    let a ← TileOp.decNoB m.ta
    needFalse m.sat
    let rm ← RMode.dec m.md
    if m.et = 11 then .ok (.vpack c.h rm d a n) else .error .code
  | 2 => do
    let a ← TileOp.decNoB m.ta
    needFalse m.sat
    need0 m.md
    if m.et = 11 then .ok (.vunpk c.h d a n) else .error .code
  | _ => .error .sub

/-- A reduction's type and saturation (R292, R293). -/
def redOk (op : RedOp) (et : ElemTy) (sat : Bool) : Bool :=
  match op with
  | .add => !(sat && isFp et)
  | .min | .max => !sat
  | _ => !sat && !isFp et

/-- VRED. -/
def decVred (c : Cut) : Except Reject Instr := do
  let e ← ext c
  let m := cutTile c.f e
  if m.sub = 0 then do
    let d ← TileOp.decD m.td
    let a ← TileOp.dec m.ta
    need0 m.tb
    let et ← ElemTy.dec m.et
    let op ← RedOp.dec m.md
    if redOk op et m.sat then .ok (.vred c.h op et m.sat d a) else .error .code
  else .error .sub

/-- VFUN. -/
def decVfun (c : Cut) : Except Reject Instr := do
  let e ← ext c
  let m := cutTile c.f e
  needFalse m.sat
  need0 m.md
  need0 m.tb
  let d ← TileOp.decD m.td
  let a ← TileOp.dec m.ta
  let et ← decFp m.et
  match m.sub with
  | 0 => .ok (.vexp c.h et d a)
  | 1 => .ok (.vlog c.h et d a)
  | 2 => .ok (.vrcp c.h et d a)
  | 3 => .ok (.vrsq c.h et d a)
  | _ => .error .sub

/-- VRAND. -/
def decVrand (c : Cut) : Except Reject Instr := do
  let e ← ext c
  let m := cutTile c.f e
  needFalse m.sat
  need0 m.md
  need0 m.tb
  let et ← ElemTy.dec m.et
  match m.sub with
  | 0 => do
    need0 m.ta
    let d ← TileOp.decD m.td
    if et = .fp32 || et = .u32 then .ok (.vrng c.h et d) else .error .code
  | 1 => do
    let d ← decLow m.td
    let a ← TileOp.dec m.ta
    if et = .u32 then .ok (.vbern c.h d a) else .error .code
  | _ => .error .sub

/-- RLIST. -/
def decRlist (c : Cut) : Except Reject Instr := do
  let e ← ext c
  let m := cutTile c.f e
  needFalse m.sat
  need0 m.md
  need0 m.et
  match m.sub with
  | 0 => do let t ← decList m.td; let xa ← decX m.ta; let xb ← decX m.tb; .ok (.rlcfg c.h t.1 t.2 xa xb)
  | 1 => do let t ← decList m.td; let a ← TileOp.dec m.ta; let xb ← decX m.tb; .ok (.rlins c.h t.1 t.2 a xb)
  | 2 => do let t ← decList m.td; need0 m.ta; let xb ← decX m.tb; .ok (.rlmrg c.h t.1 t.2 xb)
  | 3 => do let t ← decList m.td; need0 m.ta; let xb ← decX m.tb; .ok (.rlthr c.h t.1 t.2 xb)
  | 4 => do let d ← TileOp.decD m.td; let t ← decList m.ta; need0 m.tb; .ok (.rlrd c.h d t.1 t.2)
  | _ => .error .sub

/-- Legal dimensions of vsfc (R293, R312): DIMS code 3 is reserved, and so is Hilbert in four dimensions. -/
def sfcOk (hilbert : Bool) (dims : BitVec 2) (r : BitVec 4) : Bool :=
  dims.toNat < 3 && !(hilbert && dims = 2) && (r.toNat + dims.toNat + 1 ≤ 15)

/-- VSFC. -/
def decVsfc (c : Cut) : Except Reject Instr := do
  let e ← ext c
  let m := cutTile c.f e
  needFalse m.sat
  need0 m.tb
  if m.sub = 0 then do
    let d ← TileOp.decD m.td
    let t ← decList m.ta
    let hil := m.md.getLsbD 2
    let dims := bits m.md 0 2
    if m.et = 10 ∧ sfcOk hil dims t.2 = true then .ok (.vsfc c.h hil dims d t.1 t.2) else .error .code
  else .error .sub

/-! ## Commands -/

/-- STREAM (R319). -/
def decStream (c : Cut) : Except Reject Instr := do
  let e ← ext c
  let m := cutCmd c.f e
  m.bare
  match m.sub.toNat with
  | 0 => do need0 m.c; let b ← reg3 m.b; .ok (.gset c.h m.a b m.cf)
  | 1 => do need0 m.cf; .ok (.gadv c.h m.a m.b m.c)
  | _ => .error .sub

/-- LEASE (R320). -/
def decLease (c : Cut) : Except Reject Instr := do
  let e ← ext c
  let m := cutCmd c.f e
  need0 m.acq
  need0 m.rel
  need0 m.a
  need0 m.b
  need0 m.c
  match m.sub.toNat with
  | 0 => do need0 (bits m.cf 2 16); let k ← Ctr.dec m.k m.kv; .ok (.mlease c.h (bits m.cf 0 2) k)
  | 1 => do need0 m.k; needFalse m.kv; need0 m.cf; .ok (.mfree c.h)
  | _ => .error .sub

/-- MLOADB (R324). -/
def decMloadb (c : Cut) : Except Reject Instr := do
  let e ← ext c
  let m := cutCmd c.f e
  if m.sub = 0 then do
    need0 m.rel
    need0 m.b
    need0 m.c
    need0 (bits m.cf 0 14)
    let acq ← OScope.dec m.acq
    let k ← Ctr.dec m.k m.kv
    .ok (.mloadb c.h m.a (Arr.dec (m.cf.getLsbD 17)) (m.cf.getLsbD 16) (bits m.cf 14 2) acq k)
  else .error .sub

/-- MMUL (R325). -/
def decMmul (c : Cut) : Except Reject Instr := do
  let e ← ext c
  let m := cutCmd c.f e
  if m.sub = 0 then do
    need0 m.rel
    need0 (bits m.cf 0 4)
    let acq ← OScope.dec m.acq
    let k ← Ctr.dec m.k m.kv
    let fe ← FEq.ofBits (m.cf.getLsbD 13) (m.cf.getLsbD 12)
    let lx ← OptX.dec (m.cf.getLsbD 11) m.b
    let bd ← OptX.dec (m.cf.getLsbD 4) m.c
    let lk := bits m.cf 5 6
    if m.cf.getLsbD 11 = false ∧ lk ≠ 0 then .error .field else
    let l := lx.map fun x => (x, lk)
    let arr := Arr.dec (m.cf.getLsbD 17)
    let init := m.cf.getLsbD 16
    let rag := m.cf.getLsbD 14
    if m.cf.getLsbD 15 then do
      need0 m.a
      .ok (.mmul c.h none arr init rag fe l bd acq k)
    else .ok (.mmul c.h (some m.a) arr init rag fe l bd acq k)
  else .error .sub

/-- MATTN (R329). -/
def decMattn (c : Cut) : Except Reject Instr := do
  let e ← ext c
  let m := cutCmd c.f e
  if m.sub = 0 then do
    need0 m.rel
    need0 (bits m.cf 0 12)
    let acq ← OScope.dec m.acq
    let k ← Ctr.dec m.k m.kv
    let fe ← FEq.ofBits (m.cf.getLsbD 13) (m.cf.getLsbD 12)
    .ok (.mattn c.h m.a m.b m.c (bits m.cf 14 4) fe acq k)
  else .error .sub

/-- MBANK (R327, R330, R331): the issuing sequencer fixes the form of mdrain. -/
def decMbank (q : SeqId) (c : Cut) : Except Reject Instr := do
  let e ← ext c
  let m := cutCmd c.f e
  let arr := Arr.dec (m.cf.getLsbD 17)
  match m.sub.toNat with
  | 0 => do
    let acq ← OScope.dec m.acq
    let k ← Ctr.dec m.k m.kv
    let alt := m.cf.getLsbD 16
    let md := DrainMode.dec (bits m.cf 14 2)
    if q = .store then do
      let rel ← OScope.dec m.rel
      let b ← reg3 m.b
      need0 (bits m.cf 0 9)
      let cnt ← OptX.dec (m.cf.getLsbD 13) (bits m.cf 9 4)
      .ok (.mdrainMemory c.h arr alt md cnt m.a b m.c acq rel k)
    else do
      need0 m.rel
      need0 m.b
      need0 m.c
      needFalse (m.cf.getLsbD 0)
      let row := bits m.cf 5 4
      let nr := bits m.cf 1 4
      if row.toNat + nr.toNat > 15 then .error .field
      else .ok (.mdrainTile c.h arr alt md (bits m.cf 9 5) row nr m.a acq k)
  | 1 => do m.bare; need0 m.a; need0 m.b; need0 m.c; need0 (bits m.cf 0 17); .ok (.mswap c.h arr)
  | 2 => do m.bare; need0 m.a; need0 m.b; need0 m.c; need0 (bits m.cf 2 16); .ok (.mchain c.h (bits m.cf 0 2))
  | 3 => do m.bare; need0 m.b; need0 m.cf; .ok (.mshape c.h m.a m.c)
  | _ => .error .sub

/-- ENGINE (R332). -/
def decEngine (c : Cut) : Except Reject Instr := do
  let e ← ext c
  let m := cutCmd c.f e
  need0 m.c
  need0 m.cf
  let acq ← OScope.dec m.acq
  let rel ← OScope.dec m.rel
  let k ← Ctr.dec m.k m.kv
  match m.sub.toNat with
  | 0 => .ok (.sample c.h m.a m.b acq rel k)
  | 1 => .ok (.beamsel c.h m.a m.b acq rel k)
  | _ => .error .sub

/-- KV (R333). -/
def decKv (c : Cut) : Except Reject Instr := do
  let e ← ext c
  let m := cutCmd c.f e
  let acq ← OScope.dec m.acq
  let rel ← OScope.dec m.rel
  let k ← Ctr.dec m.k m.kv
  match m.sub.toNat with
  | 0 => do need0 m.cf; let b ← reg3 m.b; .ok (.kvapp c.h m.c m.a b acq rel k)
  | 1 => do need0 m.cf; need0 m.b; let a ← reg3 m.a; .ok (.kvappNew c.h m.c a acq rel k)
  | 2 => do need0 m.cf; need0 m.b; need0 m.c; .ok (.kvappDrop c.h m.a acq rel k)
  | 3 => do need0 (bits m.cf 4 14); .ok (.kvmap c.h m.c m.a m.b (bits m.cf 0 4) acq rel k)
  | _ => .error .sub

/-- A register operand must not exceed a bound (R334). -/
def regMax (r : BitVec 4) (n : Nat) : Except Reject Unit := if r.toNat ≤ n then .ok () else .error .code

/-- TASK (R334 to R341). -/
def decTask (c : Cut) : Except Reject Instr := do
  let e ← ext c
  let m := cutCmd c.f e
  let pd := bits m.cf 0 4
  let hi := bits m.cf 5 13
  let acq ← OScope.dec m.acq
  let rel ← OScope.dec m.rel
  let k ← Ctr.dec m.k m.kv
  match m.sub.toNat with
  | 0 => do
    need0 m.acq; needFalse m.kv; need0 hi; regMax m.a 12
    let die ← OptX.dec (m.cf.getLsbD 4) m.b
    .ok (.tspawn c.h m.c m.a pd die rel)
  | 1 => do
    need0 m.rel; needFalse m.kv; need0 hi; needFalse (m.cf.getLsbD 4); need0 m.b; regMax m.c 11
    .ok (.tpop c.h m.c m.a pd acq)
  | 2 => do
    need0 m.acq; need0 m.rel; needFalse m.kv; need0 hi; needFalse (m.cf.getLsbD 4); need0 m.c
    .ok (.trepri c.h m.a m.b pd)
  | 3 => do
    need0 m.acq; need0 m.rel; need0 hi; need0 m.c
    let md ← OptX.dec (m.cf.getLsbD 4) m.b
    .ok (.tcancel c.h m.a pd md k)
  | 4 => do
    need0 m.acq; needFalse m.kv; need0 hi; needFalse (m.cf.getLsbD 4); regMax m.a 12
    .ok (.tcont c.h m.c m.a m.b pd rel)
  | 5 => do
    need0 m.acq; needFalse m.kv; need0 hi; need0 m.b; need0 m.c
    let row ← OptX.dec (m.cf.getLsbD 4) m.a
    .ok (.tdone c.h pd row rel)
  | 6 => do
    m.bare; need0 hi; needFalse (m.cf.getLsbD 4); need0 m.a; need0 m.b; need0 m.c
    .ok (.cpoint c.h pd)
  | 7 => do
    m.bare; need0 (bits m.cf 6 12); regMax m.c 14
    match (bits m.cf 4 2).toNat with
    | 0 => do need0 m.b; .ok (.gnewPlain c.h m.c m.a pd)
    | 1 => .ok (.gnewRope c.h m.c m.a pd m.b)
    | 2 => do need0 m.b; .ok (.gnewSib c.h m.c m.a pd)
    | _ => do need0 m.b; .ok (.gnewQ c.h m.c m.a pd)
  | _ => .error .sub

/-- NODE (R342 to R345). -/
def decNode (c : Cut) : Except Reject Instr := do
  let e ← ext c
  let m := cutCmd c.f e
  let pd := bits m.cf 0 4
  let acq ← OScope.dec m.acq
  let rel ← OScope.dec m.rel
  let k ← Ctr.dec m.k m.kv
  match m.sub.toNat with
  | 0 => do
    m.bare; need0 (bits m.cf 6 12)
    if m.cf.getLsbD 5 then do
      needFalse (m.cf.getLsbD 4); need0 m.c
      .ok (.nallocFree c.h m.a m.b pd)
    else do
      let die ← OptX.dec (m.cf.getLsbD 4) m.b
      .ok (.nalloc c.h m.c m.a pd die)
  | 1 => do
    need0 m.rel; needFalse m.kv; need0 (bits m.cf 7 11); need0 m.b
    .ok (.nrd c.h m.c m.a (bits m.cf 0 6) (m.cf.getLsbD 6) acq)
  | 2 => do
    need0 m.acq; need0 (bits m.cf 7 11); need0 m.c
    .ok (.nwr c.h m.a m.b (bits m.cf 0 6) (m.cf.getLsbD 6) rel k)
  | 3 => do need0 m.rel; need0 m.cf; need0 m.c; .ok (.nvloss c.h m.a m.b acq k)
  | 4 => do
    need0 m.rel; need0 (bits m.cf 5 13); need0 (bits m.cf 0 4)
    .ok (.nbackup c.h (m.cf.getLsbD 4) m.a m.b m.c acq k)
  | 5 => do m.bare; need0 (bits m.cf 4 14); regMax m.b 14; .ok (.nsel c.h m.c m.a m.b pd)
  | _ => .error .sub

/-- BALLOT (R346). -/
def decBallot (c : Cut) : Except Reject Instr := do
  let e ← ext c
  let m := cutCmd c.f e
  if m.sub = 0 then do
    need0 m.acq; need0 m.k; needFalse m.kv; need0 m.b; need0 (bits m.cf 5 13); need0 (bits m.cf 0 4)
    let rel ← OScope.dec m.rel
    .ok (.ballot c.h (m.cf.getLsbD 4) m.c m.a rel)
  else .error .sub

/-- FABRIC (R347, R348). -/
def decFabric (c : Cut) : Except Reject Instr := do
  let e ← ext c
  let m := cutCmd c.f e
  let acq ← OScope.dec m.acq
  let rel ← OScope.dec m.rel
  let k ← Ctr.dec m.k m.kv
  if m.sub.toNat < 5 then do
    need0 m.b; need0 m.c; need0 m.cf
    match m.sub.toNat with
    | 0 => .ok (.collAr c.h m.a acq rel k)
    | 1 => .ok (.collAg c.h m.a acq rel k)
    | 2 => .ok (.collRs c.h m.a acq rel k)
    | 3 => .ok (.collA2a c.h m.a acq rel k)
    | _ => .ok (.repart c.h m.a acq rel k)
  else match m.sub.toNat with
  | 5 => do
    m.bare; need0 (bits m.cf 7 11); regMax m.c 14
    .ok (.disp c.h m.c m.a m.b (bits m.cf 0 4) (bits m.cf 4 3))
  | 6 => do
    need0 m.acq; need0 m.rel; need0 m.a; need0 m.b; need0 m.c; need0 (bits m.cf 7 11); need0 (bits m.cf 0 4)
    .ok (.dispMb c.h (bits m.cf 4 3) k)
  | _ => .error .sub

/-- GRAPH (R349 to R351). -/
def decGraph (c : Cut) : Except Reject Instr := do
  let e ← ext c
  let m := cutCmd c.f e
  need0 m.acq
  let rel ← OScope.dec m.rel
  let k ← Ctr.dec m.k m.kv
  match m.sub.toNat with
  | 0 => do
    needFalse m.kv; need0 m.c; need0 (bits m.cf 6 12)
    if m.cf.getLsbD 5 then do
      need0 m.a; need0 (bits m.cf 0 5)
      .ok (.gparmReplay c.h m.b rel)
    else .ok (.gparm c.h m.a m.b (bits m.cf 0 5) rel)
  | 1 => do
    need0 m.c; need0 (bits m.cf 2 16)
    .ok (.hring c.h (m.cf.getLsbD 1) (m.cf.getLsbD 0) m.a m.b rel k)
  | 2 => do m.bare; need0 m.a; need0 m.b; need0 m.cf; .ok (.time c.h m.c)
  | _ => .error .sub

/-- SYS (R353). -/
def decSys (c : Cut) : Except Reject Instr := do
  noExt c
  let x := bits c.f 12 4
  let n := bits c.f 0 8
  match (bits c.f 8 4).toNat with
  | 0 => do need0 x; .ok (.trap c.h n)
  | 1 => do need0 x; need0 n; .ok (.eret c.h)
  | 2 => .ok (.sysrd c.h x n)
  | 3 => .ok (.syswr c.h n x)
  | 4 => do need0 x; need0 n; .ok (.yield c.h)
  | 5 => do need0 n; .ok (.idle c.h x)
  | 6 => do need0 x; .ok (.bkpt c.h n)
  | _ => .error .sub

/-- BIVOUAC (R264, R265). -/
def decBivouac (c : Cut) : Except Reject Instr := do
  noExt c
  let d := bits c.f 12 4
  let a := bits c.f 8 4
  let b := bits c.f 4 4
  need0 d
  match (bits c.f 0 4).toNat with
  | 0 => .ok (.spbeg c.h a b)
  | 1 => do need0 a; need0 b; .ok (.spcom c.h)
  | 2 => do need0 a; need0 b; .ok (.spabt c.h)
  | _ => .error .sub

/-- The opcode map (R206 Table 3). -/
def decMajor (q : SeqId) (maj : Nat) (c : Cut) : Except Reject Instr :=
  match maj with
  | 0x01 => decAlu c
  | 0x02 => decAlu2 c
  | 0x03 => decLi c
  | 0x04 => decCmp c
  | 0x05 => decFpu c
  | 0x06 => decFcmp c
  | 0x07 => decPred c
  | 0x08 => decFlow c
  | 0x09 => decCouple c
  | 0x0A => decWork c
  | 0x0B => decReel c
  | 0x0C => decLdl c
  | 0x0D => decLd c
  | 0x0E => decSt c
  | 0x0F => decTmem c
  | 0x10 => decXfer c
  | 0x11 => decLmctl c
  | 0x12 => decRing c
  | 0x13 => decAmo c
  | 0x14 => decVamo c
  | 0x15 => decSync c
  | 0x16 => decVarith c
  | 0x17 => decVcmpsel c
  | 0x18 => decVlogic c
  | 0x19 => decVshift c
  | 0x1A => decVperm c
  | 0x1B => decVcvt c
  | 0x1C => decVred c
  | 0x1D => decVfun c
  | 0x1E => decVrand c
  | 0x1F => decRlist c
  | 0x20 => decVsfc c
  | 0x21 => decStream c
  | 0x22 => decLease c
  | 0x23 => decMloadb c
  | 0x24 => decMmul c
  | 0x25 => decMattn c
  | 0x26 => decMbank q c
  | 0x27 => decEngine c
  | 0x28 => decKv c
  | 0x29 => decTask c
  | 0x2A => decNode c
  | 0x2B => decBallot c
  | 0x2C => decFabric c
  | 0x2D => decGraph c
  | 0x2E => decSys c
  | 0x2F => decBivouac c
  | _ => .error .major

/-- The bit X of a first word (R198). -/
def hasExt (w0 : Word32) : Bool := w0.getLsbD 22

def majOf (w0 : Word32) : Nat := (bits w0 16 6).toNat

/-- The word cut into its fields; e is the word after it when X = 1. -/
def cut (w0 e : Word32) : Cut :=
  if hasExt w0 then
    ⟨⟨Tok.dec (bits w0 28 4), bits w0 24 4, w0.getLsbD 23, Tok.dec (bits e 28 4)⟩, bits w0 0 16, some (bits e 0 28)⟩
  else ⟨⟨Tok.dec (bits w0 28 4), bits w0 24 4, w0.getLsbD 23, Tok.dec 0⟩, bits w0 0 16, none⟩

/-- The decoder (R201 check 2 without the sequencer and MATRIX checks, which the machine makes): w0 at PC and, when its X
is set, e at PC + 1, on sequencer q. -/
def decodeWords (q : SeqId) (w0 e : Word32) : Except Reject Instr := decMajor q (majOf w0) (cut w0 e)

/-- The instruction of an opcode-table word: the first word in bits 31 to 0, the extension word above it. The form of
mdrain is the execute sequencer's, and where that refuses, the store sequencer's (R330). -/
def decodeTableWord (_nbits w : Nat) : Option Instr :=
  let w0 := BitVec.ofNat 32 w
  let e := BitVec.ofNat 32 (w / 2 ^ 32)
  match decodeWords .exec w0 e with
  | .ok i => some i
  | .error _ =>
    match decodeWords .store w0 e with
    | .ok i => some i
    | .error _ => none

/-! ## Encoder -/

/-- A one-word instruction. -/
def enc1 (h : Hdr) (maj : BitVec 6) (f : BitVec 16) : List Word32 := [packW0 h.t0 h.g h.gn false maj f]

/-- A two-word instruction. -/
def enc2 (h : Hdr) (maj : BitVec 6) (f : BitVec 16) (pay : BitVec 28) : List Word32 :=
  [packW0 h.t0 h.g h.gn true maj f, packE h.t1 pay]

/-- A CMD word pair. -/
def encCmd (h : Hdr) (maj : BitVec 6) (a b c sub : BitVec 4) (acq rel : OScope) (k : Ctr) (cf : BitVec 18) : List Word32 :=
  enc2 h maj (packReg a b c sub) (packCmdE (OScope.enc acq) (OScope.enc rel) (Ctr.kBits k) (Ctr.kv k) cf)

/-- A TILE word pair. -/
def encTile (h : Hdr) (maj : BitVec 6) (sub : BitVec 3) (et : BitVec 4) (sat : Bool) (md : BitVec 3) (td ta tb : BitVec 11) :
    List Word32 :=
  enc2 h maj (packTile tb et sat) (packTileE td ta sub md)

/-- CF of an XFER command (R272 Table 1). -/
def xferCf (cnt : Option XReg) (fill : Option BRing) (esz : BitVec 4) : BitVec 18 :=
  BitVec.ofBool cnt.isSome ++ cnt.getD 0 ++ BitVec.ofBool fill.isSome ++ fill.getD 0 ++ esz ++ (0 : BitVec 5)

/-- CF of vamo (R284 Table 4). -/
def vamoCf (tv : BitVec 5) (rv : BitVec 4) (ti : BitVec 5) (ri : BitVec 4) : BitVec 18 := tv ++ rv ++ ti ++ ri

/-- CF of mmul (R325 Table 5). -/
def mmulCf (arr : Arr) (init west rag : Bool) (fe : FEq) (list : Bool) (lk : BitVec 6) (bound : Bool) : BitVec 18 :=
  BitVec.ofBool arr.enc ++ BitVec.ofBool init ++ BitVec.ofBool west ++ BitVec.ofBool rag ++ BitVec.ofBool fe.feBit ++
    BitVec.ofBool fe.fcBit ++ BitVec.ofBool list ++ lk ++ BitVec.ofBool bound ++ (0 : BitVec 4)

/-- CF with a predicate in [3:0] and one flag above it. -/
def pdCf (flag : Bool) (pd : BitVec 4) : BitVec 18 := (0 : BitVec 13) ++ BitVec.ofBool flag ++ pd

/-- The words of a well-formed instruction, first word first; an event has none. -/
def encode (i : Instr) : List Word32 :=
  match i with
  | .add h d a b => enc1 h 0x01 (packReg d a b 0)
  | .addImm h d a i => enc2 h 0x01 (packReg d a 0 0) i
  | .sub h d a b => enc1 h 0x01 (packReg d a b 1)
  | .subImm h d a i => enc2 h 0x01 (packReg d a 0 1) i
  | .mul h d a b => enc1 h 0x01 (packReg d a b 2)
  | .mulImm h d a i => enc2 h 0x01 (packReg d a 0 2) i
  | .mulh h d a b => enc1 h 0x01 (packReg d a b 3)
  | .mulhImm h d a i => enc2 h 0x01 (packReg d a 0 3) i
  | .mulhu h d a b => enc1 h 0x01 (packReg d a b 4)
  | .mulhuImm h d a i => enc2 h 0x01 (packReg d a 0 4) i
  | .div h d a b => enc1 h 0x01 (packReg d a b 5)
  | .divImm h d a i => enc2 h 0x01 (packReg d a 0 5) i
  | .divu h d a b => enc1 h 0x01 (packReg d a b 6)
  | .divuImm h d a i => enc2 h 0x01 (packReg d a 0 6) i
  | .rem h d a b => enc1 h 0x01 (packReg d a b 7)
  | .remImm h d a i => enc2 h 0x01 (packReg d a 0 7) i
  | .remu h d a b => enc1 h 0x01 (packReg d a b 8)
  | .remuImm h d a i => enc2 h 0x01 (packReg d a 0 8) i
  | .and h d a b => enc1 h 0x01 (packReg d a b 9)
  | .andImm h d a i => enc2 h 0x01 (packReg d a 0 9) i
  | .or h d a b => enc1 h 0x01 (packReg d a b 10)
  | .orImm h d a i => enc2 h 0x01 (packReg d a 0 10) i
  | .xor h d a b => enc1 h 0x01 (packReg d a b 11)
  | .xorImm h d a i => enc2 h 0x01 (packReg d a 0 11) i
  | .andn h d a b => enc1 h 0x01 (packReg d a b 12)
  | .andnImm h d a i => enc2 h 0x01 (packReg d a 0 12) i
  | .shl h d a b => enc1 h 0x01 (packReg d a b 13)
  | .shlImm h d a i => enc2 h 0x01 (packReg d a 0 13) i
  | .shr h d a b => enc1 h 0x01 (packReg d a b 14)
  | .shrImm h d a i => enc2 h 0x01 (packReg d a 0 14) i
  | .sra h d a b => enc1 h 0x01 (packReg d a b 15)
  | .sraImm h d a i => enc2 h 0x01 (packReg d a 0 15) i
  | .min h d a b => enc1 h 0x02 (packReg d a b 0)
  | .minImm h d a i => enc2 h 0x02 (packReg d a 0 0) i
  | .max h d a b => enc1 h 0x02 (packReg d a b 1)
  | .maxImm h d a i => enc2 h 0x02 (packReg d a 0 1) i
  | .minu h d a b => enc1 h 0x02 (packReg d a b 2)
  | .minuImm h d a i => enc2 h 0x02 (packReg d a 0 2) i
  | .maxu h d a b => enc1 h 0x02 (packReg d a b 3)
  | .maxuImm h d a i => enc2 h 0x02 (packReg d a 0 3) i
  | .clz h d a => enc1 h 0x02 (packReg d a 0 4)
  | .popc h d a => enc1 h 0x02 (packReg d a 0 5)
  | .sext h d a w => enc1 h 0x02 (packReg d a w.enc 6)
  | .zext h d a w => enc1 h 0x02 (packReg d a w.enc 7)
  | .movXX h d a => enc1 h 0x02 (packReg d a 0 8)
  | .movXA h d a => enc1 h 0x02 (packReg (up4 d) a 0 9)
  | .movAX h d a => enc1 h 0x02 (packReg d (up4 a) 0 10)
  | .sel h d a b p => enc2 h 0x02 (packReg d a b 11) ((0 : BitVec 24) ++ p)
  | .li h d v => enc1 h 0x03 (packImm d v)
  | .liExt h d v => enc2 h 0x03 (packImm d (bits v 0 12)) (bits v 12 28)
  | .cmp h c d a b => enc1 h 0x04 (packReg d a b c.enc)
  | .cmpImm h c d a i => enc2 h 0x04 (packReg d a 0 c.enc) i
  | .fadd h d a b => enc1 h 0x05 (packReg d a b 0)
  | .faddImm h d a i => enc2 h 0x05 (packReg d a 0 0) i
  | .fsub h d a b => enc1 h 0x05 (packReg d a b 1)
  | .fsubImm h d a i => enc2 h 0x05 (packReg d a 0 1) i
  | .fmul h d a b => enc1 h 0x05 (packReg d a b 2)
  | .fmulImm h d a i => enc2 h 0x05 (packReg d a 0 2) i
  | .fma h d a b => enc1 h 0x05 (packReg d a b 3)
  | .fmaImm h d a i => enc2 h 0x05 (packReg d a 0 3) i
  | .fmin h d a b => enc1 h 0x05 (packReg d a b 4)
  | .fminImm h d a i => enc2 h 0x05 (packReg d a 0 4) i
  | .fmax h d a b => enc1 h 0x05 (packReg d a b 5)
  | .fmaxImm h d a i => enc2 h 0x05 (packReg d a 0 5) i
  | .fcvt h d a src dst rm sat =>
    enc2 h 0x05 (packReg d a 0 6) (src.enc ++ dst.enc ++ rm.enc ++ BitVec.ofBool sat ++ (0 : BitVec 16))
  | .fcmp h c d a b => enc1 h 0x06 (packReg d a b ((0 : BitVec 1) ++ c.enc))
  | .fcmpImm h c d a i => enc2 h 0x06 (packReg d a 0 ((0 : BitVec 1) ++ c.enc)) i
  | .pand h d a b => enc1 h 0x07 (packReg d a b 0)
  | .por h d a b => enc1 h 0x07 (packReg d a b 1)
  | .pxor h d a b => enc1 h 0x07 (packReg d a b 2)
  | .pandn h d a b => enc1 h 0x07 (packReg d a b 3)
  | .pmov h d a => enc1 h 0x07 (packReg d a 0 4)
  | .pset h w d a => enc1 h 0x07 (packReg d a w.enc 5)
  | .pcnt h w d a => enc1 h 0x07 (packReg d a w.enc 6)
  | .pfirst h w d a => enc1 h 0x07 (packReg d a w.enc 7)
  | .br h o => enc1 h 0x08 (packFlow 0 o)
  | .brExt h o => enc2 h 0x08 (packFlow 0 (bits o 0 13)) (bits o 13 28)
  | .call h o => enc1 h 0x08 (packFlow 1 o)
  | .callExt h o => enc2 h 0x08 (packFlow 1 (bits o 0 13)) (bits o 13 28)
  | .brq h p o => enc1 h 0x08 (packFlow 2 (BitVec.ofBool p ++ o))
  | .brqExt h p o => enc2 h 0x08 (packFlow 2 (BitVec.ofBool p ++ bits o 0 12)) (bits o 12 28)
  | .loop h x o => enc1 h 0x08 (packFlow 3 (x ++ o))
  | .loopExt h x o => enc2 h 0x08 (packFlow 3 (x ++ bits o 0 9)) (bits o 9 28)
  | .jr h x => enc1 h 0x08 (packFlow 4 (x ++ (0 : BitVec 9)))
  | .ret h => enc1 h 0x08 (packFlow 5 0)
  | .nop h => enc1 h 0x08 (packFlow 6 0)
  | .pool h n => enc1 h 0x08 (packFlow 7 n)
  | .tkwB h n => enc1 h 0x09 (packCpl 0 0 n)
  | .tkwA h n => enc1 h 0x09 (packCpl 1 0 n)
  | .tksB h n => enc1 h 0x09 (packCpl 2 0 n)
  | .tksA h n => enc1 h 0x09 (packCpl 3 0 n)
  | .qpush h x => enc1 h 0x09 (packCpl 4 x 0)
  | .qpop h x => enc1 h 0x09 (packCpl 5 x 0)
  | .kwait h k n => enc1 h 0x09 (packCpl 6 (up4 k) n)
  | .rnext h d p j => enc1 h 0x0A (packReg d p (up4 j) 0)
  | .lvlBase h d j => enc1 h 0x0A (packReg d 0 (up4 j) 1)
  | .lvlLimit h d j => enc1 h 0x0A (packReg d 0 (up4 j) 2)
  | .lvlTrip h d j => enc1 h 0x0A (packReg d 0 (up4 j) 3)
  | .lvlCoord h d j => enc1 h 0x0A (packReg d 0 (up4 j) 4)
  | .ldlW h d o => enc1 h 0x0C (packImm d ((0 : BitVec 1) ++ o))
  | .ldlWExt h d o => enc2 h 0x0C (packImm d ((0 : BitVec 1) ++ bits o 0 11)) (bits o 11 28)
  | .ldlD h d o => enc1 h 0x0C (packImm d ((1 : BitVec 1) ++ o))
  | .ldlDExt h d o => enc2 h 0x0C (packImm d ((1 : BitVec 1) ++ bits o 0 11)) (bits o 11 28)
  | .ld h x a sz fe k => enc1 h 0x0D (packMem x a sz.enc fe.enc (Ctr.kBits k) (Ctr.kv k))
  | .ldOffset h x a sz fe k o => enc2 h 0x0D (packMem x a sz.enc fe.enc (Ctr.kBits k) (Ctr.kv k)) o
  | .st h x a sz k => enc1 h 0x0E (packMem x a sz.enc 0 (Ctr.kBits k) (Ctr.kv k))
  | .stOffset h x a sz k o => enc2 h 0x0E (packMem x a sz.enc 0 (Ctr.kBits k) (Ctr.kv k)) o
  | .dqpush h et p t v n => encTile h 0x0B 0 et.enc false n (encLow p) t.enc v.enc
  | .dqdrain h et t r f p n => encTile h 0x0B 1 et.enc false n (encList t r) ((0 : BitVec 6) ++ BitVec.ofBool f ++ p) 0
  | .dqcnt h x => encTile h 0x0B 2 0 false 0 (encLow x) 0 0
  | .ldt h t r n a o fe k => enc2 h 0x0F (packTmem t r n a) (packTmemE o fe.enc false false (Ctr.kBits k) (Ctr.kv k))
  | .stt h t r n a o k => enc2 h 0x0F (packTmem t r n a) (packTmemE o 0 true false (Ctr.kBits k) (Ctr.kv k))
  | .copy h a b c acq rel k cnt fill => encCmd h 0x10 (up4 a) (up4 b) c 0 acq rel k (xferCf cnt fill 0)
  | .gath h a b c e acq rel k cnt fill => encCmd h 0x10 (up4 a) (up4 b) c 1 acq rel k (xferCf cnt fill e)
  | .scat h a b c e acq rel k cnt fill => encCmd h 0x10 (up4 a) (up4 b) c 2 acq rel k (xferCf cnt fill e)
  | .pref h a c k => encCmd h 0x10 (up4 a) 0 c 3 none none k 0
  | .invr h a c k => encCmd h 0x10 (up4 a) 0 c 4 none none k 0
  | .sppin h p a b => encCmd h 0x11 a b p 0 none none none 0
  | .spunp h a b => encCmd h 0x11 a b 0 1 none none none 0
  | .feclr h a b => encCmd h 0x11 a b 0 2 none none none 0
  | .feset h a b => encCmd h 0x11 a b 0 3 none none none 0
  | .racq h b a => enc1 h 0x12 (packRing 0 b a 0)
  | .rrel h b => enc1 h 0x12 (packRing 1 b 0 0)
  | .rwait h b a n => enc1 h 0x12 (packRing 2 b a n)
  | .radv h b n => enc1 h 0x12 (packRing 3 b 0 n)
  | .rcfg h b base l s => enc2 h 0x12 (packRing 4 b 0 s) (base ++ l ++ (0 : BitVec 8))
  | .amoAdd h dw a b c acq rel k o => encCmd h 0x13 (up4 a) b c (BitVec.ofBool dw ++ (0 : BitVec 3)) acq rel k o
  | .amoMin h dw a b c acq rel k o => encCmd h 0x13 (up4 a) b c (BitVec.ofBool dw ++ (1 : BitVec 3)) acq rel k o
  | .amoMax h dw a b c acq rel k o => encCmd h 0x13 (up4 a) b c (BitVec.ofBool dw ++ (2 : BitVec 3)) acq rel k o
  | .amoAnd h dw a b c acq rel k o => encCmd h 0x13 (up4 a) b c (BitVec.ofBool dw ++ (3 : BitVec 3)) acq rel k o
  | .amoOr h dw a b c acq rel k o => encCmd h 0x13 (up4 a) b c (BitVec.ofBool dw ++ (4 : BitVec 3)) acq rel k o
  | .amoXor h dw a b c acq rel k o => encCmd h 0x13 (up4 a) b c (BitVec.ofBool dw ++ (5 : BitVec 3)) acq rel k o
  | .amoXchg h dw a b c acq rel k o => encCmd h 0x13 (up4 a) b c (BitVec.ofBool dw ++ (6 : BitVec 3)) acq rel k o
  | .amoCas h dw a b c acq rel k o => encCmd h 0x13 (up4 a) b c (BitVec.ofBool dw ++ (7 : BitVec 3)) acq rel k o
  | .vamoAdd h dw a acq rel k tv rv ti ri =>
    encCmd h 0x14 (up4 a) 0 0 (BitVec.ofBool dw ++ (0 : BitVec 3)) acq rel k (vamoCf tv rv ti ri)
  | .vamoMin h dw a acq rel k tv rv ti ri =>
    encCmd h 0x14 (up4 a) 0 0 (BitVec.ofBool dw ++ (1 : BitVec 3)) acq rel k (vamoCf tv rv ti ri)
  | .vamoMax h dw a acq rel k tv rv ti ri =>
    encCmd h 0x14 (up4 a) 0 0 (BitVec.ofBool dw ++ (2 : BitVec 3)) acq rel k (vamoCf tv rv ti ri)
  | .vamoAnd h dw a acq rel k tv rv ti ri =>
    encCmd h 0x14 (up4 a) 0 0 (BitVec.ofBool dw ++ (3 : BitVec 3)) acq rel k (vamoCf tv rv ti ri)
  | .vamoOr h dw a acq rel k tv rv ti ri =>
    encCmd h 0x14 (up4 a) 0 0 (BitVec.ofBool dw ++ (4 : BitVec 3)) acq rel k (vamoCf tv rv ti ri)
  | .vamoXor h dw a acq rel k tv rv ti ri =>
    encCmd h 0x14 (up4 a) 0 0 (BitVec.ofBool dw ++ (5 : BitVec 3)) acq rel k (vamoCf tv rv ti ri)
  | .vamoXchg h dw a acq rel k tv rv ti ri =>
    encCmd h 0x14 (up4 a) 0 0 (BitVec.ofBool dw ++ (6 : BitVec 3)) acq rel k (vamoCf tv rv ti ri)
  | .vamoCas h dw a acq rel k tv rv ti ri =>
    encCmd h 0x14 (up4 a) 0 0 (BitVec.ofBool dw ++ (7 : BitVec 3)) acq rel k (vamoCf tv rv ti ri)
  | .fence h sc k cv => enc1 h 0x15 (packSync 0 sc.enc k cv.enc 0)
  | .fwait h => enc1 h 0x15 (packSync 1 0 0 0 0)
  | .wait4 h x n => enc1 h 0x15 (packSync 2 0 0 n x)
  | .bexp h x => enc1 h 0x15 (packSync 3 0 0 0 x)
  | .bwait h sc x => enc1 h 0x15 (packSync 4 sc.enc 0 0 x)
  | .vadd h et s d a b => encTile h 0x16 0 et.enc s 0 d.enc a.enc b.enc
  | .vsub h et s d a b => encTile h 0x16 1 et.enc s 0 d.enc a.enc b.enc
  | .vmul h et s d a b => encTile h 0x16 2 et.enc s 0 d.enc a.enc b.enc
  | .vfma h et s d a b => encTile h 0x16 3 et.enc s 0 d.enc a.enc b.enc
  | .vmin h et d a b => encTile h 0x16 4 et.enc false 0 d.enc a.enc b.enc
  | .vmax h et d a b => encTile h 0x16 5 et.enc false 0 d.enc a.enc b.enc
  | .vabs h et s d a => encTile h 0x16 6 et.enc s 0 d.enc a.enc 0
  | .vneg h et s d a => encTile h 0x16 7 et.enc s 0 d.enc a.enc 0
  | .vcmp h c et d a b => encTile h 0x17 0 et.enc false c.enc (encLow d) a.enc b.enc
  | .vsel h et d a b p => encTile h 0x17 1 et.enc false p d.enc a.enc b.enc
  | .vmov h et d a => encTile h 0x17 2 et.enc false 0 d.enc a.enc 0
  | .vand h et d a b => encTile h 0x18 0 et.enc false 0 d.enc a.enc b.enc
  | .vor h et d a b => encTile h 0x18 1 et.enc false 0 d.enc a.enc b.enc
  | .vxor h et d a b => encTile h 0x18 2 et.enc false 0 d.enc a.enc b.enc
  | .vlop3 h t d a b => encTile h 0x18 3 (bits t 4 4) (t.getLsbD 3) (bits t 0 3) d.enc a.enc b.enc
  | .vshl h et d a b => encTile h 0x19 0 et.enc false 0 d.enc a.enc b.enc
  | .vshr h et d a b => encTile h 0x19 1 et.enc false 0 d.enc a.enc b.enc
  | .vsra h et d a b => encTile h 0x19 2 et.enc false 0 d.enc a.enc b.enc
  | .vfunl h et d a b => encTile h 0x19 3 et.enc false 0 d.enc a.enc b.enc
  | .vfunr h et d a b => encTile h 0x19 4 et.enc false 0 d.enc a.enc b.enc
  | .vrot h et d a b => encTile h 0x19 5 et.enc false 0 d.enc a.enc b.enc
  | .vperm h et d a b => encTile h 0x1A 0 et.enc false 0 d.enc a.enc b.enc
  | .vbcast h et d a b => encTile h 0x1A 1 et.enc false 0 d.enc a.enc b.enc
  | .vcvt h dst src s rm d a => encTile h 0x1B 0 dst.enc s rm.enc d.enc a.enc (encLow src.enc)
  | .vpack h rm d a g => encTile h 0x1B 1 11 false rm.enc d.enc a.enc (encLow g)
  | .vunpk h d a g => encTile h 0x1B 2 11 false 0 d.enc a.enc (encLow g)
  | .vred h op et s d a => encTile h 0x1C 0 et.enc s op.enc d.enc a.enc 0
  | .vexp h et d a => encTile h 0x1D 0 et.enc false 0 d.enc a.enc 0
  | .vlog h et d a => encTile h 0x1D 1 et.enc false 0 d.enc a.enc 0
  | .vrcp h et d a => encTile h 0x1D 2 et.enc false 0 d.enc a.enc 0
  | .vrsq h et d a => encTile h 0x1D 3 et.enc false 0 d.enc a.enc 0
  | .vrng h et d => encTile h 0x1E 0 et.enc false 0 d.enc 0 0
  | .vbern h d a => encTile h 0x1E 1 9 false 0 (encLow d) a.enc 0
  | .rlcfg h t r xa xb => encTile h 0x1F 0 0 false 0 (encList t r) (encX xa) (encX xb)
  | .rlins h t n a xb => encTile h 0x1F 1 0 false 0 (encList t n) a.enc (encX xb)
  | .rlmrg h t n xb => encTile h 0x1F 2 0 false 0 (encList t n) 0 (encX xb)
  | .rlthr h t n xb => encTile h 0x1F 3 0 false 0 (encList t n) 0 (encX xb)
  | .rlrd h d t n => encTile h 0x1F 4 0 false 0 d.enc (encList t n) 0
  | .vsfc h hil dims d t r => encTile h 0x20 0 10 false (BitVec.ofBool hil ++ dims) d.enc (encList t r) 0
  | .gset h g a o => encCmd h 0x21 g (up4 a) 0 0 none none none o
  | .gadv h g b c => encCmd h 0x21 g b c 1 none none none 0
  | .mlease h lvl k => encCmd h 0x22 0 0 0 0 none none k ((0 : BitVec 16) ++ lvl)
  | .mfree h => encCmd h 0x22 0 0 0 1 none none none 0
  | .mloadb h g arr nf f acq k =>
    encCmd h 0x23 g 0 0 0 acq none k (BitVec.ofBool arr.enc ++ BitVec.ofBool nf ++ f ++ (0 : BitVec 14))
  | .mmul h ga arr init rag fe l bd acq k =>
    encCmd h 0x24 (ga.getD 0) ((l.map Prod.fst).getD 0) (bd.getD 0) 0 acq none k
      (mmulCf arr init ga.isNone rag fe l.isSome ((l.map Prod.snd).getD 0) bd.isSome)
  | .mattn h gq gk gv xd fe acq k =>
    encCmd h 0x25 gq gk gv 0 acq none k (xd ++ BitVec.ofBool fe.feBit ++ BitVec.ofBool fe.fcBit ++ (0 : BitVec 12))
  | .mdrainTile h arr alt md t r n xa acq k =>
    encCmd h 0x26 xa 0 0 0 acq none k
      (BitVec.ofBool arr.enc ++ BitVec.ofBool alt ++ md.enc ++ t ++ r ++ n ++ (0 : BitVec 1))
  | .mdrainMemory h arr alt md cnt xa b xc acq rel k =>
    encCmd h 0x26 xa (up4 b) xc 0 acq rel k
      (BitVec.ofBool arr.enc ++ BitVec.ofBool alt ++ md.enc ++ BitVec.ofBool cnt.isSome ++ cnt.getD 0 ++ (0 : BitVec 9))
  | .mswap h arr => encCmd h 0x26 0 0 0 1 none none none (BitVec.ofBool arr.enc ++ (0 : BitVec 17))
  | .mchain h n => encCmd h 0x26 0 0 0 2 none none none ((0 : BitVec 16) ++ n)
  | .mshape h xa pc => encCmd h 0x26 xa 0 pc 3 none none none 0
  | .sample h a b acq rel k => encCmd h 0x27 a b 0 0 acq rel k 0
  | .beamsel h a b acq rel k => encCmd h 0x27 a b 0 1 acq rel k 0
  | .kvapp h c a b acq rel k => encCmd h 0x28 a (up4 b) c 0 acq rel k 0
  | .kvappNew h c a acq rel k => encCmd h 0x28 (up4 a) 0 c 1 acq rel k 0
  | .kvappDrop h a acq rel k => encCmd h 0x28 a 0 0 2 acq rel k 0
  | .kvmap h c a b pd acq rel k => encCmd h 0x28 a b c 3 acq rel k ((0 : BitVec 14) ++ pd)
  | .tspawn h c a pd die rel => encCmd h 0x29 a (die.getD 0) c 0 none rel none (pdCf die.isSome pd)
  | .tpop h c a pd acq => encCmd h 0x29 a 0 c 1 acq none none (pdCf false pd)
  | .trepri h a b pd => encCmd h 0x29 a b 0 2 none none none (pdCf false pd)
  | .tcancel h a pd md k => encCmd h 0x29 a (md.getD 0) 0 3 none none k (pdCf md.isSome pd)
  | .tcont h c a b pd rel => encCmd h 0x29 a b c 4 none rel none (pdCf false pd)
  | .tdone h pd row rel => encCmd h 0x29 (row.getD 0) 0 0 5 none rel none (pdCf row.isSome pd)
  | .cpoint h pd => encCmd h 0x29 0 0 0 6 none none none (pdCf false pd)
  | .gnewPlain h c a pd => encCmd h 0x29 a 0 c 7 none none none ((0 : BitVec 12) ++ (0 : BitVec 2) ++ pd)
  | .gnewRope h c a pd b => encCmd h 0x29 a b c 7 none none none ((0 : BitVec 12) ++ (1 : BitVec 2) ++ pd)
  | .gnewSib h c a pd => encCmd h 0x29 a 0 c 7 none none none ((0 : BitVec 12) ++ (2 : BitVec 2) ++ pd)
  | .gnewQ h c a pd => encCmd h 0x29 a 0 c 7 none none none ((0 : BitVec 12) ++ (3 : BitVec 2) ++ pd)
  | .nalloc h c a pd die => encCmd h 0x2A a (die.getD 0) c 0 none none none (pdCf die.isSome pd)
  | .nallocFree h a b pd => encCmd h 0x2A a b 0 0 none none none ((0 : BitVec 12) ++ (2 : BitVec 2) ++ pd)
  | .nrd h c a off dw acq => encCmd h 0x2A a 0 c 1 acq none none ((0 : BitVec 11) ++ BitVec.ofBool dw ++ off)
  | .nwr h a b off dw rel k => encCmd h 0x2A a b 0 2 none rel k ((0 : BitVec 11) ++ BitVec.ofBool dw ++ off)
  | .nvloss h a b acq k => encCmd h 0x2A a b 0 3 acq none k 0
  | .nbackup h neg a b c acq k => encCmd h 0x2A a b c 4 acq none k (pdCf neg 0)
  | .nsel h c a b pd => encCmd h 0x2A a b c 5 none none none (pdCf false pd)
  | .ballot h ab c a rel => encCmd h 0x2B a 0 c 0 none rel none (pdCf ab 0)
  | .collAr h a acq rel k => encCmd h 0x2C a 0 0 0 acq rel k 0
  | .collAg h a acq rel k => encCmd h 0x2C a 0 0 1 acq rel k 0
  | .collRs h a acq rel k => encCmd h 0x2C a 0 0 2 acq rel k 0
  | .collA2a h a acq rel k => encCmd h 0x2C a 0 0 3 acq rel k 0
  | .repart h a acq rel k => encCmd h 0x2C a 0 0 4 acq rel k 0
  | .disp h c a b pd t => encCmd h 0x2C a b c 5 none none none ((0 : BitVec 11) ++ t ++ pd)
  | .dispMb h t k => encCmd h 0x2C 0 0 0 6 none none k ((0 : BitVec 11) ++ t ++ (0 : BitVec 4))
  | .gparm h a b n rel => encCmd h 0x2D a b 0 0 none rel none ((0 : BitVec 13) ++ n)
  | .gparmReplay h b rel => encCmd h 0x2D 0 b 0 0 none rel none ((1 : BitVec 13) ++ (0 : BitVec 5))
  | .hring h fl dr a b rel k =>
    encCmd h 0x2D a b 0 1 none rel k ((0 : BitVec 16) ++ BitVec.ofBool fl ++ BitVec.ofBool dr)
  | .time h c => encCmd h 0x2D 0 0 c 2 none none none 0
  | .trap h n => enc1 h 0x2E (packCpl 0 0 n)
  | .eret h => enc1 h 0x2E (packCpl 0 1 0)
  | .sysrd h x r => enc1 h 0x2E (packCpl x 2 r)
  | .syswr h r x => enc1 h 0x2E (packCpl x 3 r)
  | .yield h => enc1 h 0x2E (packCpl 0 4 0)
  | .idle h x => enc1 h 0x2E (packCpl x 5 0)
  | .bkpt h n => enc1 h 0x2E (packCpl 0 6 n)
  | .spbeg h a b => enc1 h 0x2F (packReg 0 a b 0)
  | .spcom h => enc1 h 0x2F (packReg 0 0 0 1)
  | .spabt h => enc1 h 0x2F (packReg 0 0 0 2)
  -- events have no words
  | .uncorrTrap _ _ => []
  | .engineTrap _ => []
  | .timer _ _ => []
  | .loadReturn _ _ => []
  | .storePerform _ _ => []
  | .atomicPerform _ _ => []
  | .fenceComplete _ _ => []
  | .xferComplete _ _ => []
  | .wait4Check _ _ => []
  | .bivouacCopyDone _ => []
  | .admission _ => []
  | .startHoldEnd _ _ => []
  | .instanceEnd _ => []
  | .launchAbort _ _ _ => []
  | .stealRequest _ _ => []
  | .stealGrant _ _ => []
  | .belayGrant _ => []
  | .belayRunEnd _ => []
  | .tileTaskIssue _ _ => []
  | .tileTaskComplete _ _ => []
  | .samplerRequest _ => []
  | .beamRequest _ => []
  | .evalHandoff _ => []
  | .binWindowExpiry _ _ => []
  | .binLaunch _ => []
  | .sweep _ => []
  | .remoteTref _ _ => []
  | .remoteTcancel _ => []
  | .tcancelComplete _ _ => []
  | .groupFree _ => []
  | .walkComplete _ _ => []
  | .remoteWalk _ _ _ _ _ _ => []
  | .kvBroadcast _ _ _ _ => []
  | .sbtFetch _ _ _ _ => []
  | .sstLookup _ _ _ _ _ => []
  | .kvPlace _ _ _ => []
  | .collectiveComplete _ _ _ => []
  | .repartComplete _ _ _ => []
  | .remoteAccess _ _ _ _ => []
  | .remoteResponse _ => []
  | .graphNodeStart _ _ => []
  | .graphNodeComplete _ _ => []
  | .nowaitWorkEnd _ _ _ => []
  | .waitNodeTimeout _ _ => []
  | .hostRingTimer _ _ => []
  | .preemptTimeout _ => []
  | .preemptSave _ => []
  | .hlaunch _ _ => []
  | .labort _ _ => []
  | .preq _ _ => []
  | .resume _ _ => []
  | .greplay _ _ => []
  | .gabort _ _ => []
  | .hrccntWrite _ _ _ => []
  | .hrcfgWrite _ _ _ => []
  | .tlbiOnePage _ => []
  | .tlbiOneSpace _ => []
  | .tlbiAll => []
  | .tlbiDone => []
  | .keyLoad _ => []
  | .keyRetire _ => []
  | .keyErase _ => []
  | .keyBind _ _ => []
  | .keyUnbind _ => []
  | .dispatchTableWrite _ _ _ _ => []
  | .hostApertureAccess _ => []
  | .registerWrite _ _ => []
  | .resetctlModule => []
  | .resetctlFunction => []
  | .pcieFlr => []
  | .powerOn => []
  | .modidTimeout => []
  | .mctpRead _ _ => []
  | .mctpWrite _ _ _ => []
  | .attest _ => []
  | .cntclr _ => []
  | .pcapWrite _ => []
  | .pfloorWrite _ => []
  | .modidWrite _ => []
  | .failedClear _ _ _ => []
  | .requestUpdate _ => []
  | .firmwareImageTransfer _ _ => []
  | .verifyComplete => []
  | .activateFirmware _ => []
  | .platformEventMessage => []
  | .arbiterPeriod _ _ _ _ _ => []
  | .thermalTrip _ => []
  | .thermalClear _ => []
  | .ageRefresh _ _ => []
  | .eolRecompute _ => []
  | .heartbeat _ => []
  | .heartbeatAnswer _ _ => []
  | .timeLock => []
  | .timeUnlock => []
  | .portDown _ => []
  | .portRetrain _ _ _ _ => []
  | .routeRecompute _ => []
  | .idleTimeout _ _ => []
  | .mdrainComplete _ _ => []
  | .managementModuleReset => []
  | .setEventReceiver _ => []
  | .farTierHostWrite _ _ => []
  | .launchForward _ _ _ _ => []

end Sys2Proof
end

