-- ==== Sys2Proof/Machine/Aes.lean ====
section
/-! DEFINITION. AES-256-XTS, under which HBM and far-tier lines stand encrypted (R63, R64, R391). The manual names the
cipher; its rounds are FIPS 197's and its mode IEEE 1619's (log entry 47). -/

namespace Sys2Proof

/-- Twice a byte in the field of AES. -/
def aesDouble (b : Byte) : Byte := (b <<< 1) ^^^ (if b.getLsbD 7 then 0x1B else 0)

/-- The product of two bytes in the field of AES, by the bits of the second. -/
def aesMul (a : Byte) (b : Nat) : Byte :=
  ((List.range 8).foldl (fun (st : Byte × Byte) i => (if b.testBit i then st.1 ^^^ st.2 else st.1, aesDouble st.2)) (0, a)).1

/-- The inverse of a byte: its 254th power; 0 stays 0. -/
def aesInverse (b : Byte) : Byte := (List.range 253).foldl (fun p _ => aesMul p b.toNat) b

def aesSub (b : Byte) : Byte :=
  let v := aesInverse b
  [1, 2, 3, 4].foldl (fun acc k => acc ^^^ v.rotateLeft k) (v ^^^ 0x63)

def aesUnsub (b : Byte) : Byte := aesInverse (b.rotateLeft 1 ^^^ b.rotateLeft 3 ^^^ b.rotateLeft 6 ^^^ 0x05)

def xorBytes (a b : List Byte) : List Byte := List.zipWith (· ^^^ ·) a b

/-- Word i of the key schedule from the words before it, newest first. -/
def aesNextWord (i : Nat) (ws : List (List Byte)) : List Byte :=
  let last := ws.getD 0 []
  let far := ws.getD 7 []
  if i % 8 = 0 then
    let rcon : Byte := (List.range (i / 8 - 1)).foldl (fun r _ => aesDouble r) 1
    xorBytes far (xorBytes ((last.drop 1 ++ last.take 1).map aesSub) [rcon, 0, 0, 0])
  else if i % 8 = 4 then xorBytes far (last.map aesSub)
  else xorBytes far last

/-- The fifteen round keys of a 32-byte key, first to last. -/
def aesKeys (key : List Byte) : List (List Byte) :=
  let first := (List.range 8).map fun i => slice key (4 * i) 4
  let ws := ((List.range 52).foldl (fun ws j => aesNextWord (8 + j) ws :: ws) first.reverse).reverse
  (List.range 15).map fun r => (ws.drop (4 * r)).take 4 |>.flatten

/-- Byte r of column c comes from column c + dir r: the row shifts. -/
def aesShift (dir : Nat) (b : List Byte) : List Byte :=
  (List.range 16).map fun i => b.getD (((i / 4 + dir * (i % 4)) % 4) * 4 + i % 4) 0

/-- Every column times the circulant of four factors. -/
def aesMix (fs : List Nat) (b : List Byte) : List Byte :=
  (List.range 16).map fun i =>
    (List.range 4).foldl (fun acc j => acc ^^^ aesMul (b.getD (i / 4 * 4 + j) 0) (fs.getD ((j + 4 - i % 4) % 4) 0)) 0

def aesEncrypt (key block : List Byte) : List Byte :=
  match aesKeys key with
  | [] => block
  | k0 :: ks =>
    (ks.foldl (fun (st : List Byte × Nat) k =>
      let b := aesShift 1 (st.1.map aesSub)
      (xorBytes (if st.2 = 14 then b else aesMix [2, 3, 1, 1] b) k, st.2 + 1)) (xorBytes block k0, 1)).1

def aesDecrypt (key block : List Byte) : List Byte :=
  match (aesKeys key).reverse with
  | [] => block
  | k14 :: ks =>
    (ks.foldl (fun (st : List Byte × Nat) k =>
      let b := xorBytes ((aesShift 3 st.1).map aesUnsub) k
      (if st.2 = 0 then b else aesMix [14, 11, 13, 9] b, st.2 - 1)) (xorBytes block k14, 13)).1

/-- A 16-byte tweak for the next block: doubled in the field of 2^128, low byte first. -/
def xtsDouble (t : List Byte) : List Byte :=
  let v := leNat t
  leBytes 16 (Nat.xor (2 * v % 2 ^ 128) (if 2 ^ 127 ≤ v then 0x87 else 0))

/-- The blocks of a 128-byte line through a block function, each under its tweak. -/
def xtsGo (f : List Byte → List Byte) (n : Nat) (t line : List Byte) : List Byte :=
  match n with
  | 0 => []
  | k + 1 => xorBytes (f (xorBytes (line.take 16) t)) t ++ xtsGo f k (xtsDouble t) (line.drop 16)

/-- The data key and the tweak key of a slot's material (R391). -/
def dataKey (k : BitVec 512) : List Byte := (List.range 32).map (byteAt k)

def tweakKey (k : BitVec 512) : List Byte := (List.range 32).map fun i => byteAt k (32 + i)

/-- The tweak of a line is its physical address (R63). -/
def lineTweak (k : BitVec 512) (line : Nat) : List Byte := aesEncrypt (tweakKey k) (leBytes 16 (line * 128))

/-- A line as it stands in HBM or in the far tier under a key (R63, R64). -/
def xtsEncrypt (k : BitVec 512) (line : Nat) (bs : List Byte) : List Byte :=
  xtsGo (aesEncrypt (dataKey k)) 8 (lineTweak k line) bs

/-- What stands in a line read through a key. -/
def xtsDecrypt (k : BitVec 512) (line : Nat) (bs : List Byte) : List Byte :=
  xtsGo (aesDecrypt (dataKey k)) 8 (lineTweak k line) bs

end Sys2Proof
end

