-- ==== Sys2Proof/Machine/Regs.lean ====
section
/-! DEFINITION. The named operations over registers, counters, tokens and trap state of one sequencer, each once (R20 to
R31, R210, R237, R255, R354, R358). -/

namespace Sys2Proof

/-- Number of a sequencer in an engine fault record (R361). -/
def SeqId.num : SeqId → Nat | .control => 0 | .load => 1 | .exec => 2 | .store => 3

/-- The sequencer after, in the cycle control, load, execute, store (R27). -/
def SeqId.next : SeqId → SeqId
  | .control => .load | .load => .exec | .exec => .store | .store => .control

/-- The sequencer before. -/
def SeqId.prev : SeqId → SeqId
  | .control => .store | .load => .control | .exec => .load | .store => .exec

end Sys2Proof

namespace Sys2Proof.Machine

open Sys2Proof

/-! ## Free values (log entry 3) -/

/-- A free value of this step, told apart by a salt. -/
def State.free (s : State) (salt : Nat) : BitVec 64 := Config.freeWord (s.fresh * 2 ^ 100 + salt)

def State.freeBool (s : State) (salt : Nat) : Bool := (s.free salt).getLsbD 0

def State.freeByte (s : State) (salt : Nat) : Byte := (s.free salt).setWidth 8

/-- A free choice among k things, 0 when k is 0. -/
def State.freeBelow (s : State) (salt k : Nat) : Nat := if k ≤ 1 then 0 else (s.free salt).toNat % k

/-! ## Numbers of units -/

/-- Service cores are numbered 512 to 519, two per die. -/
def isService (core : Nat) : Bool := 512 ≤ core && core < 520

/-- The graph unit's commands for a slot are held under the number of no core: 4096 + 64 die + slot (R143). -/
def unitCore (die slot : Nat) : Nat := 4096 + 64 * die + slot

def isUnit (core : Nat) : Bool := 4096 ≤ core && core < 4352

def coreDie (core : Nat) : Nat :=
  if isUnit core then (core - 4096) / 64 else if isService core then (core - 512) / 2 else core / 128

def coreCluster (core : Nat) : Nat := if isService core then 1000 + core else core / 8

/-- Cluster within its die; 0 on a service core (R19). -/
def coreCluId (core : Nat) : Nat := if isService core then 0 else core / 8 % 16

def coreIdx (core : Nat) : Nat := if isService core then core % 2 else core % 8

/-! ## Parts of the state -/

def Core.seqr (c : Core) : SeqId → Seqr
  | .control => c.seqC | .load => c.seqL | .exec => c.seqX | .store => c.seqS

def Core.setSeqr (c : Core) (q : SeqId) (r : Seqr) : Core :=
  match q with
  | .control => { c with seqC := r }
  | .load => { c with seqL := r }
  | .exec => { c with seqX := r }
  | .store => { c with seqS := r }

/-- The edge that leaves a sequencer. -/
def Core.edge (c : Core) : SeqId → Edge
  | .control => c.edgeC | .load => c.edgeL | .exec => c.edgeX | .store => c.edgeS

def Core.setEdge (c : Core) (q : SeqId) (e : Edge) : Core :=
  match q with
  | .control => { c with edgeC := e }
  | .load => { c with edgeL := e }
  | .exec => { c with edgeX := e }
  | .store => { c with edgeS := e }

def State.getCore (s : State) (n : Nat) : Core := Tbl.getD s.cores n Core.idle

def State.setCore (s : State) (n : Nat) (c : Core) : State := { s with cores := Tbl.set s.cores n c }

def State.getCluster (s : State) (n : Nat) : Cluster := Tbl.getD s.clusters n Cluster.start

def State.setCluster (s : State) (n : Nat) (c : Cluster) : State := { s with clusters := Tbl.set s.clusters n c }

/-- A die that nothing has written stands as after reset (R385). -/
def State.getDie (s : State) (n : Nat) : Die := Tbl.getD s.dies n Die.start

def State.setDie (s : State) (n : Nat) (d : Die) : State := { s with dies := Tbl.set s.dies n d }

def State.setLaunch (s : State) (n : Nat) (l : Launch) : State := { s with launches := Tbl.set s.launches n l }

def State.emit (s : State) (m : Msg) : State := { s with out := s.out ++ [m] }

/-- The core and the sequencer whose instruction runs. -/
def State.cur (s : State) : Core := s.getCore s.core

def State.setCur (s : State) (c : Core) : State := s.setCore s.core c

def State.sq (s : State) : Seqr := s.cur.seqr s.seq

def State.setSq (s : State) (r : Seqr) : State := s.setCur (s.cur.setSeqr s.seq r)

def State.inst (s : State) : Option Inst := s.cur.inst

/-- The address space of the running instance (R44). -/
def State.asid (s : State) : Nat := match s.inst with | some i => i.asid | none => 0

def State.die (s : State) : Nat := coreDie s.core

/-! ## Registers (R210, R237) -/

def State.getX (s : State) (r : XReg) : Word64 := if r = 0 then 0 else s.sq.x[r.toNat]

/-- A write to x0 is discarded. -/
def Seqr.setX (q : Seqr) (r : XReg) (v : Word64) : Seqr := if r = 0 then q else { q with x := q.x.set r.toNat v }

def State.setX (s : State) (r : XReg) (v : Word64) : State := s.setSq (s.sq.setX r v)

def State.getA (s : State) (r : AReg) : Word64 := s.sq.a[r.toNat]

def State.setA (s : State) (r : AReg) (v : Word64) : State := s.setSq { s.sq with a := s.sq.a.set r.toNat v }

/-- p15 is all ones (R200). -/
def State.getP (s : State) (r : PReg) : Pred := if r = 15 then BitVec.allOnes 256 else s.sq.p[r.toNat]

/-- A write to p15 is discarded. -/
def Seqr.setP (q : Seqr) (r : PReg) (v : Pred) : Seqr := if r = 15 then q else { q with p := q.p.set r.toNat v }

def State.setP (s : State) (r : PReg) (v : Pred) : State := s.setSq (s.sq.setP r v)

/-- All ones or zero by a flag. -/
def predOf (b : Bool) : Pred := if b then BitVec.allOnes 256 else 0

/-- A result predicate of a command, every bit the flag (R334). -/
def State.setFlag (s : State) (r : PReg) (b : Bool) : State := s.setP r (predOf b)

/-- The register that follows register r: x(r + n) (R334). -/
def xPlus (r : XReg) (n : Nat) : XReg := r + BitVec.ofNat 4 n

/-- Sticky bits ORed into STATUS: RNGW OVF SAT INV INX (R195). -/
def State.orSticky (s : State) (b : BitVec 5) : State := s.setSq { s.sq with sticky := s.sq.sticky ||| b }

/-- STATUS as sysrd reads it (R354 Table 5). -/
def Seqr.status (q : Seqr) : Word64 :=
  (q.sticky.setWidth 64) ||| (BitVec.ofBool q.timen).setWidth 64 <<< 8 ||| (BitVec.ofBool q.sup).setWidth 64 <<< 9 |||
    (BitVec.ofBool q.intrap).setWidth 64 <<< 10 ||| (BitVec.ofBool q.psup).setWidth 64 <<< 11

/-! ## Outstanding operations (R255) -/

/-- The count of a dependence counter: operations not yet retired. -/
def Core.ctr (c : Core) (q : SeqId) (k : Nat) : Nat := (c.ops.filter fun o => o.seq = q && o.ctr = some k).length

/-- An operation is blocked from retiring by an older unretired one of its counter. -/
def blockedBy (o : Op) (older : List Op) : Bool :=
  older.any fun p => p.seq = o.seq && p.ctr = o.ctr

/-- Completed operations leave in issue order: one leaves when it is done and no older one on its counter remains. -/
def retireGo (older : List Op) (ops : List Op) : List Op :=
  match ops with
  | [] => older
  | o :: rest =>
    if o.done && (o.ctr.isNone || !blockedBy o older) then retireGo older rest else retireGo (older ++ [o]) rest

/-- The operations that remain. -/
def Core.retire (c : Core) : Core := { c with ops := retireGo [] c.ops }

def Core.findOp (c : Core) (id : Nat) : Option Op := c.ops.find? fun o => o.id = id

/-- Operation id replaced by f of it. -/
def Core.updOp (c : Core) (id : Nat) (f : Op → Op) : Core :=
  { c with ops := c.ops.map fun o => if o.id = id then f o else o }

/-- What an operation that completes has written to other modules and is not acknowledged. -/
def Core.keepSent (c : Core) (id : Nat) : Core :=
  match c.findOp id with
  | some o => if o.out = 0 then c else { c with sent := Tbl.set c.sent id o.out }
  | none => c

/-- Operation id completes; what can retire does (R255). -/
def Core.finishOp (c : Core) (id : Nat) : Core := ((c.keepSent id).updOp id fun o => { o with done := true }).retire

/-- The x register an operation has yet to write (R237). -/
def OpKind.destX : OpKind → List XReg
  | .load d _ _ _ => [d]
  | .amo _ _ d _ _ _ => [d]
  | .bexp d _ _ => [d]
  | .kvapp d _ _ => [d]
  | .kvnew d _ => [d]
  | .kvmap d _ _ _ => [d, xPlus d 1]
  | _ => []

def OpKind.destP : OpKind → List PReg
  | .kvmap _ pd _ _ => [pd]
  | _ => []

/-- Rows of tile t from row upwards, as numbers 16 t + r. -/
def rowsOf (t row n : Nat) : List Nat := (List.range n).map fun i => 16 * t + row + i

/-- Tile rows an accepted operation has yet to write, and yet to read (R31). -/
def OpKind.rowsW : OpKind → List Nat
  | .ldt t row nr _ _ _ _ => rowsOf t row (nr + 1)
  | .vamo _ _ t row _ _ _ _ => rowsOf t row 1
  | .mdrainTile _ _ _ t row nr _ _ => rowsOf t row (nr + 1)
  | _ => []

def OpKind.rowsR : OpKind → List Nat
  | .stt t row nr _ _ _ => rowsOf t row (nr + 1)
  | .vamo op _ t row ti ri _ _ => rowsOf t row (if op = .cas then 2 else 1) ++ rowsOf ti ri 1
  | _ => []

/-- An x register still has a pending writer of sequencer q. -/
def Core.pendX (c : Core) (q : SeqId) (r : XReg) : Bool :=
  r != 0 && c.ops.any fun o => o.seq = q && !o.done && o.kind.destX.contains r

def Core.pendP (c : Core) (q : SeqId) (r : PReg) : Bool :=
  r != 15 && c.ops.any fun o => o.seq = q && !o.done && o.kind.destP.contains r

/-- A tile row is yet to be written, or yet to be read, by an accepted operation. -/
def Core.rowPendW (c : Core) (r : Nat) : Bool := c.ops.any fun o => !o.done && o.kind.rowsW.contains r

def Core.rowPendR (c : Core) (r : Nat) : Bool := c.ops.any fun o => !o.done && o.kind.rowsR.contains r

/-! ## Scratch window offsets through the bivouac (R263) -/

/-- The pinned line number that window offset off reaches under the bivouac's state. -/
def Bivouac.line (b : Bivouac) (off : Nat) : Nat :=
  if b.configured && b.base ≤ off && off < b.base + 2 * b.len then
    let inVisible := decide (off < b.base + b.len)
    let rel := if inVisible then off - b.base else off - b.base - b.len
    let bank := if b.active then !b.cur else if inVisible then b.cur else !b.cur
    (b.base + rel + (if bank then b.len else 0)) / 128
  else off / 128

/-! ## Taking a trap (R357 to R360) -/

/-- Cause codes (R358 Table 7). -/
def Cause.code : Cause → BitVec 8
  | .illegal => 1 | .misalign => 2 | .page => 3 | .perm => 4 | .rngWrap => 5 | .scaleShort => 6 | .nanPriority => 7
  | .lease => 8 | .tilecap => 9 | .soft => 10 | .bkpt => 11 | .uncorr => 12 | .engine => 13 | .timer => 14

def Cause.async : Cause → Bool
  | .uncorr | .engine | .timer => true
  | _ => false

/-- PAGE's TRAPVAL: reason in [63:60], address in [55:0] (R358). -/
def pageVal (reason : Nat) (addr : Word64) : Word64 :=
  BitVec.ofNat 64 (reason % 16) <<< 60 ||| (addr &&& 0x00FF_FFFF_FFFF_FFFF)

/-! ## Launch fault area (R362, R363, R400) -/

/-- The words of an engine fault record (R361 Table 8). -/
def Efr.bytes (e : Efr) : List Byte :=
  leBytes 1 e.cause ++ leBytes 1 e.reason ++ leBytes 1 (e.maj % 64 + 64 * e.seq.num) ++
    leBytes 1 (e.sub % 16 + (if e.kv then 16 else 0) + 32 * (e.k % 8)) ++ leBytes 4 e.inst ++ leBytes 8 e.pc.toNat ++
    leBytes 8 e.addr.toNat ++ leBytes 4 e.done ++ leBytes 2 e.group ++ [0, 0]

/-- Word i of a record, as EFQW0 to EFQW3 (R354). -/
def Efr.word (e : Efr) (i : Nat) : Word64 := ofBytes 64 (slice e.bytes (8 * i) 8)

end Sys2Proof.Machine
end

