-- ==== Sys2Proof/Machine/MemOps.lean ====
section
/-! DEFINITION. Memory: the physical map, uncorrectable units, translation, the scratch window, LM and the control L1
(chapter 02, R387 to R391). -/

namespace Sys2Proof.Machine

open Sys2Proof

/-! ## Physical memory (R387 Table 4) -/

/-- A region of the physical map. -/
inductive Region where
  | hbm (die : Nat)
  | vault (die n : Nat)
  | node (die : Nat)
  | far
  deriving DecidableEq, Repr

def farBase : Nat := 0x1000_0000_0000

def vaultBase (v : Nat) : Nat := 0x0200_0000_0000 + v * 0x400_0000

def nodeBase (die : Nat) : Nat := 0x0280_0000_0000 + die * 0x400_0000

/-- The region of a physical address; any other address is unbacked. -/
def regionOf (pa : Nat) : Option Region :=
  if pa < 0x180_0000_0000 then some (.hbm (pa / 0x60_0000_0000))
  else if vaultBase 0 ≤ pa ∧ pa < vaultBase 64 then
    let v := (pa - vaultBase 0) / 0x400_0000
    if (pa - vaultBase 0) % 0x400_0000 < 0x300_0000 then some (.vault (v / 16) (v % 16)) else none
  else if nodeBase 0 ≤ pa ∧ pa < nodeBase 4 then some (.node ((pa - nodeBase 0) / 0x400_0000))
  else if farBase ≤ pa ∧ pa < 2 * farBase then some .far
  else none

/-- Encrypted under the page's key slot (R63, R64). -/
def Region.keyed : Region → Bool
  | .hbm _ | .far => true
  | _ => false

/-- The checked unit of a byte: 64 bytes of HBM, 8 elsewhere (R69). -/
def unitSize (pa : Nat) : Nat := match regionOf pa with | some (.hbm _) => 64 | _ => 8

def unitOf (pa : Nat) : Nat := pa / unitSize pa * unitSize pa

/-- The unit number that ERRCNT counts a checked unit under, by its address and bytes: a word of an HBM line is the LLC's
(R62, R413). -/
def errUnit (u : Nat × Nat) : Nat :=
  match regionOf u.1 with
  | some (.hbm d) => 32 * d + (if u.2 = 8 then 3 else 7 + (u.1 - d * 0x60_0000_0000) / 0x10_0000_0000)
  | some (.vault d _) => 32 * d + 2
  | some (.node d) => 32 * d + 4
  | _ => 3

/-- The checked unit of an address below the LLC, and the word of a line in the LLC. -/
def unitAt (pa : Nat) : Nat × Nat := (unitOf pa, unitSize pa)

def llcWord (pa : Nat) : Nat × Nat := (pa / 8 * 8, 8)

/-- One byte at a physical address, without checks. -/
def State.physByte (s : State) (pa : Nat) : Byte :=
  if farBase ≤ pa then Mem.read s.host (s.farbase.toNat + (pa - farBase)) else Mem.read s.mem pa

/-- Some slot still holds this key material. -/
def State.keyHeld (s : State) (k : KeyMat) : Bool := s.keys.any fun e => e.2.key = some k

/-- The 128 bytes of a line as the state keeps them: in clear (log entry 48). -/
def State.clearLine (s : State) (line : Nat) : List Byte := (List.range 128).map fun i => s.physByte (line * 128 + i)

/-- A byte read by its physical address: once no slot holds the line's key, what stands there encrypted (R46, R63, R86;
log entry 48). -/
def State.plainByte (s : State) (pa : Nat) : Byte :=
  match Tbl.get? s.stamps (pa / 128) with
  | some k => if s.keyHeld k then s.physByte pa else (xtsEncrypt k (pa / 128) (s.clearLine (pa / 128))).getD (pa % 128) 0
  | none => s.physByte pa

def State.physBytes (s : State) (pa n : Nat) : List Byte := (List.range n).map fun i => s.plainByte (pa + i)

/-- Any byte of the range lies in an uncorrectable unit (R69). -/
def State.badRange (s : State) (pa n : Nat) : Bool :=
  s.bad.any fun u => decide (u.1 < pa + n ∧ pa < u.1 + u.2)

/-- Some unit of the range is bad and not wholly covered (R69). -/
def State.partialBad (s : State) (pa n : Nat) : Bool :=
  s.bad.any fun u => decide (u.1 < pa + n ∧ pa < u.1 + u.2 ∧ ¬ (pa ≤ u.1 ∧ u.1 + u.2 ≤ pa + n))

/-! ## Key slots (R46, R391) -/

def State.getKey (s : State) (n : Nat) : KeySlot := Tbl.getD s.keys n KeySlot.start

/-- The line stands under another key. -/
def State.staleKey (s : State) (k : KeyMat) (pa : Nat) : Bool :=
  match Tbl.get? s.stamps (pa / 128) with
  | some k' => k' != k
  | none => false

/-- A line that stands under one key, as another shows it (R391). -/
def State.crossLine (s : State) (k : KeyMat) (line : Nat) : List Byte :=
  match Tbl.get? s.stamps line with
  | some k' => xtsDecrypt k line (xtsEncrypt k' line (s.clearLine line))
  | none => s.clearLine line

/-- A byte read through a page whose key material is k: of a line under another key, unrelated bytes (R391). A line that
no access has written under a key reads as it stands (log entry 48). -/
def State.keyByte (s : State) (k : KeyMat) (pa : Nat) : Byte :=
  if s.staleKey k pa then (s.crossLine k (pa / 128)).getD (pa % 128) 0 else s.physByte pa

def State.keyBytes (s : State) (k : Option KeyMat) (pa n : Nat) : List Byte :=
  match k with
  | some k => (List.range n).map fun i => s.keyByte k (pa + i)
  | none => s.physBytes pa n

/-! ## The scratch window and LM, as they are read (R53, R55, R57, R263) -/

def Core.pinOf (c : Core) (off : Nat) : PinLine := Tbl.getD c.pins (c.biv.line off) ⟨0, 0⟩

/-- A byte of the scratch window. -/
def Core.scrByte (c : Core) (off : Nat) : Byte := byteAt (c.pinOf off).data (off % 128)

/-- The words of a line that n bytes from an offset of it touch; those that they cover. -/
def wordsAt (off n : Nat) : List Nat := if n = 0 then [] else (List.range ((off + n - 1) / 8 - off / 8 + 1)).map fun i => off / 8 + i

def covers (off n w : Nat) : Bool := decide (off ≤ 8 * w ∧ 8 * w + 8 ≤ off + n)

/-- An uncorrectable word of a line, named by mk, among n bytes from an offset of it (R69). -/
def Core.badAt (c : Core) (mk : Nat → Cell) (off n : Nat) : Bool := (wordsAt off n).any fun w => c.bad.contains (mk w)

/-- The same where a write does not cover the word. -/
def Core.badPart (c : Core) (mk : Nat → Cell) (off n : Nat) : Bool :=
  (wordsAt off n).any fun w => c.bad.contains (mk w) && !covers off n w

/-- Words that a write covers hold good data again (R69). -/
def Core.mendAt (c : Core) (mk : Nat → Cell) (off n : Nat) : Core :=
  if c.bad.isEmpty then c else { c with bad := c.bad.filter fun b => !((wordsAt off n).any fun w => covers off n w && b = mk w) }

/-- n bytes of the scratch window within one line; none where they meet an uncorrectable word. -/
def Core.scrRead (c : Core) (off n : Nat) : Option (List Byte) :=
  if c.badAt (.pin (c.biv.line off)) (off % 128) n then none else some ((List.range n).map fun i => c.scrByte (off + i))

/-- LM's key of a line: the physical line, or the remote line with its space. -/
def lmKey (asid : Nat) (x : Xl) : Nat :=
  match x.place with
  | .dev pa => pa / 128
  | .scratch off => 2 ^ 72 + off / 128
  | .remote m off => 2 ^ 62 + asid * 2 ^ 54 + (m * 2 ^ 43 + off) / 128

/-! ## wait4's armed words (R233) -/

def Op.isProbe (o : Op) (q : SeqId) (addr : Word64) : Bool :=
  o.seq = q && (match o.kind with | .probe a => a = addr | _ => false)

/-- What an armed word holds. -/
inductive WordNow where
  | val (v : Word64)
  | bad
  /-- another module has not told it -/
  | unknown

/-- What lies below with the core's own dirty bytes above it, from an offset of a line; none where a word of the line is bad
(R69). -/
def Core.overOwn (c : Core) (key off : Nat) (below : List Byte) : Option (List Byte) :=
  match Tbl.get? c.lm key with
  | some l =>
    if c.badAt (.lm key) off below.length then none
    else some (below.mapIdx fun i b => if l.dirty.getLsbD (off + i) then byteAt l.data (off + i) else b)
  | none => some below

/-- The core's own dirty bytes hide all n bytes of a line from an offset. -/
def Core.hides (c : Core) (key off n : Nat) : Bool :=
  match Tbl.get? c.lm key with
  | some l => (List.range n).all fun i => l.dirty.getLsbD (off + i)
  | none => false

def wordOf (bs : Option (List Byte)) : WordNow := match bs with | some l => .val (ofBytes 64 l) | none => .bad

/-- The 8 bytes at an address that a sequencer watches, at their place of execution, the core's own dirty bytes above them. -/
def State.wordNow (s : State) (core : Nat) (q : SeqId) (asid : Nat) (addr : Word64) (x : Xl) : WordNow :=
  let c := s.getCore core
  let key := lmKey asid x
  let own (off : Nat) (below : List Byte) : WordNow := wordOf (if x.cached then c.overOwn key off below else some below)
  match x.place with
  | .scratch off => wordOf (c.scrRead off 8)
  | .dev pa => if s.badRange pa 8 && !(x.cached && c.hides key (pa % 128) 8) then .bad else own (pa % 128) (s.keyBytes x.key pa 8)
  | .remote _ off =>
    match c.ops.find? fun o => o.isProbe q addr with
    | some o => match o.answer with | some (.value _ _ v) => own (off % 128) (leBytes 8 v.toNat) | _ => .unknown
    | none => .unknown

/-- How a check of the armed words ends: the lowest that differs wakes with its index, none with 7; a word that cannot be
read makes the instruction read again (R233). -/
def State.armedCheck (s : State) (core : Nat) (q : SeqId) (asid j : Nat) (armed : List (Word64 × Word64 × Xl)) : Sleep :=
  match armed with
  | [] => .woken 7
  | (a, v, x) :: rest =>
    match s.wordNow core q asid a x with
    | .val w => if w != v then .woken j else State.armedCheck s core q asid (j + 1) rest
    | .bad => .none
    | .unknown => State.armedCheck s core q asid (j + 1) rest

/-- The space of a core's instance. -/
def State.asidOf (s : State) (core : Nat) : Nat := match (s.getCore core).inst with | some i => i.asid | none => 0

/-- A write has reached lines: a sleeper that has armed one of them is woken (R233). -/
def State.wakeOne (s : State) (hit : Nat → Xl → Bool) (core : Nat) (q : SeqId) : State :=
  let c := s.getCore core
  match (c.seqr q).sleep with
  | .wait4 armed =>
    if armed.any fun a => hit core a.2.2 then
      s.setCore core (c.setSeqr q { c.seqr q with sleep := s.armedCheck core q (s.asidOf core) 0 armed })
    else s
  | _ => s

/-- The test of COND and WAIT (R143). -/
def gtest (op : Nat) (w mask value : Word64) : Bool :=
  let v := w &&& mask
  match op with
  | 0 => v = value
  | 1 => v != value
  | 2 => v.ult value
  | _ => !(v.ult value)

/-- A write has reached lines: a WAIT node whose word lies on one of them looks at it (R143). -/
def State.wakeSlot (s : State) (hit : Nat → Xl → Bool) (unit : Nat) : State :=
  let d := s.getDie (coreDie unit)
  match (Tbl.get? d.slots (unit % 64)).map (fun (g : GSlot) => (g, g.phase)) with
  | some (g, .waitWord n till addr mask value op (some x) false) =>
    match hit unit x, x.place with
    | true, .dev pa =>
      if !s.badRange pa 8 && gtest op (ofBytes 64 (s.keyBytes x.key pa 8)) mask value then
        s.setDie (coreDie unit) { d with
          slots := Tbl.set d.slots (unit % 64) { g with phase := .waitWord n till addr mask value op (some x) true } }
      else s
    | _, _ => s
  | _ => s

def State.wake (s : State) (hit : Nat → Xl → Bool) : State :=
  s.waiters.foldl (fun t w => if isUnit w.1 then t.wakeSlot hit w.1 else t.wakeOne hit w.1 w.2) s

/-- The place lies on a device line from lo to hi. -/
def hitDev (lo hi : Nat) (_ : Nat) (x : Xl) : Bool :=
  match x.place with | .dev pa => decide (lo ≤ pa / 128 ∧ pa / 128 ≤ hi) | _ => false

/-- Bytes put at a physical address, without checks; sleepers see the write. -/
def State.putPhys (s : State) (pa : Nat) (bs : List Byte) : State :=
  if bs.isEmpty then s
  else if farBase ≤ pa then
    State.wake { s with host := Mem.writeL s.host (s.farbase.toNat + (pa - farBase)) bs } (hitDev (pa / 128) ((pa + bs.length - 1) / 128))
  else State.wake { s with mem := Mem.writeL s.mem pa bs } (hitDev (pa / 128) ((pa + bs.length - 1) / 128))

/-- Bad units that a write covers hold good data again (R69). -/
def State.mend (s : State) (pa n : Nat) : State :=
  { s with bad := s.bad.filter fun u => !(decide (pa ≤ u.1 ∧ u.1 + u.2 ≤ pa + n)) }

/-- The lines that n bytes touch. -/
def linesAt (pa n : Nat) : List Nat := if n = 0 then [] else (List.range ((pa + n - 1) / 128 - pa / 128 + 1)).map fun i => pa / 128 + i

/-- A line whose key no slot holds becomes the bytes that stand there. -/
def State.unkey (s : State) (line : Nat) : State :=
  match Tbl.get? s.stamps line with
  | some k =>
    if s.keyHeld k then s
    else { (s.putPhys (line * 128) (xtsEncrypt k line (s.clearLine line))) with stamps := Tbl.erase s.stamps line }
  | none => s

/-- A write at a physical address: none where it covers a bad unit in part; a covered bad unit becomes good (R69). -/
def State.storePhys (s : State) (pa : Nat) (bs : List Byte) : Option State :=
  if s.partialBad pa bs.length then none
  else
    let s := (linesAt pa bs.length).foldl (fun t l => t.unkey l) s
    some ((s.putPhys pa bs).mend pa bs.length)

/-- Runs of consecutive bytes among numbered ones: the first number and the bytes. -/
def runsOf (bs : List (Nat × Byte)) : List (Nat × List Byte) :=
  match bs with
  | [] => []
  | (i, b) :: rest =>
    match runsOf rest with
    | (j, l) :: more => if j = i + 1 then (i, b :: l) :: more else (i, [b]) :: (j, l) :: more
    | [] => [(i, [b])]

/-- Bytes that the host or firmware writes by physical address: they replace what stands there, but where they cover a bad unit
in part (R64, R69). -/
def State.putPlain (s : State) (pa : Nat) (bs : List Byte) : State :=
  let n := bs.length
  let s := (linesAt pa n).foldl (fun t l => t.unkey l) s
  if !s.partialBad pa n then (s.putPhys pa bs).mend pa n
  else
    let lost (a : Nat) : Bool :=
      s.bad.any fun u => decide (u.1 ≤ a ∧ a < u.1 + u.2 ∧ ¬ (pa ≤ u.1 ∧ u.1 + u.2 ≤ pa + n))
    ((runsOf ((bs.mapIdx fun i b => (i, b)).filter fun e => !lost (pa + e.1))).foldl (fun t r => t.putPhys (pa + r.1) r.2) s).mend pa n

/-- Before a part of a line under another key is written, the line is read through the key it is written under. -/
def State.rekey (s : State) (k : KeyMat) (line : Nat) : State :=
  let s := if s.staleKey k (line * 128) then s.putPhys (line * 128) (s.crossLine k line) else s
  { s with stamps := Tbl.set s.stamps line k }

/-- A write through a page under key material k. -/
def State.storeKeyed (s : State) (k : Option KeyMat) (pa : Nat) (bs : List Byte) : Option State :=
  match k with
  | some k =>
    if s.partialBad pa bs.length then none
    else some ((((linesAt pa bs.length).foldl (fun t l => t.rekey k l) s).putPhys pa bs).mend pa bs.length)
  | none => s.storePhys pa bs

/-! ## Errors that are counted (R413, R415) -/

/-- A PLDM event waits for delivery; one of its class and unit at a time (R415). -/
def State.pldm (s : State) (cls unit : Nat) (addr : Word64) : State :=
  if s.mgmt.waiting.any fun e => e.1 = cls ∧ e.2.1 = unit then s
  else { s with mgmt := { s.mgmt with waiting := s.mgmt.waiting ++ [(cls, unit, addr)] } }

/-- An uncorrectable error is counted under its unit and announced (R69, R413, R415). -/
def State.countUe (s : State) (unit : Nat) (addr : Nat) : State :=
  let v := (Tbl.getD s.mgmt.errcnt unit 0).toNat
  let v' := v % 2 ^ 32 + 2 ^ 32 * satU (v / 2 ^ 32 + 1) 32
  { s with mgmt := { s.mgmt with errcnt := Tbl.set s.mgmt.errcnt unit (BitVec.ofNat 64 v') } }.pldm 0 unit (BitVec.ofNat 64 addr)

/-- A corrected error is counted under its unit (R68, R413). -/
def State.countCe (s : State) (unit : Nat) : State :=
  let v := (Tbl.getD s.mgmt.errcnt unit 0).toNat
  let v' := satU (v % 2 ^ 32 + 1) 32 + 2 ^ 32 * (v / 2 ^ 32)
  { s with mgmt := { s.mgmt with errcnt := Tbl.set s.mgmt.errcnt unit (BitVec.ofNat 64 v') } }

/-- The unit that counts the errors of a core's cell; the instruction cache has none (R413). -/
def Cell.unit (c : Cell) : Option Nat :=
  match c with
  | .lm .. | .pin .. => some 0
  | .l1 .. => some 1
  | .row _ => some 6
  | .ic _ => none

def State.getPort (s : State) (p : Nat) : Port := Tbl.getD s.mgmt.ports p Port.start

def State.setPort (s : State) (p : Nat) (v : Port) : State := { s with mgmt := { s.mgmt with ports := Tbl.set s.mgmt.ports p v } }

/-- A port goes down (R416). -/
def State.portFails (s : State) (p : Nat) : State :=
  (s.setPort p { s.getPort p with up := false, lanes := 0 }).pldm 4 p 0

/-- The core holds the unit: nothing else of it can be in error. -/
def Core.holdsCell (c : Core) (x : Cell) : Bool :=
  match x with
  | .lm k w => decide (w < 16) && (match Tbl.get? c.lm k with
    | some l => (List.range 8).any fun i => l.valid.getLsbD (8 * w + i)
    | none => false)
  | .pin l w => decide (w < 16) && (Tbl.get? c.pins l).isSome
  | .l1 k w => decide (w < 16) && (Tbl.get? c.l1 k).isSome
  | .ic k => (Tbl.get? c.icache k).isSome
  | .row r => decide (r < 512)

/-- The LLC may hold the line of an address (R62). -/
def llcHolds (pa : Nat) : Bool := match regionOf pa with | some (.hbm _) | some .far => true | _ => false

/-- A unit below goes bad. -/
def State.goBad (s : State) (u : Nat × Nat) : State := if s.bad.contains u then s else { s with bad := s.bad ++ [u] }

/-- The LLC gives up a line of which a word is bad: a dirty word is dropped and counted, and what it held before its last
write is read from then on, any bytes; of a clean one nothing is lost (R69; log entry 63). -/
def State.llcEvict (s : State) (pa : Nat) : State :=
  let u := llcWord pa
  if !(s.bad.contains u && llcHolds pa) || unitAt pa = u then s
  else
    let t := { s with bad := s.bad.filter fun v => v != u }
    if s.freeBool (pa + 2 ^ 85) then (t.putPhys u.1 (leBytes 8 (s.free (u.1 + 2 ^ 86)).toNat)).countUe (errUnit u) u.1 else t

/-- An error arises (R68, R69, R412, R413): a corrected one is counted; another makes its checked unit bad, or takes its port
down. Tile registers have detection only. -/
def State.errorAt (s : State) (e : ErrAt) (corrected : Bool) : State :=
  match e with
  | .phys pa =>
    if (regionOf pa).isNone then s
    else if corrected then s.countCe (errUnit (unitAt pa)) else s.goBad (unitAt pa)
  | .llc pa =>
    if !llcHolds pa then s
    else if corrected then s.countCe (errUnit (llcWord pa)) else s.goBad (llcWord pa)
  | .evict pa => s.llcEvict pa
  | .cell core c =>
    let detectOnly := match c with | .row _ => true | _ => false
    if !(s.getCore core).holdsCell c then s
    else if corrected && !detectOnly then (match c.unit with | some u => s.countCe (32 * coreDie core + u) | none => s)
    else if (s.getCore core).bad.contains c then s
    else s.setCore core { s.getCore core with bad := (s.getCore core).bad ++ [c] }
  | .queue die slot =>
    if corrected then s.countCe (32 * die + 5)
    else
      let d := s.getDie die
      if (Tbl.get? d.tasks slot).isNone || d.badTasks.contains slot then s
      else s.setDie die { d with badTasks := d.badTasks ++ [slot] }
  | .port p =>
    let u := 32 * (p / 4) + 13 + p % 4
    if corrected then s.countCe u else (s.countUe u 0).portFails p

/-! ## Translation (R42 to R49, R387 to R389) -/

def scratchBase : Nat := 0x7F_FFFF_FFF0_0000

/-- An address of the scratch window (R42). -/
def inScratch (a : Nat) : Bool := scratchBase ≤ a && a < scratchBase + 0x10_0000

/-- The access a translation must allow. -/
inductive Need where
  | read | write | fetch | amo
  deriving DecidableEq, Repr

/-- Outcome of a translation. -/
inductive Xr where
  | ok (x : Xl)
  | fail (c : Cause) (reason : Nat)
  /-- the owner of the remote page at this offset has not answered -/
  | pend (m off : Nat)
  deriving DecidableEq, Repr

def State.getSpace (s : State) (a : Nat) : Space := Tbl.getD s.spaces a Space.start

/-- Size of a page mapped at a level (R388). -/
def pageSize (level : Nat) : Nat := 2 ^ (match level with | 0 => 16 | 1 => 21 | _ => 30)

/-- The table index of a level (R388 Table 5). -/
def walkIndex (level va : Nat) : Nat :=
  match level with
  | 0 => natBits va 16 5
  | 1 => natBits va 21 9
  | 2 => natBits va 30 9
  | 3 => natBits va 39 9
  | _ => natBits va 48 8

/-- The whole page lies in one region (R389). -/
def pageBacked (pa size : Nat) : Bool :=
  match regionOf pa, regionOf (pa + size - 1) with
  | some a, some b => a = b
  | _, _ => false

/-- A leaf entry is well formed at its level (R389). -/
def leafOk (e level : Nat) : Bool :=
  level ≤ 2 && natBits e 12 4 = 0 && natBits e 6 3 = 0 && natBits e 9 2 != 3 &&
    (natBits e 16 36 * 2 ^ 16) % pageSize level = 0 && pageBacked (natBits e 16 36 * 2 ^ 16) (pageSize level)

/-- A table entry is well formed (R389). -/
def tableOk (e level : Nat) : Bool := level != 0 && natBits e 2 10 = 0 && natBits e 52 12 = 0

/-- What a walk finds: a leaf and its level, no valid entry, or an entry that cannot be read (R69, R389). -/
inductive Walk where
  | leaf (e level : Nat)
  | none
  | bad
  deriving DecidableEq, Repr

/-- The walk from a table at a level (R388, R389). -/
def State.walk (s : State) (level tbl va : Nat) : Walk :=
  if (regionOf tbl).isNone then .none
  else if s.badRange (tbl + 8 * walkIndex level va) 8 then .bad
  else
    let e := leNat (s.physBytes (tbl + 8 * walkIndex level va) 8)
    if natBits e 0 1 = 0 then .none
    else if natBits e 1 1 = 1 then (if leafOk e level then .leaf e level else .none)
    else if tableOk e level then
      match level with
      | 0 => .none
      | l + 1 => State.walk s l (natBits e 12 40 * 2 ^ 12) va
    else .none

/-- The translation of a page as the tables now stand. -/
def State.walkAs (s : State) (asid va : Nat) : Walk := s.walk 4 (s.getSpace asid).root.toNat va

/-- A page of a level in a space. -/
def tlbKey (asid level va : Nat) : Nat := (asid * 4 + level) * 2 ^ 40 + va / pageSize level

/-- The translations of an address that TLBs hold, of pages of every size. -/
def State.held (s : State) (asid va : Nat) : List Walk :=
  ([0, 1, 2].map fun l => (Tbl.getD s.tlb (tlbKey asid l va) []).map fun t => Walk.leaf t.entry.toNat t.level).flatten

/-- What a translation may answer: the tables as they stand, or any translation that a TLB still holds (R49); nothing in a
space that is not enabled (R389). -/
def State.lookup (s : State) (asid va : Nat) : Walk :=
  if !(s.getSpace asid).en then .none
  else
    let now := s.walkAs asid va
    let held := s.held asid va
    if held.isEmpty || held = [now] then now
    else
      let all := if held.contains now then held else now :: held
      all.getD (s.freeBelow (tlbKey asid 0 va + 2 ^ 65) all.length) now

/-- The TLBs hold a translation that an access used (R48). -/
def State.tlbFill (s : State) (asid va : Nat) : State :=
  match s.lookup asid va with
  | .leaf e l =>
    let t : TlbEntry := ⟨BitVec.ofNat 64 e, l⟩
    let held := Tbl.getD s.tlb (tlbKey asid l va) []
    if held.contains t then s else { s with tlb := Tbl.set s.tlb (tlbKey asid l va) (t :: held) }
  | _ => s

/-- The TLBs hold the translation of an address that has been used (R43, R48). -/
def State.touch (s : State) (asid va : Nat) : State :=
  if va / 2 ^ 55 % 2 = 1 then
    if natBits va 43 12 = s.modId.toNat then s.tlbFill asid (va % 2 ^ 43) else s
  else if inScratch va then s
  else s.tlbFill asid va

/-- The rights of a leaf entry (R45, R46). -/
def leafAllows (s : State) (e : Nat) (r : Region) (sup : Bool) (need : Need) : Bool :=
  let right := match need with
    | .read => natBits e 2 1 = 1
    | .write => natBits e 3 1 = 1
    | .fetch => natBits e 4 1 = 1
    | .amo => natBits e 2 1 = 1 && natBits e 3 1 = 1
  let ms := natBits e 11 1 = 1
  right && (sup || natBits e 5 1 = 0) && !(ms && !(match r with | .hbm _ => true | _ => false)) &&
    !(r.keyed && !(s.getKey (natBits e 52 12)).loaded)

/-- A local virtual address translated (R388, R389); a walk that cannot be read consumes bad data (R69). -/
def State.xlatLocal (s : State) (asid : Nat) (sup : Bool) (need : Need) (va : Nat) : Xr :=
  match s.lookup asid va with
  | .none => .fail .page 0
  | .bad => .fail .uncorr 0
  | .leaf e l =>
    let pa := natBits e 16 36 * 2 ^ 16 + va % pageSize l
    match regionOf pa with
    | none => .fail .page 0
    | some r =>
      if leafAllows s e r sup need then
        let node := match r with | .node _ => true | _ => false
        let ms := natBits e 11 1 = 1
        let kind := natBits e 9 2
        .ok ⟨.dev pa, kind, kind != 0 && !ms && !node, if r.keyed then (s.getKey (natBits e 52 12)).key else none⟩
      else .fail .perm 0

def remoteKey (asid m off : Nat) : Nat := (asid * 2 ^ 12 + m) * 2 ^ 27 + off / 2 ^ 16

/-- An address of another module, as its owner has answered (R43, R44). -/
def State.xlatRemote (s : State) (asid : Nat) (sup : Bool) (need : Need) (m off : Nat) : Xr :=
  if !s.mgmt.reachable.contains m then .fail .page 1 else
  match Tbl.get? s.remotePages (remoteKey asid m off) with
  | none => .pend m off
  | some p =>
    match p.fail with
    | some 0 => .pend m off
    | some r => .fail .page r
    | none =>
      let right := match need with
        | .read => p.r
        | .write => p.w
        | .fetch => p.x
        | .amo => p.r && p.w
      if right && (sup || !p.s) then .ok ⟨.remote m off, p.kind, p.kind != 0 && !p.uncached, none⟩
      else .fail .perm 0

/-- The owner of a page is asked for its translation, once (R43). -/
def State.askPage (s : State) (asid m off : Nat) : State :=
  match Tbl.get? s.remotePages (remoteKey asid m off) with
  | some _ => s
  | none =>
    { s with remotePages := Tbl.set s.remotePages (remoteKey asid m off) ⟨0, false, false, false, false, true, some 0⟩ }.emit
      (.remotePage m asid (off / 2 ^ 16))

/-- A 56-bit virtual address translated for an agent: core, when given, is the core whose scratch window the agent
reaches (R42, R43, R55). A global address of the module itself is the local address (R43). -/
def State.xlat (s : State) (core : Option Nat) (asid : Nat) (sup : Bool) (need : Need) (va : Nat) : Xr :=
  if va / 2 ^ 55 % 2 = 1 then
    let m := natBits va 43 12
    if m = s.modId.toNat then s.xlatLocal asid sup need (va % 2 ^ 43)
    else s.xlatRemote asid sup need m (va % 2 ^ 43)
  else if inScratch va then
    match core with
    | none => .fail .page 0
    | some c =>
      if need = .fetch then .fail .perm 0
      else if (Tbl.get? (s.getCore c).pins (((s.getCore c).biv).line (va - scratchBase))).isSome then
        .ok ⟨.scratch (va - scratchBase), 1, false, none⟩
      else .fail .page 3
  else s.xlatLocal asid sup need va

/-- Why an access stops, in the order of R266. -/
inductive Stop where
  | trap (c : Cause) (val : Word64)
  | wait
  /-- the owner of a remote page is to be asked, or has yet to answer -/
  | ask (asid m off : Nat)
  deriving DecidableEq, Repr

/-- The value a failed translation reports (R358). -/
def stopOf (c : Cause) (reason : Nat) (addr : Word64) : Stop :=
  match c with
  | .page => .trap .page (pageVal reason addr)
  | c => .trap c addr

/-- The checks of R266 on one access that lies in one page. -/
def State.check (s : State) (core : Option Nat) (asid : Nat) (sup : Bool) (need : Need) (fe : Bool) (align : Nat)
    (addr : Word64) : Except Stop Xl :=
  if addr.toNat / 2 ^ 56 ≠ 0 then .error (.trap .page (pageVal 4 addr))
  else if addr.toNat % align ≠ 0 then .error (.trap .misalign addr)
  else if fe && !inScratch addr.toNat then .error (.trap .perm addr)
  else
    match s.xlat core asid sup need addr.toNat with
    | .ok x => .ok x
    | .fail c r => .error (stopOf c r addr)
    | .pend m off => .error (.ask asid m off)

/-! ## Uncorrectable errors that an access meets (R69, R413; log entry 63) -/

/-- The physical address at which the walk for an address meets an entry it cannot read. -/
def State.badEntry (s : State) (level tbl va : Nat) : Option Nat :=
  let a := tbl + 8 * walkIndex level va
  if s.badRange a 8 then some a
  else
    match level with
    | 0 => none
    | l + 1 => State.badEntry s l (natBits (leNat (s.physBytes a 8)) 12 40 * 2 ^ 12) va

/-- The unit in error among n bytes at a physical address, as ERRCNT counts it, and its address. -/
def State.badBelow (s : State) (pa n : Nat) : Option (Nat × Nat) :=
  (s.bad.find? fun u => decide (u.1 < pa + n ∧ pa < u.1 + u.2)).map fun u => (errUnit u, u.1)

/-- An uncorrectable error met there is counted and announced. -/
def State.countBelow (s : State) (pa n : Nat) : State :=
  match s.badBelow pa n with
  | some (u, a) => s.countUe u a
  | none => s

/-- The unit among n bytes that a read of a core, or of a unit at a die, cannot have, as ERRCNT counts it, and its address. -/
def State.badSeen (s : State) (core : Option Nat) (asid va : Nat) : Option (Nat × Nat) :=
  let v := if va / 2 ^ 55 % 2 = 1 then va % 2 ^ 43 else va
  if va / 2 ^ 55 % 2 = 1 ∧ natBits va 43 12 ≠ s.modId.toNat then none
  else if va / 2 ^ 55 % 2 = 0 ∧ inScratch va then core.map fun c => (32 * coreDie c, va)
  else
    match s.lookup asid v with
    | .none => none
    | .bad => (s.badEntry 4 (s.getSpace asid).root.toNat v).bind fun a => s.badBelow a 8
    | .leaf e l =>
      let pa := natBits e 16 36 * 2 ^ 16 + v % pageSize l
      let own : Option (Nat × Nat) := core.bind fun c =>
        let k := s.getCore c
        if k.badAt (.lm (pa / 128)) (pa % 128) (128 - pa % 128) then some (32 * coreDie c, pa)
        else if k.badAt (.l1 (pa / 128)) (pa % 128) (128 - pa % 128) then some (32 * coreDie c + 1, pa)
        else none
      (own.orElse fun _ => s.badBelow pa 8).orElse fun _ => s.badBelow (pa / 128 * 128) 128

/-- An uncorrectable error that an access has met is counted and announced. -/
def State.countSeen (s : State) (core : Option Nat) (asid va : Nat) : State :=
  match s.badSeen core asid va with
  | some (u, a) => s.countUe u a
  | none => s

/-! ## The scratch window, as it is written (R55 to R58, R263) -/

/-- A byte written, its granule set full when fill holds (R57). -/
def Core.putScr (c : Core) (off : Nat) (b : Byte) (fill : Bool) : Core :=
  let l := c.pinOf off
  let full := if fill then setBit l.full (off % 128 / 16) true else l.full
  { c with pins := Tbl.set c.pins (c.biv.line off) ⟨setByte l.data (off % 128) b, full⟩ }

/-- Bytes written from an offset upwards. -/
def Core.putScrL (c : Core) (off : Nat) (bs : List Byte) (fill : Bool) : Core :=
  match bs with
  | [] => c
  | b :: rest => Core.putScrL (c.putScr off b fill) (off + 1) rest fill

/-- The full/empty bit of the granule of an offset (R57). -/
def Core.isFull (c : Core) (off : Nat) : Bool := (c.pinOf off).full.getLsbD (off % 128 / 16)

def Core.setFull (c : Core) (off : Nat) (b : Bool) : Core :=
  let l := c.pinOf off
  { c with pins := Tbl.set c.pins (c.biv.line off) { l with full := setBit l.full (off % 128 / 16) b } }

/-- Every granule of [off, off + n) is full. -/
def Core.allFull (c : Core) (off n : Nat) : Bool :=
  n = 0 || (List.range ((off + n - 1) / 16 - off / 16 + 1)).all fun i => c.isFull ((off / 16 + i) * 16)

/-- Every granule of [off, off + n) set full or empty. -/
def Core.setFullR (c : Core) (off n : Nat) (b : Bool) : Core :=
  if n = 0 then c else
  (List.range ((off + n - 1) / 16 - off / 16 + 1)).foldl (fun c i => c.setFull ((off / 16 + i) * 16) b) c

/-- The number under which a scratch line is watched and held in the L1. -/
def scrLineKey (core line : Nat) : Nat := 2 ^ 70 + core * 2 ^ 16 + line

/-! ## LM and the control L1 (R50 to R53) -/

/-- Byte i of the line is present. -/
def LmLine.has (l : LmLine) (i : Nat) : Bool := l.valid.getLsbD i

/-- The dirty bytes of a line, but for words the core cannot read (R69). -/
def Core.dirtyIn (c : Core) (key : Nat) (l : LmLine) : List (Nat × Byte) :=
  (List.range 128).filterMap fun i =>
    if l.dirty.getLsbD i && !c.bad.contains (.lm key (i / 8)) then some (i, byteAt l.data i) else none

/-- The dirty bytes of a line of this module written back: those in a checked unit below that is bad and that they do not
cover are dropped and counted (R69). -/
def State.writeBackHere (s : State) (key : Nat) (l : LmLine) (bs : List (Nat × Byte)) : State :=
  let at_ (u : Nat × Nat) (i : Nat) : Bool := decide (u.1 ≤ key * 128 + i ∧ key * 128 + i < u.1 + u.2)
  let lost := s.bad.filter fun u => bs.any (fun b => at_ u b.1) && decide ((bs.filter fun b => at_ u b.1).length ≠ u.2)
  let s := lost.foldl (fun t u => t.countUe (errUnit u) u.1) s
  (runsOf (bs.filter fun b => !lost.any fun u => at_ u b.1)).foldl (fun t r =>
    (t.storeKeyed l.key (key * 128 + r.1) r.2).getD t) s

/-- Words of a dirty line that the core cannot read: the write is dropped and counted (R69). -/
def State.countLost (s : State) (core key : Nat) (l : LmLine) : State :=
  if (List.range 16).any fun w => (s.getCore core).bad.contains (.lm key w) && (List.range 8).any fun i => l.dirty.getLsbD (8 * w + i)
  then s.countUe (32 * coreDie core) (key * 128) else s

/-- A write-back of this line to another module has not been acknowledged (R235). -/
def Core.wbBusy (c : Core) (key : Nat) : Bool := c.wbs.any (fun w => w.2 = key) || (Tbl.get? c.wbq key).isSome

/-- A line on its way from another module may not be kept. -/
def Core.unask (c : Core) (key : Nat) : Core :=
  match Tbl.get? c.asked key with | some _ => { c with asked := Tbl.set c.asked key false } | none => c

/-- A run of a remote line's dirty bytes sent, under a number of its own. -/
def State.sendBack (s : State) (core key : Nat) (l : LmLine) (r : Nat × List Byte) : State :=
  let c := (s.getCore core).unask key
  (s.setCore core { c with wbs := Tbl.set c.wbs c.nextOp key, nextOp := c.nextOp + 1 }).emit
    (.remoteWrite (key % 2 ^ 54 / 2 ^ 36) l.asid core c.nextOp (key % 2 ^ 36 * 128 + r.1) r.2 l.sup)

/-- The dirty bytes of a line written back (R53, R225); those of a line of another module are sent, once what was sent of
it before has been acknowledged. -/
def State.writeBackLine (s : State) (core key : Nat) (l : LmLine) : State :=
  if l.dirty = 0 then s
  else
    let s := s.countLost core key l
    let c := s.getCore core
    if l.remote then (runsOf (c.dirtyIn key l)).foldl (fun t r => t.sendBack core key l r) s
    else s.writeBackHere key l (c.dirtyIn key l)

/-- The dirty bytes of one line over those of an older copy of it. -/
def LmLine.over (l old : LmLine) : LmLine :=
  { l with
    data := (List.range 128).foldl (fun d i => if l.dirty.getLsbD i then d else setByte d i (byteAt old.data i)) l.data,
    dirty := l.dirty ||| old.dirty, sup := l.sup || old.sup }

/-- A dirty line of another module leaves LM while an earlier write-back of it is out: its bytes are sent next (R51). -/
def State.queueBack (s : State) (core key : Nat) (l : LmLine) : State :=
  let s := s.countLost core key l
  let c := s.getCore core
  let l := { l with dirty := (c.dirtyIn key l).foldl (fun m b => setBit m b.1 true) 0 }
  s.setCore core { c with wbq := Tbl.set c.wbq key (match Tbl.get? c.wbq key with | some o => l.over o | none => l) }

/-- A write-back has been acknowledged, or its module has refused it or is lost: what waited behind it is sent (R235). -/
def State.ackBack (s : State) (core op key : Nat) : State :=
  let c := s.getCore core
  let wbs := Tbl.erase c.wbs op
  let s := s.setCore core { c with wbs := wbs }
  if wbs.any fun w => w.2 = key then s
  else
    match Tbl.get? c.wbq key with
    | none => s
    | some l =>
      let c := s.getCore core
      (runsOf (c.dirtyIn key l)).foldl (fun t r => t.sendBack core key l r) (s.setCore core { c with wbq := Tbl.erase c.wbq key })

/-- A line may be written back now. -/
def Core.canWriteBack (c : Core) (key : Nat) (l : LmLine) : Bool := l.dirty = 0 || !(l.remote && c.wbBusy key)

/-- Every dirty line that can be is written back and left clean (R53, release at .clu or wider). -/
def State.lmRelease (s : State) (core : Nat) : State :=
  let go := (s.getCore core).lm.filter fun e => (s.getCore core).canWriteBack e.1 e.2
  let s := go.foldl (fun t e => t.writeBackLine core e.1 e.2) s
  let c := s.getCore core
  s.setCore core { c with lm := Tbl.mapVals c.lm fun k l => if go.any fun e => e.1 = k then { l with dirty := 0, sup := false } else l }

/-- Nothing of the core's LM is dirty, and every write-back to another module has been acknowledged (R227, R235). -/
def Core.released (c : Core) : Bool := c.wbs.isEmpty && c.wbq.isEmpty && c.lm.all fun e => e.2.dirty = 0

/-- What was uncorrectable in a line's absent words is gone with them: of the words of a line, those with a present byte
stay as they are. -/
def Core.badWords (c : Core) (key : Nat) (l : LmLine) : Core :=
  if c.bad.isEmpty then c else
  { c with bad := c.bad.filter fun b => match b with
    | .lm k w => k != key || (List.range 8).any fun i => l.valid.getLsbD (8 * w + i)
    | _ => true }

/-- Every clean line invalidated, and the clean bytes of dirty ones; lines on their way may not be kept (R53, acquire at
.clu or wider). -/
def State.lmAcquire (s : State) (core : Nat) : State :=
  let c := s.getCore core
  let lm := Tbl.mapVals (Tbl.keep c.lm fun _ l => l.dirty != 0) fun _ l => { l with valid := l.dirty }
  s.setCore core { c with
    lm := lm,
    asked := Tbl.mapVals c.asked fun _ _ => false,
    bad := c.bad.filter fun b => match b with
      | .lm k w => (match Tbl.get? lm k with
        | some l => (List.range 8).any fun i => l.valid.getLsbD (8 * w + i)
        | none => false)
      | _ => true }

/-- The control L1 invalidated (R50, acquire at any scope of the control sequencer). -/
def State.l1Clear (s : State) (core : Nat) : State :=
  let c := s.getCore core
  s.setCore core { c with l1 := [] }

def Scope.wide : Scope → Bool
  | .seq | .core => false
  | _ => true

/-- What an acquire of a sequencer does to the caches (R50, R53). -/
def State.acquire (s : State) (core : Nat) (q : SeqId) (sc : Scope) : State :=
  let s := if Scope.wide sc then s.lmAcquire core else s
  if q = .control then s.l1Clear core else s

/-- What a release does to the caches (R53): it has performed once `released` holds. -/
def State.release (s : State) (core : Nat) (sc : Scope) : State := if Scope.wide sc then s.lmRelease core else s

/-- A release at a scope has performed (R227 to R229). -/
def State.released (s : State) (core : Nat) (sc : Scope) : Bool := !Scope.wide sc || (s.getCore core).released

/-- One line written back if dirty, and dropped (R65, R276, R390); behind an earlier write-back of it that is out, the
write-back waits. -/
def State.lmDrop (s : State) (core key : Nat) : State :=
  match Tbl.get? (s.getCore core).lm key with
  | none => s.setCore core ((s.getCore core).unask key)
  | some l =>
    let s := if (s.getCore core).canWriteBack key l then s.writeBackLine core key l else s.queueBack core key l
    let c := (s.getCore core).unask key
    s.setCore core { c with lm := Tbl.erase c.lm key, bad := c.bad.filter fun b => match b with | .lm k _ => k != key | _ => true }

/-- The line is out of LM and nothing sent of it is unacknowledged. -/
def Core.lineGone (c : Core) (key : Nat) : Bool := (Tbl.get? c.lm key).isNone && !c.wbBusy key

/-- A way for a new line: a victim is dropped when its set is full (R51, R53). -/
def State.lmRoom (s : State) (core key : Nat) : State :=
  let c := s.getCore core
  let set := key % 512
  let pinned := (c.pins.filter fun e => e.1 % 512 = set).length
  let same := c.lm.filter fun e => e.1 % 512 = set
  if pinned + same.length < 16 then s
  else
    match same[s.freeBelow (key + 2 ^ 80) same.length]? with
    | some e => s.lmDrop core e.1
    | none => s

/-- The bytes below LM of a device line. -/
def State.belowLine (s : State) (x : Xl) (pa : Nat) : List Byte := s.keyBytes x.key (pa / 128 * 128) 128

/-- Line data from bytes. -/
def lineOf (bs : List Byte) : BitVec 1024 := ofBytes 1024 bs

/-- Missing bytes of a line taken from bs. -/
def LmLine.fill (l : LmLine) (bs : List Byte) : LmLine :=
  { l with
    data := (List.range 128).foldl (fun d i => if l.has i then d else setByte d i (bs.getD i 0)) l.data,
    valid := BitVec.allOnes 128 }

/-- The line of a cached device address made wholly present; none where the fill meets an uncorrectable unit (R53, R69):
a fill reads the whole line, so a bad unit anywhere in it fails the load (DESIGN CHOICE, log entry 49). -/
def State.lmFetch (s : State) (core asid : Nat) (x : Xl) : Option State :=
  match x.place with
  | .dev pa =>
    let key := lmKey asid x
    match Tbl.get? (s.getCore core).lm key with
    | some l =>
      if l.valid = BitVec.allOnes 128 then some s
      else if s.badRange (pa / 128 * 128) 128 then none
      else
        let c := s.getCore core
        some (s.setCore core { c.badWords key l with lm := Tbl.set c.lm key (l.fill (s.belowLine x pa)) })
    | none =>
      if s.badRange (pa / 128 * 128) 128 then none
      else
        let s := s.lmRoom core key
        let c := s.getCore core
        let l : LmLine := ⟨lineOf (s.belowLine x pa), BitVec.allOnes 128, 0, asid, x.key, false, false⟩
        some (s.setCore core { c with lm := Tbl.set c.lm key l })
  | _ => some s

/-- n bytes of a line held in LM. -/
def Core.lmBytes (c : Core) (key off n : Nat) : List Byte :=
  match Tbl.get? c.lm key with
  | some l => (List.range n).map fun i => byteAt l.data (off + i)
  | none => List.replicate n 0

/-- The line has all of the n bytes from off. -/
def Core.lmHas (c : Core) (key off n : Nat) : Bool :=
  match Tbl.get? c.lm key with
  | some l => (List.range n).all fun i => l.has (off + i)
  | none => false

/-- The offset of an access in its line. -/
def Place.lineOff : Place → Nat
  | .dev pa => pa % 128
  | .scratch off => off % 128
  | .remote _ off => off % 128

/-- What a read of at most a line's rest answers. -/
inductive Rd where
  | ok (s : State) (bs : List Byte)
  | uncorr
  /-- a remote answer has not come -/
  | pend
  deriving Repr

/-- n bytes below the L1, in one line: scratch window, LM for a cached page, else the place that owns them (R53). -/
def State.readBelowL1 (s : State) (core asid : Nat) (x : Xl) (n : Nat) : Rd :=
  let key := lmKey asid x
  let off := x.place.lineOff
  match x.place with
  | .scratch o =>
    match (s.getCore core).scrRead o n with
    | some bs => .ok s bs
    | none => .uncorr
  | .dev pa =>
    if x.cached then
      if (s.getCore core).badAt (.lm key) off n then .uncorr
      else if (s.getCore core).lmHas key off n then .ok s ((s.getCore core).lmBytes key off n)
      else
        match s.lmFetch core asid x with
        | some s' => .ok s' ((s'.getCore core).lmBytes key off n)
        | none => .uncorr
    else if s.badRange pa n then .uncorr
    else .ok s (s.keyBytes x.key pa n)
  | .remote _ _ =>
    if x.cached && (s.getCore core).badAt (.lm key) off n then .uncorr
    else if x.cached && (s.getCore core).lmHas key off n then .ok s ((s.getCore core).lmBytes key off n)
    else .pend

/-- The L1's key of a line. -/
def l1Key (core asid : Nat) (x : Xl) : Nat :=
  match x.place with
  | .scratch off => scrLineKey core (off / 128)
  | _ => lmKey asid x

/-- The L1 holds lines of RC and UN pages and of the scratch window (R50). -/
def l1Holds (x : Xl) : Bool := match x.place with | .scratch _ => true | _ => x.cached

/-- A line enters the L1, which holds 128; another of the device's choice leaves a full one (R50). -/
def State.l1Fill (s : State) (core key : Nat) (line : List Byte) : State :=
  let c := s.getCore core
  let l1 := if 128 ≤ c.l1.length then
      match c.l1[s.freeBelow (key + 2 ^ 84) c.l1.length]? with | some e => Tbl.erase c.l1 e.1 | none => c.l1
    else c.l1
  s.setCore core { c with
    l1 := Tbl.set l1 key (lineOf line),
    bad := c.bad.filter fun b => match b with | .l1 k _ => k != key && (Tbl.get? l1 k).isSome | _ => true }

/-- An L1 line is dropped. -/
def Core.l1Out (c : Core) (key : Nat) : Core :=
  { c with l1 := Tbl.erase c.l1 key, bad := c.bad.filter fun b => match b with | .l1 k _ => k != key | _ => true }

/-- A read of a sequencer within one line: the control sequencer's passes through its L1, whose line it fills; an L1 line
that differs from what lies below may answer or not (R50, R51). -/
def State.readSeq (s : State) (core : Nat) (q : SeqId) (asid : Nat) (x : Xl) (n : Nat) : Rd :=
  match s.readBelowL1 core asid x n with
  | .ok s' bs =>
    if q = .control && l1Holds x then
      let key := l1Key core asid x
      let off := x.place.lineOff
      match Tbl.get? (s'.getCore core).l1 key with
      | some d =>
        let held := (List.range n).map fun i => byteAt d (off + i)
        if (s'.getCore core).badAt (.l1 key) off n then .uncorr
        else if held = bs then .ok s' bs
        else if s.freeBool (key + 2 ^ 81) then .ok s' held
        else .ok (s'.setCore core ((s'.getCore core).l1Out key)) bs
      | none =>
        let base := { x with place := match x.place with
          | .dev pa => .dev (pa / 128 * 128) | .scratch o => .scratch (o / 128 * 128) | .remote m o => .remote m (o / 128 * 128) }
        match s'.readBelowL1 core asid base 128 with
        | .ok s'' line => .ok (s''.l1Fill core key line) bs
        | _ => .ok s' bs
    else .ok s' bs
  | r => r

/-- An L1 line that a store of the core's own sequencers touches is dropped (R50). -/
def State.l1Drop (s : State) (core key : Nat) : State := s.setCore core ((s.getCore core).l1Out key)

/-- A write of at most a line's rest into the scratch window, by engines and sequencers alike: its granules turn full if
fill holds, sleepers see it; none where it meets an uncorrectable word in part (R57, R69, R233). -/
def State.storeScr (s : State) (core off : Nat) (bs : List Byte) (fill : Bool) : Option State :=
  if bs.isEmpty then some s else
  let c := s.getCore core
  let line := c.biv.line off
  if c.badPart (.pin line) (off % 128) bs.length then none
  else
    let c := (c.putScrL off bs fill).mendAt (.pin line) (off % 128) bs.length
    some ((s.setCore core c).wake fun k x =>
      k = core && (match x.place with | .scratch o => c.biv.line o = line | _ => false))

/-- Bytes with their places in the line stored into an LM line, which is allocated without a read when it is absent; none
where they meet an uncorrectable word in part (R53, R69). Only the core's own sleepers see the line there (R233). -/
def State.lmStore (s : State) (core asid : Nat) (x : Xl) (off : Nat) (bs : List Byte) (sup : Bool) : Option State :=
  let key := lmKey asid x
  if (s.getCore core).badPart (.lm key) off bs.length then none
  else
    let s := match Tbl.get? (s.getCore core).lm key with
      | some _ => s
      | none => s.lmRoom core key
    let c := s.getCore core
    let rem := match x.place with | .remote _ _ => true | _ => false
    let l := Tbl.getD c.lm key ⟨0, 0, 0, asid, x.key, rem, false⟩
    let l := (bs.mapIdx fun i b => (off + i, b)).foldl (fun (l : LmLine) e =>
      { l with data := setByte l.data e.1 e.2, valid := setBit l.valid e.1 true, dirty := setBit l.dirty e.1 true }) l
    let c := { c with lm := Tbl.set c.lm key { l with key := x.key, sup := l.sup || sup } }.mendAt (.lm key) off bs.length
    some ((s.setCore core c).wake fun k y => k = core && lmKey (s.asidOf k) y = key)

/-- A store of a sequencer within one line, not to another module's uncached page: none where it merges with an
uncorrectable unit (R53, R57, R69). -/
def State.writeSeq (s : State) (core asid : Nat) (sup : Bool) (x : Xl) (bs : List Byte) : Option State :=
  let s := s.l1Drop core (l1Key core asid x)
  match x.place with
  | .scratch off => s.storeScr core off bs true
  | .dev pa => if x.cached then s.lmStore core asid x (pa % 128) bs sup else s.storeKeyed x.key pa bs
  | .remote _ off => if x.cached then s.lmStore core asid x (off % 128) bs sup else none

/-! ## Reads of agents that reach no LM (R62, R231) -/

/-- n bytes within one page for an engine: the scratch window of its core, or the place that owns them. -/
def State.readEng (s : State) (core : Nat) (x : Xl) (n : Nat) : Option (List Byte) :=
  match x.place with
  | .scratch off => (s.getCore core).scrRead off n
  | .dev pa => if s.badRange pa n then none else some (s.keyBytes x.key pa n)
  | .remote _ _ => none

end Sys2Proof.Machine
end

