-- ==== Sys2Proof/Machine/Engine.lean ====
section
/-! DEFINITION. Reads and writes of engine commands and of units by virtual address, and where an engine fault record goes
(R46, R47, R222, R231, R361, R362). -/

namespace Sys2Proof.Machine

open Sys2Proof

/-- How an engine's access fails. -/
inductive EFail where
  | fault (c : Cause) (reason : Nat) (addr : Word64)
  /-- another module has not answered: the n bytes at offset off of module m; 0 bytes where its page is not known -/
  | pend (m off n : Nat)
  /-- the copies of a bivouac run (R264) -/
  | held
  deriving DecidableEq, Repr

/-- An access that has to wait: nothing has failed. -/
def EFail.waits : EFail → Bool
  | .fault .. => false
  | _ => true

/-- Who accesses: the core whose scratch window it reaches (none for a unit at a die, R55), space, privilege; the core and
operation to which other modules answer; whether granules stay empty until the command's last write (R232). -/
structure Agent where
  core : Option Nat
  asid : Nat
  sup : Bool
  who : Option (Nat × Nat)
  defer : Bool
  deriving DecidableEq, Repr

/-- Numbers that stand for a die's jobs, for a graph slot's own writes, for a launch's parts and its writes, for a rope's and
for a die's bins where a core and an operation are named: of a record, the operation is its address, with bit 60 set where an interrupt is to
follow it. -/
def jobCore (die : Nat) : Nat := 2048 + die

def slotWrites : Nat := 2 ^ 64

def partCore : Nat := 2 ^ 30

def launchWrites : Nat := 2 ^ 40

def ropeWrites : Nat := 2 ^ 50

def binWrites : Nat := 2 ^ 60

/-- A unit at a die acting for itself, at user level (R46, R55). -/
def unitAgent (asid : Nat) : Agent := ⟨none, asid, false, none, false⟩

/-- The number of no core: nobody waits for the answer. -/
def noCore : Nat := 2 ^ 20

/-- One more message to another module that is unacknowledged, by whom it was sent for; of a rope and a bin it is not
counted here (R231, R235). -/
def State.countOut (s : State) (who : Nat × Nat) : State :=
  let (c, o) := who
  if launchWrites ≤ c ∧ c < ropeWrites then
    { s with launches := Tbl.mapVals s.launches fun k l => if k = c - launchWrites then { l with out := l.out + 1 } else l }
  else if 2 ^ 20 ≤ c then s
  else if slotWrites ≤ o then
    let d := s.getDie (coreDie c)
    s.setDie (coreDie c) { d with slots := Tbl.mapVals d.slots fun k g => if k = c % 64 then { g with out := g.out + 1 } else g }
  else if 2048 ≤ c ∧ c < 2052 then
    let d := s.getDie (c - 2048)
    s.setDie (c - 2048) { d with jobs := Tbl.mapVals d.jobs fun k j => if k = o then { j with out := j.out + 1 } else j }
  else s.setCore c ((s.getCore c).updOp o fun p => { p with out := p.out + 1 })

/-- A write to another module sent for an agent, and counted as unacknowledged (R231, R235). -/
def State.sendWrite (s : State) (g : Agent) (m off : Nat) (bs : List Byte) : State :=
  let who := g.who.getD (noCore, 0)
  (s.emit (.remoteWrite m g.asid who.1 who.2 off bs g.sup)).countOut who

/-- A write of an agent within one page; none where it meets a bad unit in part. -/
def State.writeEng (s : State) (g : Agent) (x : Xl) (bs : List Byte) : Option State :=
  match x.place with
  | .scratch off =>
    let c := g.core.getD 0
    (s.storeScr c off bs !g.defer).map fun t =>
      match g.defer, g.who with
      | true, some (_, o) =>
        let at_ := (t.getCore c).biv.line off * 128 + off % 128
        t.setCore c ((t.getCore c).updOp o fun p => { p with fills := p.fills ++ [(at_, bs.length)] })
      | _, _ => t
  | .dev pa => s.storeKeyed x.key pa bs
  | .remote m off => some (s.sendWrite g m off bs)

/-- The distance to the next boundary at which an access is split: pages, and lines in the scratch window (R47, R55). -/
def splitAt (va : Nat) : Nat := if inScratch va then 128 - va % 128 else 65536 - va % 65536

/-- An access of n bytes cut at page boundaries; fuel is at least the number of parts. -/
def chunks (fuel va n : Nat) : List (Nat × Nat) :=
  match fuel with
  | 0 => []
  | f + 1 =>
    if n = 0 then [] else
    let m := min n (splitAt va)
    (va, m) :: chunks f (va + m) (n - m)

/-- The parts of an access of n bytes at va. -/
def parts (va n : Nat) : List (Nat × Nat) := chunks (n / 128 + 2) va n

/-- The copies of an `spbeg` still run in the region of this place (R264). -/
def State.copyHeld (s : State) (core : Option Nat) (x : Xl) : Bool :=
  match core, x.place with
  | some c, .scratch off =>
    let b := (s.getCore c).biv
    b.copying && decide (b.base ≤ off ∧ off < b.base + 2 * b.len)
  | _, _ => false

/-- One part translated for an agent. -/
def State.agentXlat (s : State) (g : Agent) (need : Need) (va : Nat) : Except EFail Xl :=
  if va / 2 ^ 56 ≠ 0 then .error (.fault .page 4 (BitVec.ofNat 64 va))
  else
    match s.xlat g.core g.asid g.sup need va with
    | .ok x => if s.copyHeld g.core x then .error .held else .ok x
    | .fail c r => .error (.fault c r (BitVec.ofNat 64 va))
    | .pend m off => .error (.pend m off 0)

/-- Why the owner, or the fabric, refused an answer: a translation that fails there has the reason remote (R44, R69). -/
def RemoteAnswer.why : RemoteAnswer → Option (Cause × Nat)
  | .lost _ _ => some (.page, 1)
  | .denied _ _ c _ => some (if c = 12 then (.uncorr, 0) else if c = 4 then (.perm, 0) else (.page, 2))
  | _ => none

def answerWhy (ans : Option RemoteAnswer) : Option (Cause × Nat) := ans.bind RemoteAnswer.why

/-- Bytes of another module among those an answer brought, by their global address (R235). -/
def answerBytes (ans : Option RemoteAnswer) (va n : Nat) : Option (List Byte) :=
  match ans with
  | some (.bytes _ _ cells) => (List.range n).mapM fun i => Tbl.get? cells (va + i)
  | _ => none

/-- The parts of a read in address order. -/
def State.vreadGo (s : State) (g : Agent) (ans : Option RemoteAnswer) (ps : List (Nat × Nat)) : Except EFail (List Byte) :=
  match ps with
  | [] => .ok []
  | (va, n) :: rest =>
    match s.agentXlat g .read va with
    | .error e => .error e
    | .ok x =>
      let got := match x.place with
        | .remote m off =>
          match answerWhy ans with
          | some (c, r) => Except.error (EFail.fault c r (BitVec.ofNat 64 va))
          | none => match answerBytes ans va n with
            | some bs => .ok bs
            | none => .error (.pend m off n)
        | _ => match s.readEng (g.core.getD 0) x n with
          | some bs => .ok bs
          | none => .error (.fault .uncorr 0 (BitVec.ofNat 64 va))
      match got with
      | .error e => .error e
      | .ok bs =>
        match State.vreadGo s g ans rest with
        | .ok more => .ok (bs ++ more)
        | .error e => .error e

/-- n bytes at a virtual address, read by an engine or a unit. -/
def State.vread (s : State) (g : Agent) (ans : Option RemoteAnswer) (va n : Nat) : Except EFail (List Byte) :=
  s.vreadGo g ans (parts va n)

/-- The parts of a write in address order; those before a failing one stay performed (R361). -/
def State.vwriteGo (s : State) (g : Agent) (ps : List (Nat × Nat)) (bs : List Byte) : State × Option EFail :=
  match ps with
  | [] => (s, none)
  | (va, n) :: rest =>
    match s.agentXlat g .write va with
    | .error e => (s, some e)
    | .ok x =>
      match (s.touch g.asid va).writeEng g x (bs.take n) with
      | none => (s, some (.fault .uncorr 0 (BitVec.ofNat 64 va)))
      | some s' => State.vwriteGo s' g rest (bs.drop n)

/-- The TLBs hold the translations a read of n bytes used (R48). -/
def State.vtouch (s : State) (asid va n : Nat) : State := (parts va n).foldl (fun t p => t.touch asid p.1) s

/-- A part of a write has to wait: nothing of the write performs before it can. -/
def State.vwriteWaits (s : State) (g : Agent) (ps : List (Nat × Nat)) : Option EFail :=
  ps.findSome? fun p =>
    match s.agentXlat g .write p.1 with
    | .error (.fault ..) => none
    | .error e => some e
    | .ok _ => none

/-- Bytes written at a virtual address by an engine or a unit. -/
def State.vwrite (s : State) (g : Agent) (va : Nat) (bs : List Byte) : State × Option EFail :=
  match s.vwriteWaits g (parts va bs.length) with
  | some e => (s, some e)
  | none => s.vwriteGo g (parts va bs.length) bs

/-- CAUSE and REASON of a unit's own failed access; a page that another module has not answered counts as untranslated. -/
def EFail.codes : EFail → Nat × Nat
  | .fault c r _ => (c.code.toNat, r)
  | .pend .. | .held => (3, 2)

/-- A write that a unit makes on its own account, part by part; where the owner of a page has not told its rights, it is sent
all the same, and the owner checks it (R422). -/
def State.postGo (s : State) (g : Agent) (ps : List (Nat × Nat)) (bs : List Byte) : State × Option EFail :=
  match ps with
  | [] => (s, none)
  | (va, n) :: rest =>
    match s.agentXlat g .write va with
    | .error (.pend m off _) => State.postGo (s.sendWrite g m off (bs.take n)) g rest (bs.drop n)
    | .error e => (s, some e)
    | .ok x =>
      match (s.touch g.asid va).writeEng g x (bs.take n) with
      | none => (s, some (.fault .uncorr 0 (BitVec.ofNat 64 va)))
      | some s' => State.postGo s' g rest (bs.drop n)

/-- Some byte of a range is another module's. -/
def State.goesFar (s : State) (va : Nat) : Bool := va / 2 ^ 55 % 2 = 1 && natBits va 43 12 != s.modId.toNat

/-- A record of a unit: who hears of it where it goes to another module, and the state or why it cannot be written (R422). -/
def State.postAs (s : State) (who : Nat × Nat) (asid va : Nat) (bs : List Byte) : Except EFail State :=
  match s.postGo ⟨none, asid, false, some who, false⟩ (parts va bs.length) bs with
  | (t, none) => .ok t
  | (_, some e) => .error e

/-! ## Atomic words (R65, R283) -/

/-- The result of an atomic operation on n-bit words: the value written, or none for a failed cas. -/
def amoNew (op : AmoOp) (n : Nat) (old b c : BitVec n) : Option (BitVec n) :=
  match op with
  | .add => some (old + b)
  | .min => some (if old.slt b then old else b)
  | .max => some (if old.slt b then b else old)
  | .band => some (old &&& b)
  | .bor => some (old ||| b)
  | .bxor => some (old ^^^ b)
  | .xchg => some b
  | .cas => if old = c then some b else none

/-- The same on the low half or all of 64 bits. -/
def amoApply (op : AmoOp) (dword : Bool) (old b c : Word64) : Option Word64 :=
  if dword then amoNew op 64 old b c
  else (amoNew op 32 (old.setWidth 32) (b.setWidth 32) (c.setWidth 32)).map (·.setWidth 64)

/-- What an atomic of an agent at a translated place does: the old word and the new state; none on an uncorrectable unit.
Outside the scratch window the line is first written back and dropped from the LM of the core it acts for (R65). -/
def State.amoPlace (s : State) (core asid : Nat) (x : Xl) (op : AmoOp) (dword : Bool) (b c : Word64) : Option (State × Word64) :=
  let n := if dword then 8 else 4
  match x.place with
  | .scratch off =>
    match (s.getCore core).scrRead off n with
    | none => none
    | some bs =>
      let old := ofBytes 64 bs
      match amoApply op dword old b c with
      | some v => (s.storeScr core off (leBytes n v.toNat) false).map fun t => (t, old)
      | none => some (s, old)
  | .dev pa =>
    let s := s.lmDrop core (lmKey asid x)
    if s.badRange pa n then none else
    let old := ofBytes 64 (s.keyBytes x.key pa n)
    match amoApply op dword old b c with
    | some v => (s.storeKeyed x.key pa (leBytes n v.toNat)).map fun t => (t, old)
    | none => some (s, old)
  | .remote _ _ => some (s, 0)

/-- An atomic of a sequencer: its line of the L1 goes too (R50). -/
def State.amoAt (s : State) (core asid : Nat) (x : Xl) (op : AmoOp) (dword : Bool) (b c : Word64) : Option (State × Word64) :=
  (s.l1Drop core (l1Key core asid x)).amoPlace core asid x op dword b c

/-! ## Engine fault records (R361, R362, R400) -/

/-- An interrupt, after the record it announces (R399). -/
def State.irq (s : State) (vec : Nat) : State := s.emit (.msix (vec % 2048))

def State.dvec (s : State) (die : Nat) : State := s.irq (s.getDie die).dvec.toNat

/-- The driver hears of a record once it has been written; of one at another module, once that is acknowledged (R399). -/
def State.dvecAfter (s : State) (die va : Nat) : State := if s.goesFar va then s else s.dvec die

/-- The operation under which a record goes to another module; irq: the driver hears of it once it has performed. -/
def recordOp (va : Nat) (irq : Bool) : Nat := va % 2 ^ 60 + (if irq then 2 ^ 60 else 0)

/-- An interrupt of a die follows a record: after a launch abort under R363. -/
def dvecOp (stops : Option Nat) : Nat := match stops with | some d => 2 ^ 61 * (d + 1) | none => 0

def State.dvecFor (s : State) (stops : Option Nat) : State := match stops with | some d => s.dvec d | none => s

/-- What stands in a fault area after a record: the first at 0x00 with the count behind it, or the count alone at 0x20 (R362). -/
def faultWrite (va before : Nat) (e : Efr) : Nat × List Byte :=
  if before = 0 then (va, e.bytes ++ leBytes 4 1) else (va + 0x20, leBytes 4 (before + 1))

/-- A record reaches a launch's fault area; the launch will complete FAILED; the driver hears of the first, and of the abort of a
launch that a die has made, once the record has been written (R362, R363, R399, R400). One that cannot be written is not
announced; the abort is. -/
def State.launchFault (s : State) (launch : Nat) (e : Efr) (stops : Option Nat) : State :=
  match Tbl.get? s.launches launch with
  | none => s
  | some l =>
    let s := s.setLaunch launch { l with faults := l.faults + 1 }
    if l.fault = 0 then s.dvecFor stops else
    let w := faultWrite l.fault.toNat l.faults e
    match s.postAs (launchWrites + launch, recordOp w.1 (l.faults = 0) + dvecOp stops) l.asid w.1 w.2 with
    | .ok u =>
      if u.goesFar w.1 then u
      else (if l.faults = 0 then u.dvec l.home else u).dvecFor stops
    | .error _ => s.dvecFor stops

/-- A record reaches a graph slot's fault area (R362, R399). -/
def State.slotFault (s : State) (die slot : Nat) (e : Efr) : State :=
  let d := s.getDie die
  let g := Tbl.getD d.slots slot GSlot.start
  let s := s.setDie die { d with slots := Tbl.set d.slots slot { g with faults := g.faults + 1 } }
  if g.gfault = 0 then s else
  let w := faultWrite g.gfault.toNat g.faults e
  match s.postAs (unitCore die slot, slotWrites + recordOp w.1 (g.faults = 0)) (natBits g.gcfg.toNat 0 6) w.1 w.2 with
  | .ok u => if g.faults = 0 && !u.goesFar w.1 then u.dvec die else u
  | .error _ => s

/-- A failed command's record goes to the launch fault area when the instance or its control sequencer has ended or the
queue is full, else to the core's engine fault queue (R362). -/
def State.engineFault (s : State) (core : Nat) (e : Efr) : State :=
  let c := s.getCore core
  if isUnit core then s.slotFault (coreDie core) (core % 64) { e with maj := 0, pc := 0, inst := 0 }
  else
  match c.inst with
  | none => s
  | some i =>
    if c.seqC.ended then s.launchFault i.launch e none
    else if c.efq.length ≥ 8 then (s.setCore core { c with spilled := true }).launchFault i.launch e none
    else s.setCore core { c with efq := c.efq ++ [e], engPend := true }

/-- The record of a failed operation. -/
def Op.efr (o : Op) (inst : Nat) (cause reason : Nat) (addr : Word64) (done : Nat) : Efr :=
  ⟨cause, reason, o.maj, o.seq, o.sub, o.ctr.isSome, o.ctr.getD 0, inst, o.pc, addr, done, o.group⟩

/-- The instance number of a core. -/
def Core.instId (c : Core) : Nat := match c.inst with | some i => i.inst | none => 0

/-- The job of a graph slot that a command of the graph unit belongs to has failed (R423). -/
def State.jobFails (s : State) (core op : Nat) : State :=
  if isUnit core then
    let d := s.getDie (coreDie core)
    s.setDie (coreDie core) { d with jobs := Tbl.mapVals d.jobs fun _ j =>
      if 2 ≤ j.eng && j.slot = core % 64 && decide (j.next ≤ op ∧ op < j.next + j.n) then { j with failed := true } else j }
  else s

/-- An operation fails: its record is written and it completes in its turn (R361). -/
def State.failOp (s : State) (core : Nat) (o : Op) (cause reason : Nat) (addr : Word64) (done : Nat) : State :=
  let s := s.jobFails core o.id
  let s := if cause = 12 then s.countSeen (if isUnit core then none else some core) (s.asidOf core) addr.toNat else s
  let s := s.engineFault core (o.efr (s.getCore core).instId cause reason addr done)
  s.setCore core ((s.getCore core).finishOp o.id)

/-- What a command needs of another module is asked for once: bytes, or with n = 0 the translation of their page (R43,
R235). -/
def State.askEng (s : State) (core : Nat) (o : Op) (m off n : Nat) : State :=
  let key := (m * 2 ^ 43 + off, n)
  if n = 0 then s.askPage (s.asidOf core) m off
  else if o.asked.contains key then s
  else
    let c := s.getCore core
    (s.setCore core (c.updOp o.id fun x => { x with asked := x.asked ++ [key] })).emit
      (.remoteRead m (s.asidOf core) core o.id off n o.sup)

/-- An operation fails as an access did; a pending remote answer fails nothing. -/
def State.failOpE (s : State) (core : Nat) (o : Op) (e : EFail) (done : Nat) : State :=
  match e with
  | .pend m off n => s.askEng core o m off n
  | .held => s
  | .fault c r a => s.failOp core o c.code.toNat r a done

/-- Granules of a pinned line turn full, by the line and the bytes written. -/
def Core.fillLine (c : Core) (at_ n : Nat) : Core :=
  match Tbl.get? c.pins (at_ / 128) with
  | none => c
  | some l =>
    if n = 0 then c else
    let o := at_ % 128
    let full := (List.range ((o + n - 1) / 16 - o / 16 + 1)).foldl (fun m i => setBit m (o / 16 + i) true) l.full
    { c with pins := Tbl.set c.pins (at_ / 128) { l with full := full } }

/-- The granules that a command with REL has written turn full at its end: those of the lines it wrote (R232, R263). -/
def Core.fillAll (c : Core) (id : Nat) : Core :=
  match c.findOp id with
  | some o => o.fills.foldl (fun c r => c.fillLine r.1 r.2) c
  | none => c

/-- An operation completes (R255). -/
def State.doneOp (s : State) (core id : Nat) : State := s.setCore core (((s.getCore core).fillAll id).finishOp id)

/-- The agent an operation's command accesses as (R46, R232). -/
def State.opAgent (s : State) (core : Nat) (o : Op) : Agent :=
  ⟨if isUnit core then none else some core, s.asidOf core, o.sup, some (core, o.id),
    (match o.rel with | some .seq => false | some _ => true | none => false)⟩

/-- Every write of the operation to another module has been acknowledged (R231). -/
def State.acked (s : State) (core id : Nat) : Bool :=
  match (s.getCore core).findOp id with | some o => o.out = 0 | none => true

end Sys2Proof.Machine
end

