-- ==== Sys2Proof/Machine/KvOps.lean ====
section
/-! DEFINITION. The KV unit's tables: roots, sequence block tables, second-stage entries, broadcasts (R117 to R123). The
bases are physical; BTBASE and ADDR are addresses of space KVAS (log entry 8). -/

namespace Sys2Proof.Machine

open Sys2Proof

/-- The sequence id of root r of this module (chapter 04). -/
def State.sidOf (s : State) (r : Nat) : Nat := (s.modId.toNat % 1024) * 2 ^ 15 + r

def sidRoot (sid : Nat) : Nat := sid % 2 ^ 15

def sidHome (sid : Nat) : Nat := natBits sid 15 10

/-- A sequence id's home is this module (R333). -/
def State.isHome (s : State) (sid : Nat) : Bool := sidHome sid = s.modId.toNat % 1024

/-- The module number of a 10-bit module field: the block is the module's own (R90). -/
def State.blockModule (s : State) (m : Nat) : Nat := s.modId.toNat / 1024 * 1024 + m

def State.getRoot (s : State) (r : Nat) : Option KvRoot := Tbl.get? s.roots r

/-- The root is LIVE. -/
def State.rootLive (s : State) (r : Nat) : Bool := match s.getRoot r with | some k => k.live | none => false

def State.kvSpace (s : State) (die : Nat) : Nat := natBits (s.getDie die).kvas.toNat 0 6

/-- The bytes of a root entry (R117 Table 4). -/
def KvRoot.bytes (k : KvRoot) : List Byte :=
  leBytes 8 k.btbase.toNat ++ leBytes 4 k.ntok ++ leBytes 4 k.nblk ++ leBytes 2 k.ref ++
    leBytes 1 ((if k.live then 1 else 0) + (if k.hold then 2 else 0)) ++ leBytes 1 k.shmod.length ++
    leBytes 4 k.epoch.toNat ++ leBytes 8 k.trowb ++ ((List.range 16).map fun i => leBytes 2 (k.shmod.getD i 0)).flatten ++
    ((List.range 16).map fun i => leBytes 4 (k.shtok.getD i 0)).flatten

/-- A root changes: the KV unit's copy and the entry in the table (R117). -/
def State.putRoot (s : State) (die r : Nat) (k : KvRoot) : State :=
  let s := { s with roots := Tbl.set s.roots r k }
  (s.storePhys ((s.getDie die).kvrootb.toNat + 128 * r) k.bytes).getD s

/-- The address of a second-stage entry, by the registers of the issuing core's die (R119; DESIGN CHOICE, log entry 70). -/
def State.sstAddr (s : State) (die gbn : Nat) : Nat := (s.getDie die).sstb.toNat + 16 * gbn

def State.sstEntry (s : State) (die gbn : Nat) : List Byte := s.physBytes (s.sstAddr die gbn) 16

def State.refcnt (s : State) (die gbn : Nat) : Nat := fld (s.sstEntry die gbn) 8 2

/-- REFCNT of a block of this module; at 0 the block returns to the pool: VALID clear (R119). The reserved bits of FLAGS are
written 0 (R5). -/
def State.setRefcnt (s : State) (die gbn n : Nat) : State :=
  let flags := if n = 0 then 0 else 1
  ((s.storePhys (s.sstAddr die gbn + 8) (leBytes 2 n)).bind fun t =>
    t.storePhys (t.sstAddr die gbn + 11) (leBytes 1 flags)).getD s

/-- Fields of a sequence block table entry (R118 Table 5). -/
def sbtValid (e : Nat) : Bool := natBits e 63 1 = 1

def sbtModule (e : Nat) : Nat := natBits e 51 10

def sbtGbn (e : Nat) : Nat := natBits e 0 28

def sbtMake (tier m gbn : Nat) : Nat := 2 ^ 63 + tier % 4 * 2 ^ 61 + m % 1024 * 2 ^ 51 + gbn % 2 ^ 28

/-- Nobody waits for an answer. -/
def nobody : Nat × Nat := (noCore, 0)

/-- One reference more or less on the block an entry names, for whom it may be that waits until it has been performed. -/
def State.blockRef (s : State) (who : Nat × Nat) (die e : Nat) (up : Bool) : State :=
  if !sbtValid e then s
  else if sbtModule e = s.modId.toNat % 1024 then
    let n := s.refcnt die (sbtGbn e)
    s.setRefcnt die (sbtGbn e) (if up then n + 1 else n - 1)
  else (s.emit (.kvRef (s.blockModule (sbtModule e)) who.1 who.2 (sbtGbn e) up)).countOut who

/-- The KV unit's accesses in the pool's space, at a level (R46, R119). -/
def kvAgent (s : State) (die : Nat) (sup : Bool) : Agent := ⟨none, s.kvSpace die, sup, none, false⟩

/-- The authoritative entry of logical block b (R118); 0 where it cannot be read (DESIGN CHOICE, log entry 70). -/
def State.sbtRead (s : State) (die : Nat) (k : KvRoot) (b : Nat) : Nat :=
  match s.vread (kvAgent s die true) none (k.btbase.toNat + 8 * b) 8 with
  | .ok bs => leNat bs
  | .error _ => 0

/-- An entry written to the table; where it cannot be written it is dropped (DESIGN CHOICE, log entry 70). -/
def State.sbtWrite (s : State) (die : Nat) (k : KvRoot) (b e : Nat) : State :=
  (s.vwrite (kvAgent s die true) (k.btbase.toNat + 8 * b) (leBytes 8 e)).1

def sbtKey (sid b : Nat) : Nat := sid * 2 ^ 20 + b

/-- Entries a module's SBT cache holds (R118). -/
def sbtSize : Nat := 65536

/-- The cache with room for an entry: of a full one another entry is evicted, by free choice (R118, log entry 12). -/
def State.sbtRoom (s : State) (key : Nat) : Tbl (Word64 × Word32 × Bool) :=
  let held := (s.sbt.filter fun e => e.2.2.2 && e.1 != key).map (·.1)
  if held.length < sbtSize then s.sbt
  else
    match held[s.freeBelow (key + 2 ^ 93) held.length]? with
    | some v => Tbl.mapVals s.sbt fun k e => if k = v then (e.1, e.2.1, false) else e
    | none => s.sbt

/-- A broadcast or fetch applied to this module's cache: only a larger EPOCH replaces an entry; one that has been evicted
comes back under its own (R122). -/
def State.sbtApply (s : State) (sid b : Nat) (e : Word64) (epoch : Word32) : State :=
  let key := sbtKey sid b
  let put := { s with sbt := Tbl.set (s.sbtRoom key) key (e, epoch, true) }
  match Tbl.get? s.sbt key with
  | some (_, old, held) => if old.toNat < epoch.toNat || (!held && old = epoch) then put else s
  | none => put

/-- An entry broadcast to a root's shard set: applied here, sent to the others, for whom it may be that waits until it has been
performed there (R121, R122). -/
def State.broadcast (s : State) (who : Nat × Nat) (sid : Nat) (k : KvRoot) (b : Nat) (e : Word64) (epoch : Word32) : State :=
  k.shmod.foldl (fun t m =>
    if m % 1024 = t.modId.toNat % 1024 then t
    else (t.emit (.remoteKv (t.blockModule (m % 1024)) who.1 who.2 (BitVec.ofNat 32 sid) b e epoch)).countOut who)
    (s.sbtApply sid b e epoch)

/-- A root whose LIVE is set, HOLD clear and REF 0 is freed; a later translation of it at its home gives UNMAPPED, never the
old location, which R123 would allow too (log entry 57): one reference dropped on every block, invalidation broadcast
with EPOCH + 1 (R117, R122). -/
def State.rootFree (s : State) (die r : Nat) : State :=
  match s.getRoot r with
  | none => s
  | some k =>
    if k.live && !k.hold && k.ref = 0 then
      let sid := s.sidOf r
      let nb := ceilDiv k.ntok 64
      let s := (List.range nb).foldl (fun t b =>
        let e := t.sbtRead die k b
        (t.blockRef nobody die e false).broadcast nobody sid k b 0 (k.epoch + 1)) s
      s.putRoot die r { k with live := false, epoch := k.epoch + 1 }
    else s

/-- A task reference on a KV root of this module taken (R86, R336). -/
def State.rootTake (s : State) (die r : Nat) : State :=
  match s.getRoot r with
  | some k => s.putRoot die r { k with ref := k.ref + 1 }
  | none => s

/-- A task reference dropped; the root may be freed (R86, R117). -/
def State.rootDrop (s : State) (die r : Nat) : State :=
  match s.getRoot r with
  | some k => (s.putRoot die r { k with ref := k.ref - 1 }).rootFree die r
  | none => s

end Sys2Proof.Machine
end

