-- ==== Sys2Proof/Machine/TreeOps.lean ====
section
/-! DEFINITION. The tree engine's operations: cairns, cancel groups, tasks and their reports, ropes (R70 to R106). -/

namespace Sys2Proof.Machine

open Sys2Proof

/-! ## Cairns (R89, R90) -/

def nodeModule (h : Word32) : Nat := natBits h.toNat 22 10

def nodeLocal (h : Word32) : Nat := natBits h.toNat 0 22

def nodeDie (h : Word32) : Nat := natBits h.toNat 20 2

def nodeRec (h : Word32) : Nat := natBits h.toNat 0 20

def nodeNull (h : Word32) : Bool := nodeLocal h = 0x3F_FFFF

/-- The node's module is this one. -/
def State.nodeHere (s : State) (h : Word32) : Bool := nodeModule h = s.modId.toNat % 1024

def State.nodeReachable (s : State) (h : Word32) : Bool :=
  s.nodeHere h || s.mgmt.reachable.contains (s.blockModule (nodeModule h))

/-- The physical address of a cairn of this module. -/
def nodeAddr (h : Word32) : Nat := nodeBase (nodeDie h) + 64 * nodeRec h

/-- A field of n bytes at offset o of a cairn of this module. -/
def State.nodeFld (s : State) (h : Word32) (o n : Nat) : Nat := leNat (s.physBytes (nodeAddr h + o) n)

def State.nodePut (s : State) (h : Word32) (o n v : Nat) : State :=
  (s.storePhys (nodeAddr h + o) (leBytes n v)).getD s

/-- The task reference count raised or dropped; on another module by message (R75, R78). -/
def State.tref (s : State) (h : Word32) (up : Bool) : State :=
  if nodeNull h then s
  else if s.nodeHere h then
    let n := s.nodeFld h 34 2
    s.nodePut h 34 2 (if up then n + 1 else n - 1)
  else if s.nodeReachable h then s.emit (.remoteTref (s.blockModule (nodeModule h)) up h 0 0)
  else s

/-! ## Cancel groups (R81 to R84) -/

def State.getGroup (s : State) (g : Nat) : Option Group := Tbl.get? s.groups g

/-- The group and every ancestor, at most 16 levels, are alive; a free group is not. -/
def aliveGo (s : State) (fuel g : Nat) : Bool :=
  match s.getGroup g with
  | none => false
  | some e =>
    e.alive && (g = 0 || match fuel with | 0 => true | f + 1 => aliveGo s f e.parent)

def State.alive (s : State) (g : Nat) : Bool := aliveGo s 16 g

/-- g is r or a descendant of r. -/
def underGo (s : State) (fuel g r : Nat) : Bool :=
  g = r || (g != 0 && match fuel with
    | 0 => false
    | f + 1 => match s.getGroup g with
      | some e => underGo s f e.parent r
      | none => false)

def State.under (s : State) (g r : Nat) : Bool := underGo s 16 g r

/-- Work under a group is measured: it counts for the group, and for the ropes whose decision cancelled the group or one
above it (R106). -/
def State.ropeWork (s : State) (g : Nat) (tokens clocks tasks : Nat) : State :=
  { s with groups := Tbl.mapVals s.groups fun n e =>
      let e := if n = g then { e with tokens := e.tokens + tokens, clocks := e.clocks + clocks, ctasks := e.ctasks + tasks } else e
      match e.rope with
      | some r =>
        if r.cancelledGroups.any fun c => s.under g c then
          { e with rope := some { r with
              ctokens := r.ctokens + BitVec.ofNat 64 tokens, cclocks := r.cclocks + BitVec.ofNat 64 clocks,
              ctasks := r.ctasks + BitVec.ofNat 64 tasks } }
        else e
      | none => e }

/-- The work measured so far under some groups and their descendants (R106). -/
def State.workUnder (s : State) (gs : List Nat) (f : Group → Nat) : Word64 :=
  BitVec.ofNat 64 ((s.groups.map fun e => if gs.any fun c => s.under e.1 c then f e.2 else 0).foldl (· + ·) 0)

/-- A group's CANCELLED or EXPIRED count (R81, R88). -/
def State.groupCount (s : State) (g : Nat) (expired : Bool) : State :=
  match s.getGroup g with
  | none => s
  | some e =>
    let e := if expired then { e with expired := BitVec.ofNat 32 (satU (e.expired.toNat + 1) 32) }
      else { e with cancelled := BitVec.ofNat 32 (satU (e.cancelled.toNat + 1) 32) }
    { s with groups := Tbl.set s.groups g e }

/-! ## Deadlines (R72) -/

/-- Deadline d, 0 for none, has passed at module time t. -/
def passed (t : Word64) (d : BitVec 48) : Bool :=
  d != 0 && decide (1 ≤ (t.setWidth 48 - d).toNat ∧ (t.setWidth 48 - d).toNat ≤ 2 ^ 47 - 1)

/-! ## Tasks (R70 to R80) -/

def State.getTask (s : State) (die slot : Nat) : Task := Tbl.getD (s.getDie die).tasks slot Task.start

def State.setTask (s : State) (die slot : Nat) (t : Task) : State :=
  s.setDie die { s.getDie die with tasks := Tbl.set (s.getDie die).tasks slot t }

def taskHandle (die slot : Nat) (gen : BitVec 12) : Word32 :=
  BitVec.ofNat 32 (die % 4 * 2 ^ 30 + slot % 2 ^ 18 * 2 ^ 12 + gen.toNat)

def handleDie (h : Word32) : Nat := natBits h.toNat 30 2

def handleSlot (h : Word32) : Nat := natBits h.toNat 12 18

/-- The task a handle names, if its generation is current and the slot is in use (R71). -/
def State.named (s : State) (h : Word32) : Option Task :=
  let t := s.getTask (handleDie h) (handleSlot h)
  if t.gen.toNat = natBits h.toNat 0 12 ∧ t.state ≠ .free then some t else none

/-- The next spawn sequence number of a die (R73). -/
def State.takeSeqno (s : State) (die : Nat) : State × BitVec 64 :=
  let d := s.getDie die
  (s.setDie die { d with seqno := d.seqno + 1 }, d.seqno)

/-- Module time has passed the value that an `idle` held at issue (R356). -/
def idlePassed (t till : Word64) : Bool := till != 0 && decide (till.toNat < t.toNat)

/-- Idle sequencers of a die's instances wake when a record enters its queue; where time has run out too, that row of the
table comes first (R356). -/
def wakeSeqr (t : Word64) (q : Seqr) : Seqr :=
  match q.sleep with
  | .idle till => { q with sleep := .idleDone (if idlePassed t till then 0 else 1) }
  | _ => q

def State.wakeDie (s : State) (die : Nat) : State :=
  { s with cores := Tbl.mapVals s.cores fun n c =>
      if coreDie n = die then
        { c with seqC := wakeSeqr s.time c.seqC, seqL := wakeSeqr s.time c.seqL, seqX := wakeSeqr s.time c.seqX, seqS := wakeSeqr s.time c.seqS }
      else c }

/-- How a task's end is reported. -/
inductive Report where
  | completed | cancelled | expired
  deriving DecidableEq, Repr

/-- A report that reaches a join target: the count falls; at zero the continuation is queued, or its own end is still to
be reported because its group is dead (R78 to R80). A stray report counts on the die that its handle names (DESIGN CHOICE,
log entry 51). Answers the state and the continuation that has ended. -/
def State.reportJoin (s : State) (join : Word32) (r : Report) : State × Option (Nat × Nat) :=
  if join = 0xFFFF_FFFF then (s, none) else
  let die := handleDie join
  let slot := handleSlot join
  match s.named join with
  | none => let d := s.getDie die; (s.setDie die { d with stray := d.stray + 1 }, none)
  | some t =>
    if t.state ≠ .waiting then let d := s.getDie die; (s.setDie die { d with stray := d.stray + 1 }, none)
    else
      let t := { t with
        count := t.count - 1,
        cancelled := if r = .cancelled then satU (t.cancelled + 1) 16 else t.cancelled,
        expired := if r = .expired then satU (t.expired + 1) 16 else t.expired }
      if t.count ≠ 0 then (s.setTask die slot t, none)
      else if s.alive t.group then
        let (s, n) := s.takeSeqno die
        ((s.setTask die slot { t with state := .queued, seqno := n }).wakeDie die, none)
      else (s.setTask die slot t, some (die, slot))

/-- A task ends: it reports to its join target, drops its cairn and KV root references, and its slot is freed with the
next generation; continuations that end in turn follow, with as much fuel as there can be of them (R78). -/
def endGo (s : State) (fuel die slot : Nat) (r : Report) : State :=
  let t := s.getTask die slot
  let s := match r with
    | .cancelled => (s.groupCount t.group false).ropeWork t.group 0 0 1
    | .expired => s.groupCount t.group true
    | .completed => s
  let s := s.setTask die slot { Task.start with gen := t.gen + 1 }
  let s := s.tref t.node false
  let kv := natBits t.kk.toNat 0 15
  let s := if kv = 0x7FFF then s else s.rootDrop die kv
  match s.reportJoin t.join r with
  | (s, none) => s
  | (s, some (d, sl)) => match fuel with | 0 => s | f + 1 => endGo s f d sl .cancelled

/-- The number of listed tasks of the module, which bounds a chain of continuations. -/
def State.taskCount (s : State) : Nat := (s.dies.map fun d => d.2.tasks.length).foldl (· + ·) 0

def State.endTask (s : State) (die slot : Nat) (r : Report) : State := endGo s s.taskCount die slot r

/-- How a task that was running or computed ends: COMPLETED while its group and all ancestors are alive (R78). -/
def State.liveReport (s : State) (g : Nat) : Report := if s.alive g then .completed else .cancelled

/-- A key for the order of FP32 priorities: greater number, greater key; -0 and +0 are equal (R73). -/
def priKey (p : Word32) : Int :=
  if p.getLsbD 31 then -((p &&& 0x7FFF_FFFF).toNat : Int) else (p.toNat : Int)

/-- a goes before b in queue order (R73). -/
def queueBefore (a b : Task) : Bool :=
  priKey b.pri < priKey a.pri || (priKey a.pri = priKey b.pri && a.seqno.toNat < b.seqno.toNat)

/-- The first of a list of (slot, task) in queue order. -/
def firstTask (l : List (Nat × Task)) : Option (Nat × Task) :=
  l.foldl (fun acc e => match acc with
    | none => some e
    | some a => if queueBefore e.2 a.2 then some e else some a) none

/-- The queued tasks of a die. -/
def State.queued (s : State) (die : Nat) : List (Nat × Task) :=
  (s.getDie die).tasks.filter fun e => e.2.state = .queued

/-- A record fails the check of R83. -/
def State.failsCheck (s : State) (t : Task) : Option Report :=
  if !s.alive t.group then some .cancelled else if passed s.time t.deadline then some .expired else none

def Task.isEval (t : Task) : Bool := t.kk.getLsbD 15

/-! ## Ropes (R102 to R106) -/

/-- The sibling groups of a rope that are allocated: group number and sibling number. -/
def State.sibs (s : State) (rope : Nat) : List (Nat × Nat) :=
  s.groups.filterMap fun e => if e.2.kind = .sib && e.2.parent = rope then some (e.1, e.2.sib) else none

def addOnce (l : List Nat) (n : Nat) : List Nat := if l.contains n then l else l ++ [n]

def effQuorum (r : Rope) : Nat := r.quorum

/-- The bytes of a rope result block (R106 Table 9). -/
def Rope.bytes (r : Rope) : List Byte :=
  leBytes 8 r.win.toNat ++ leBytes 4 r.status.toNat ++ leBytes 2 r.wincnt ++ leBytes 2 r.posts ++ leBytes 2 r.others ++
    leBytes 2 r.canc ++ leBytes 2 r.abst ++ [0, 0] ++ leBytes 8 r.dtime.toNat ++ leBytes 8 r.ctokens.toNat ++
    leBytes 8 r.cclocks.toNat ++ leBytes 8 r.ctasks.toNat ++ List.replicate 8 0

def State.setRope (s : State) (g : Nat) (r : Rope) : State :=
  match s.getGroup g with
  | some e => { s with groups := Tbl.set s.groups g { e with rope := some r } }
  | none => s

/-- A rope's block could not be written: the deciding instruction's launch hears of it (R422). -/
def State.ropeFails (s : State) (r : Rope) (cause reason : Nat) : State :=
  match r.decider with
  | some (l, maj, inst, pc) =>
    match Tbl.get? s.launches l with
    | some la => if la.done.isSome then s else
      s.launchFault l ⟨cause, reason, maj, .control, 0, false, 0, inst, pc, r.result, 0, 0⟩ none
    | none => s
  | none => s

/-- The result block written; a write that fails is reported to the deciding instruction's launch (R104, R422). -/
def State.ropeWrite (s : State) (g : Nat) (r : Rope) : State :=
  match s.postAs (ropeWrites, g) r.asid r.result.toNat r.bytes with
  | .ok t => t
  | .error e => s.ropeFails r e.codes.1 e.codes.2

/-- The best slot under PLURALITY: the largest count, the earliest arrival among equals (R105). -/
def bestSlot (l : List HashSlot) : Option HashSlot :=
  l.foldl (fun acc h => match acc with
    | none => some h
    | some a => if a.count < h.count then some h else some a) none

/-- A rope resolves without a decision when every sibling it can have has resolved (R105). -/
def State.ropeResolve (s : State) (g : Nat) (by_ : Option (Nat × Nat × Nat × PcWord)) : State :=
  match s.getGroup g with
  | some e =>
    match e.rope with
    | some r =>
      let dead := (s.sibs g).filterMap fun x => if s.alive x.1 then none else some x.2
      let r := { r with resolved := dead.foldl addOnce r.resolved }
      let full := r.made = r.size || !s.alive g
      if r.decided.isNone && !r.ended && full && decide (r.resolved.length ≥ r.made) then
        let best := match bestSlot r.slots with | some h => if r.plurality && 0 < h.count then some h else none | none => none
        let r := { r with
          ended := true, dtime := s.time, decider := by_,
          win := match best with | some h => h.hash | none => 0,
          wincnt := match best with | some h => h.count | none => 0,
          status := match best with | some _ => 2 | none => 4 }
        (s.setRope g r).ropeWrite g r
      else s.setRope g r
    | none => s
  | none => s

/-- A decided or ended rope whose sibling groups have all been freed writes its block again with SETTLED (R106). -/
def State.ropesSettle (s : State) : State :=
  (s.groups.filterMap fun e => if e.2.rope.isSome then some e.1 else none).foldl (fun t g =>
    match t.getGroup g with
    | some e =>
      match e.rope with
      | some r =>
        if (r.decided.isSome || r.ended) && !r.settled && (t.sibs g).isEmpty then
          let r := { r with settled := true, status := r.status ||| 8 }
          (t.setRope g r).ropeWrite g r
        else t
      | none => t
    | none => t) s

/-- Every rope looks at its siblings again (R105); one that ends with every sibling freed is settled (R106). -/
def State.ropesResolve (s : State) (by_ : Option (Nat × Nat × Nat × PcWord)) : State :=
  ((s.groups.filterMap fun e => if e.2.rope.isSome then some e.1 else none).foldl (fun t g => t.ropeResolve g by_) s).ropesSettle

/-- Group g marked dead in one operation (R82). -/
def State.killGroup (s : State) (g : Nat) : State :=
  if g = 0 then s else
  match s.getGroup g with
  | none => s
  | some e => { s with groups := Tbl.set s.groups g { e with alive := false } }

/-- The key slots bound to these groups or to their descendants are retired and lose their binding (R46, R86, R391); the
material goes once the accesses translated under it have performed. -/
def State.retireKeys (s : State) (gs : List Nat) : State :=
  { s with keys := Tbl.mapVals s.keys fun _ k =>
      match k.group with
      | some g => if gs.any fun r => s.under g r then { k with loaded := false, group := none } else k
      | none => k }

/-- A freed group leaves the pool's records: its measured work counts for its parent (R87, R106). -/
def State.dropGroup (s : State) (g : Nat) (e : Group) : State :=
  { s with groups := Tbl.mapVals (Tbl.erase s.groups g) fun n p =>
      let p := if n = e.parent then
          { p with tokens := p.tokens + e.tokens, clocks := p.clocks + e.clocks, ctasks := p.ctasks + e.ctasks } else p
      { p with rope := p.rope.map fun r => { r with cancelledGroups := r.cancelledGroups.filter fun c => c != g } } }

end Sys2Proof.Machine
end

