-- ==== Sys2Proof/Machine/LaunchOps.lean ====
section
/-! DEFINITION. How an instance gives up its core and how a launch ends: completion word, abort, failure (R20, R21, R25,
R101, R116, R363, R394). -/

namespace Sys2Proof.Machine

open Sys2Proof

/-- Completion codes (R394 Table 9). -/
inductive Code where
  | completed | expired | failed | aborted | badHeader | tilecap | lmcap | badPacket | limit | timeout | cancelled
  | badNode | badCtx
  deriving DecidableEq, Repr

def Code.num : Code → Nat
  | .completed => 1 | .expired => 2 | .failed => 3 | .aborted => 4 | .badHeader => 5 | .tilecap => 6 | .lmcap => 7
  | .badPacket => 8 | .limit => 9 | .timeout => 10 | .cancelled => 11 | .badNode => 12 | .badCtx => 13

/-- The 8-byte completion word (R394). -/
def completionWord (code : Nat) (late : Bool) (t : Word64) : List Byte :=
  leBytes 8 (code % 256 + (if late then 256 else 0) + t.toNat % 2 ^ 48 * 2 ^ 16)

/-- Operations that an abort ends because nothing else would: they wait on a host, another participant or an array. -/
def OpKind.dropped : OpKind → Bool
  | .mlease | .mloadb .. | .mmul .. | .mattn .. | .mdrainTile .. | .mdrainMem .. | .sample .. | .beam .. | .coll ..
  | .repart .. | .hring .. | .probe .. => true
  | _ => false

/-- A core leaves its cluster's arbitration and table (R34 to R36). -/
def State.leaveCluster (s : State) (core : Nat) : State :=
  let k := coreCluster core
  let cl := s.getCluster k
  s.setCluster k { cl with
    holder := if cl.holder = some core then none else cl.holder,
    freed := cl.freed && decide (cl.holder ≠ some core),
    cmds := if cl.holder = some core then 0 else cl.cmds,
    clocks := if cl.holder = some core then 0 else cl.clocks,
    waiting := cl.waiting.filter fun w => w.1 != core,
    table := cl.table.filter fun e => e.1 != core,
    onS := match cl.onS with | some t => if t.core = core then none else some t | none => none,
    onV := match cl.onV with | some t => if t.core = core then none else some t | none => none }

def Seqr.stop (q : Seqr) : Seqr := { q with ended := true, sleep := .none }

/-- The current task of an instance ends CANCELLED (R78). -/
def State.endCurTask (s : State) (core : Nat) : State :=
  match (s.getCore core).inst with
  | some i =>
    match i.curTask with
    | some h =>
      let s := match s.named h with
        | some t => if t.state = TaskState.running core then s.endTask (handleDie h) (handleSlot h) .cancelled else s
        | none => s
      s.setCore core { s.getCore core with inst := some { i with curTask := none } }
    | none => s
  | none => s

/-- An instance stops at an instruction boundary for good (R25): its sequencers end, its waiting commands are dropped. -/
def State.abortCore (s : State) (core : Nat) : State :=
  let s := s.endCurTask core
  let s := s.leaveCluster core
  let c := s.getCore core
  s.setCore core ({ c with
    seqC := c.seqC.stop, seqL := c.seqL.stop, seqX := c.seqX.stop, seqS := c.seqS.stop, leased := false, chain := none,
    ops := c.ops.filter fun o => !o.kind.dropped }).retire

/-- What stays in a core when its instance leaves: its caches (R51, R56). -/
def Core.vacate (c : Core) : Core :=
  { Core.idle with
    lm := c.lm, l1 := c.l1, icache := c.icache, wbs := c.wbs, wbq := c.wbq, sent := c.sent, nextOp := c.nextOp,
    bad := c.bad.filter fun b => match b with | .pin .. => false | .row _ => false | _ => true }

/-- The current task of a saved instance whose launch ends for good ends CANCELLED (R78). -/
def State.endSaved (s : State) (m : Image) : State :=
  match (m.core.bind (·.inst)).bind (·.curTask) with
  | some h =>
    match s.named h with
    | some t => match t.state with | .running _ => s.endTask (handleDie h) (handleSlot h) .cancelled | _ => s
    | none => s
  | none => s

/-- A part's record of a launch changed. -/
def Launch.updPart (l : Launch) (p : Nat) (f : Part → Part) : Launch :=
  { l with parts := l.parts.set p (f (l.parts.getD p ⟨0, 0, .pending, false, [], 0⟩)) }

/-- A launch's EVT could not be written (R422). -/
def State.evtFails (s : State) (id : Nat) (l : Launch) (cause reason : Nat) : State :=
  s.launchFault id ⟨cause, reason, 0, .control, 0, false, 0, 0, 0, l.evt, 0, l.group⟩ none

/-- The word at a launch's EVT (R394). -/
def State.launchWord (s : State) (id : Nat) (l : Launch) (code : Nat) (late : Bool) : State :=
  if l.evt = 0 || l.evt.toNat % 8 ≠ 0 then s
  else
    match s.postAs (launchWrites + id, recordOp l.evt.toNat l.irq) l.asid l.evt.toNat (completionWord code late s.time) with
    | .ok t => t
    | .error e => s.evtFails id l e.codes.1 e.codes.2

/-- A launch reports its status: a part forwarded from another module to that module; else the word at EVT, rows of an
evaluation launch, its shape area, the driver (R21, R101, R116, R394, R399). LATE stands in the word beside every code
(DESIGN CHOICE, log entry 67). -/
def State.completeLaunch (s : State) (id code : Nat) : State :=
  match Tbl.get? s.launches id with
  | none => s
  | some l =>
    if l.done.isSome then s else
    let code := if code = 1 ∧ 0 < l.faults then 3 else code
    let s := s.setLaunch id { l with done := some code }
    let late := l.parts.any fun p => p.late
    let far := match l.origin with | .remote .. => true | _ => false
    if far then s.emit (.remoteAnswer (code = 1) (leBytes 8 (code + (if late then 2 ^ 16 else 0)))) else
    let s := s.launchWord id l code late
    let s := match l.origin with
      | .former die _ _ rows =>
        let s := rows.foldl (fun t slot =>
          if (t.getTask die slot).state = TaskState.row id then
            t.endTask die slot (if code = 1 then .completed else .cancelled)
          else t) s
        let d := s.getDie die
        s.setDie die { d with areas := Tbl.keep d.areas fun _ v => v != id }
      | _ => s
    if l.irq then s.dvecAfter l.home (if l.evt = 0 then 0 else l.evt.toNat) else s

/-- A die-slot's part is over. -/
def Part.isOver (p : Part) : Bool := decide (p.stage = .ended) || decide (p.stage = .discarded)

/-- A launch whose die-slots have all ended completes (R20, R25). -/
def State.launchCheck (s : State) (id : Nat) : State :=
  match Tbl.get? s.launches id with
  | none => s
  | some l =>
    if l.parts.all Part.isOver then s.completeLaunch id (l.abort.getD 1) else s

/-- What an abort leaves of a part: one that runs here ends as its instances do, one of another module as that module tells
(R25). -/
def Part.aborted (p : Part) (module : Nat) : Part :=
  if p.module != module || decide (p.stage = .running) || p.isOver then p else { p with stage := .discarded, cores := [] }

/-- A launch stops everywhere with a code: parts not started are discarded, started ones stop at the next instruction
boundary, a suspended one loses its image; it reports once every part has stopped (R25, R363, R395). -/
def State.abortLaunch (s : State) (id code : Nat) : State :=
  match Tbl.get? s.launches id with
  | none => s
  | some l =>
    if l.done.isSome then s else
    let relay := match l.origin with | .remote .. => true | _ => false
    let s := l.parts.foldl (fun t p =>
      if p.module != s.modId.toNat then
        if l.abort.isSome || (p.isOver && !relay) then t else t.emit (.remoteAbort p.module p.die id code)
      else if p.stage = Stage.running then p.cores.foldl (fun t c => t.abortCore c.1) t
      else t) s
    let l' := match Tbl.get? s.launches id with | some l' => l' | none => l
    let s := s.setLaunch id { l' with
      parts := l.parts.map fun p => p.aborted s.modId.toNat, abort := some (l'.abort.getD code), suspendedInsts := [] }
    let s := (s.images.filter fun i => i.launch = id).foldl (fun t i => t.endSaved i) s
    let s := { s with images := s.images.filter fun i => i.launch != id }
    s.launchCheck id

/-- An instance whose sequencers have ended and whose operations have completed frees its core (R20, R78, R87). -/
def State.endInstance (s : State) (core : Nat) : State :=
  let s := (s.endCurTask core).leaveCluster core
  let c := s.getCore core
  match c.inst with
  | none => s
  | some i =>
    let s := s.setCore core c.vacate
    match Tbl.get? s.launches i.launch with
    | none => s
    | some l =>
      let l := l.updPart i.part fun p =>
        let cores := p.cores.filter fun e => e.1 != core
        { p with cores := cores, stage :=
            if cores.isEmpty && !(s.images.any fun m => m.launch = i.launch && m.part = i.part) then Stage.ended else p.stage }
      (s.setLaunch i.launch l).launchCheck i.launch

/-- An instance at its end writes back what LM holds, and leaves once that has performed everywhere: its launch's completion
is a release at .sys (R20, R144). -/
def State.leaveCore (s : State) (core : Nat) : State :=
  let t := s.lmRelease core
  if (t.getCore core).released && (t.getCore core).sent.isEmpty then t.endInstance core else t

/-- A request of an instruction that waits at issue; it is no asynchronous operation. -/
def OpKind.isProbe : OpKind → Bool | .probe _ => true | _ => false

/-- An instance has ended in the sense of R20. -/
def Core.isOver (c : Core) : Bool :=
  c.inst.isSome && c.seqC.ended && c.seqL.ended && c.seqX.ended && c.seqS.ended && c.ops.all fun o => o.done || o.kind.isProbe

end Sys2Proof.Machine
end

