-- ==== Sys2Proof/Machine/Ops.lean ====
section
/-! DEFINITION. Taking a trap and returning from one, and how every instruction issues: its checks, its waits, its guard,
its tokens (R28 to R31, R200, R201, R237, R359, R360, R363). -/

namespace Sys2Proof.Machine

open Sys2Proof

/-! ## Taking a trap (R357 to R360) -/

/-- CAUSE and REASON of a failure after issue. -/
def Late.codes : Late → Cause × Nat
  | .uncorr => (.uncorr, 0)
  | .page r => (.page, r)
  | .perm => (.perm, 0)

def lateOf (w : Cause × Nat) : Late :=
  match w.1 with
  | .perm => .perm
  | .page => .page w.2
  | _ => .uncorr

/-- Answers of other modules that an instruction of sequencer q waited for at issue are not kept for the next one, but for
requests that changed something there, whose numbers lie above every address: the instruction finds them when it is
executed again. -/
def Core.dropProbes (c : Core) (q : SeqId) : Core :=
  { c with ops := c.ops.filter fun o => !(o.seq = q && (match o.kind with | .probe a => a.toNat < 2 ^ 60 | _ => false)) }

/-- Trap entry on a sequencer that may take one (R360). TIMER clears TIMEN (R359). -/
def Seqr.enter (q : Seqr) (t : TrapInfo) : Seqr :=
  { q with
    trapCause := t.cause.code, trapAsync := t.cause.async, wdone := t.wdone, sdone := t.sdone,
    trapVal := t.val, trapPc := t.pc, trapMask := t.mask,
    psup := q.sup, sup := true, intrap := true, pc := q.tvec,
    timen := if t.cause = .timer then false else q.timen, afterEret := false, sleep := .none, waitsOn := .none, partTrap := none }

/-- Return from a trap (R360). -/
def Seqr.leave (q : Seqr) : Seqr := { q with sup := q.psup, intrap := false, pc := q.trapPc, afterEret := true }

/-- A sequencer takes a trap; under INTRAP or with TVEC = 0 the launch is aborted FAILED instead, with a record in its
fault area, and the driver is interrupted (R360, R363). -/
def State.takeTrap (s : State) (core : Nat) (q : SeqId) (t : TrapInfo) : State :=
  let c := s.getCore core
  let r := c.seqr q
  if r.intrap || r.tvec = 0 then
    match c.inst with
    | none => s
    | some i =>
      let e : Efr := ⟨t.cause.code.toNat, 0, 0, q, 0, false, 0, i.inst, t.pc, t.val, 0, i.group⟩
      (s.launchFault i.launch e (some (coreDie core))).abortLaunch i.launch 3
  else s.setCore core ((c.dropProbes q).setSeqr q (r.enter t))

/-- Return from a trap by the sequencer that runs (R360). -/
def State.leaveTrap (s : State) : State := s.setSq s.sq.leave

/-! ## Issue -/

/-- What the body of an instruction answers. -/
inductive Res where
  /-- it has issued; signals follow -/
  | done (s : State)
  /-- it does not issue yet -/
  | wait
  /-- it does not issue, for want of what is named -/
  | waitOn (w : Waiting)
  /-- it does not issue and sleeps -/
  | sleep (sl : Sleep)
  /-- it has issued; its signals follow when the copies of its bivouac end (R264) -/
  | later (s : State)
  /-- a cause before issue -/
  | trap (c : Cause) (v : Word64)
  /-- a cause before issue, and the machine changes so -/
  | trapBy (g : State → State) (c : Cause) (v : Word64)
  /-- stopped part-way: the operation taken in for what precedes the fault, and its elements (R47, R285) -/
  | part (s : State) (op : Nat) (m : Pred) (c : Cause) (v : Word64)
  /-- issued and retired, then a cause at the next instruction: SOFT (R353) -/
  | after (s : State) (c : Cause) (v : Word64)
  /-- it does not issue, and the machine changes so -/
  | hold (g : State → State)

/-- What is common to every instruction's issue. -/
structure Form where
  h : Hdr
  /-- an extension word follows -/
  two : Bool
  /-- sequencers that may execute it (R206) -/
  seqs : List SeqId
  /-- of majors 0x22 to 0x26 (R201) -/
  matrix : Bool := false
  /-- tiles it names (R19) -/
  tiles : List Nat := []
  /-- a cause its entry raises at decode beside R201 (R343) -/
  early : Option (Cause × Word64) := none
  /-- x and p registers it reads or writes (R237) -/
  xs : List XReg := []
  ps : List PReg := []
  /-- tile rows it reads and writes (R31) -/
  rr : List Nat := []
  rw : List Nat := []
  /-- further token units of tkw and tks (R253) -/
  wB : Nat := 0
  wA : Nat := 0
  sB : Nat := 0
  sA : Nat := 0
  /-- tests bit 0 of its guard (R200) -/
  guarded : Bool := true
  /-- retires only after its sequencer's scratch accesses (R229) -/
  drains : Bool := false
  /-- a stopping point for pre-emption (R355) -/
  stops : Bool := false
  deriving DecidableEq, Repr

/-- The sequencers that may execute a subcode of a major (R206 Table 3). -/
def permitted (maj sub : Nat) : List SeqId :=
  match maj with
  | 0x0F => [.load, .exec, .store]
  | 0x14 => [.load, .store]
  | 0x21 => [.load, .exec]
  | 0x26 => if sub = 0 then [.exec, .store] else [.exec]
  | 0x27 | 0x28 => [.control, .load]
  | 0x29 | 0x2A | 0x2B | 0x2D | 0x2F => [.control]
  | 0x2C => if sub ≤ 4 then [.control, .load] else [.control]
  | 0x0B | 0x16 | 0x17 | 0x18 | 0x19 | 0x1A | 0x1B | 0x1C | 0x1D | 0x1E | 0x1F | 0x20 | 0x22 | 0x23 | 0x24 | 0x25 => [.exec]
  | _ => [.control, .load, .exec, .store]

/-- The guard's 256 bits (R200). -/
def State.guard (s : State) (h : Hdr) : Pred := if h.gn then ~~~ s.getP h.g else s.getP h.g

/-- G0 (R237). -/
def State.g0 (s : State) (h : Hdr) : Bool := (s.guard h).getLsbD 0

def bn (b : Bool) : Nat := if b then 1 else 0

/-- Token units waited for and signalled, before and after (R28, R199, R253). -/
def Form.waitB (f : Form) : Nat := bn f.h.t0.wb + bn f.h.t1.wb + f.wB
def Form.waitA (f : Form) : Nat := bn f.h.t0.wa + bn f.h.t1.wa + f.wA
def Form.sigB (f : Form) : Nat := bn f.h.t0.sb + bn f.h.t1.sb + f.sB
def Form.sigA (f : Form) : Nat := bn f.h.t0.sa + bn f.h.t1.sa + f.sA

/-- The instruction at PC is the first after eret and lies at TRAPPC (R360). -/
def Seqr.replays (q : Seqr) : Bool := q.afterEret && q.pc = q.trapPc

/-- It makes no token wait (R359). -/
def Seqr.noWait (q : Seqr) : Bool := q.replays && q.wdone

/-- It performs no token signal (R359). -/
def Seqr.noSignal (q : Seqr) : Bool := q.replays && q.sdone

/-- The elements a replay skips (R47, R285). -/
def Seqr.replayMask (q : Seqr) : Pred := if q.replays then q.trapMask else 0

/-- A sequencer that runs: its core holds an instance and it has not ended (R20). -/
def State.running (s : State) : Bool := s.inst.isSome && !s.sq.ended

/-- Tiles the instance may name: NTILE (R19). -/
def State.ntile (s : State) : Nat := match s.inst with | some i => i.ntile | none => 0

/-- A row whose parity is wrong, and which no accepted operation is about to write (R412). -/
def Core.badRow (c : Core) (r : Nat) : Bool := c.bad.contains (.row r) && !c.rowPendW r

/-- The first check of R201 that fails, after fetch and decoding: sequencer, MATRIX, tiles, the entry's own; then a source
row with a parity error (R412; log entry 50). -/
def State.early (s : State) (f : Form) : Option (Cause × Word64) :=
  if !f.seqs.contains s.seq then some (.illegal, 0)
  else if f.matrix && !(match s.inst with | some i => i.flags.getLsbD 2 | none => false) then some (.illegal, 0)
  else match f.tiles.find? fun t => decide (s.ntile ≤ t) with
  | some t => some (.tilecap, BitVec.ofNat 64 t)
  | none =>
    match f.early with
    | some e => some e
    | none => if f.rr.any fun r => s.cur.badRow r then some (.uncorr, 0) else none

/-- A sequencer's own access, not a command of an engine. -/
def OpKind.isAccess : OpKind → Bool
  | .load .. | .store .. | .ldt .. | .stt .. | .amo .. | .vamo .. | .bexp .. => true
  | _ => false

/-- The access writes. -/
def OpKind.writes : OpKind → Bool
  | .store .. | .stt .. | .amo .. | .vamo .. | .bexp .. => true
  | _ => false

/-- Some part of an access lies in the scratch window. -/
def Op.inScratch (o : Op) : Bool := o.via.any fun v => match v.2.2.place with | .scratch _ => true | _ => false

/-- A scratch-window access of a sequencer has not performed (R229). -/
def Core.scratchPending (c : Core) (q : SeqId) : Bool :=
  c.ops.any fun o => o.seq = q && !o.done && o.kind.isAccess && o.inScratch

/-- A store or atomic of a sequencer to the scratch window has not performed (R231, R264, R265). -/
def Core.scratchStorePending (c : Core) (q : SeqId) : Bool :=
  c.ops.any fun o => o.seq = q && !o.done && o.kind.writes && o.inScratch

/-- Token waits are satisfied and signals fit (R28, R29). -/
def State.tokensOk (s : State) (f : Form) : Bool :=
  let c := s.cur
  let prev := c.edge s.seq.prev
  let next := c.edge s.seq
  let q := s.sq
  (q.noWait || (decide (f.waitB ≤ prev.fwd) && decide (f.waitA ≤ next.bwd))) &&
    (q.noSignal || (((c.seqr s.seq.prev).ended || decide (prev.bwd + f.sigB ≤ 255)) &&
      ((c.seqr s.seq.next).ended || decide (next.fwd + f.sigA ≤ 255)))) &&
    (!((f.drains && (!f.guarded || s.g0 f.h)) || decide (0 < f.sigA + f.sigB)) || !c.scratchPending s.seq)

/-- No operand or destination has a pending writer and no interlock holds the rows (R31, R237). -/
def State.operandsOk (s : State) (f : Form) : Bool :=
  let c := s.cur
  !(c.pendP s.seq f.h.g) && f.xs.all (fun r => !c.pendX s.seq r) && f.ps.all (fun r => !c.pendP s.seq r) &&
    f.rr.all (fun r => !c.rowPendW r) && f.rw.all (fun r => !c.rowPendR r)

/-- The control sequencer issues nothing while the copies of its spbeg run (R264). -/
def State.copiesOver (s : State) : Bool := !(s.seq = .control && s.cur.biv.copying)

/-- Every wait of R31 that is not the instruction's own is over. -/
def State.ready (s : State) (f : Form) : Bool := s.tokensOk f && s.operandsOk f && s.copiesOver

/-- The next instruction's address (R199). -/
def Form.nextPc (f : Form) (pc : PcWord) : PcWord := pc + (if f.two then 2 else 1)

/-- The address of the instruction whose body runs: PC stands at the next one (R199). -/
def State.pcOf (s : State) (f : Form) : PcWord := s.sq.pc - (if f.two then 2 else 1)

/-- Tokens are consumed, PC stands at the next instruction, and what applied to the first instruction after eret is
cleared (R28, R360). -/
def State.begin (s : State) (f : Form) : State :=
  let c := s.cur
  let q := s.sq
  let c := if q.noWait then c else
    let c := c.setEdge s.seq.prev { c.edge s.seq.prev with fwd := (c.edge s.seq.prev).fwd - f.waitB }
    c.setEdge s.seq { c.edge s.seq with bwd := (c.edge s.seq).bwd - f.waitA }
  let q := { q with
    pc := f.nextPc q.pc, afterEret := false, sleep := .none, waitsOn := .none,
    wdone := if q.afterEret then false else q.wdone,
    sdone := if q.afterEret then false else q.sdone,
    trapMask := if q.afterEret then 0 else q.trapMask }
  s.setCur (c.setSeqr s.seq q)

/-- Signals of sequencer q take effect; those to a sequencer that has ended are discarded (R20, R29). -/
def Core.signalled (c : Core) (q : SeqId) (b a : Nat) : Core :=
  let c := if (c.seqr q.prev).ended then c else c.setEdge q.prev { c.edge q.prev with bwd := (c.edge q.prev).bwd + b }
  if (c.seqr q.next).ended then c else c.setEdge q { c.edge q with fwd := (c.edge q).fwd + a }

def State.signal (s : State) (f : Form) : State := s.setCur (s.cur.signalled s.seq f.sigB f.sigA)

/-- Signals that wait for the copies of the bivouac (R264). -/
def State.deferSignal (s : State) (f : Form) : State :=
  s.setCur { s.cur with biv := { s.cur.biv with sigB := f.sigB, sigA := f.sigA } }

/-- A cause before issue: WDONE and SDONE are cleared; an instruction that has stopped part-way keeps its elements, and its
waits stay made (R359; log entry 9). -/
def State.trapHere (s : State) (c : Cause) (v : Word64) : State :=
  let m := s.sq.replayMask
  if m = 0 then s.takeTrap s.core s.seq ⟨c, v, s.sq.pc, 0, false, false⟩
  else s.takeTrap s.core s.seq ⟨c, v, s.sq.pc, m, true, s.sq.noSignal⟩

/-- A pre-emption of the instance is pending (R355). -/
def State.preempting (s : State) : Bool := match s.inst with | some i => i.preempt.isSome | none => false

/-- An uncorrectable error that an access at this address has met at issue is counted (R69, R413). -/
def State.countTrap (s : State) (c : Cause) (v : Word64) : State :=
  if c = .uncorr then s.countSeen (some s.core) s.asid v.toNat else s

/-- The outcome of a body's answer for an instruction that began at state s. -/
def State.settle (s : State) (f : Form) (r : Res) : Host.Outcome State Fault Refusal :=
  match r with
  | .done t => .next (if s.sq.noSignal then t else t.signal f)
  | .wait => .next s
  | .waitOn w => .next (s.setSq { s.sq with waitsOn := w })
  | .hold g => .next (g s)
  | .sleep sl => .next ({ s with waiters := if s.waiters.contains (s.core, s.seq) then s.waiters else s.waiters ++ [(s.core, s.seq)] }.setSq
      { s.sq with sleep := sl })
  | .later t => .next (if s.sq.noSignal then t else t.deferSignal f)
  | .trap c v => .next ((s.countTrap c v).trapHere c v)
  | .trapBy g c v => .next ((g s).trapHere c v)
  | .part t op m c v =>
    let t := t.countTrap c v
    .next (t.setSq { t.sq with partTrap := some (op, ⟨c, v, s.sq.pc, m ||| s.sq.replayMask, true, s.sq.noSignal⟩) })
  | .after t c v =>
    let t := if s.sq.noSignal then t else t.signal f
    .next (t.takeTrap s.core s.seq ⟨c, v, t.sq.pc, 0, false, false⟩)

/-- A parity error that an instruction has met in a row is counted, under its unit and under the bank of four tiles (R412,
R413). -/
def State.countRowAt (s : State) (r : Nat) : State :=
  let k := 8 * s.die + r / 64
  { s with mgmt := { s.mgmt with parity := Tbl.set s.mgmt.parity k (Tbl.getD s.mgmt.parity k 0 + 1) } }.countUe (32 * s.die + 6) 0

/-- The same for the source rows of a form. -/
def State.countRow (s : State) (f : Form) (c : Cause) : State :=
  if c != .uncorr then s else
  match f.rr.find? fun r => s.cur.badRow r with
  | some r => s.countRowAt r
  | none => s

/-- Issue of an instruction: the checks of R201, the waits, then the body, or its false-guarded effect. -/
def State.issueWith (s : State) (f : Form) (onFalse : State → Res) (body : Pred → State → Res) :
    Host.Outcome State Fault Refusal :=
  if !s.running then .fault .notRunning else
  match s.early f with
  | some (c, v) => .next ((s.countRow f c).trapHere c v)
  | none =>
    if f.stops && s.preempting && s.g0 f.h then .next (s.setSq { s.sq with stopped := true })
    else if !s.ready f then .next s
    else if f.guarded && !s.g0 f.h then s.settle f (onFalse (s.begin f))
    else s.settle f (body s.sq.replayMask (s.begin f))

/-- An instruction whose false guard leaves only its token bits. -/
def State.issue (s : State) (f : Form) (body : State → Res) : Host.Outcome State Fault Refusal :=
  s.issueWith f (fun t => .done t) (fun _ t => body t)

/-! ## Asynchronous operations (R255, R210) -/

/-- Counter k of the running sequencer can take one more (R210). -/
def State.ctrRoom (s : State) (k : Ctr) : Bool :=
  match k with
  | none => true
  | some k => decide (s.cur.ctr s.seq k.toNat < 255)

/-- The group a command carries: the current task's, else the launch's (R84). -/
def State.cmdGroup (s : State) : Nat :=
  match s.inst with
  | some i =>
    match i.curTask with
    | some h => match s.named h with | some t => t.group | none => i.group
    | none => i.group
  | none => 0

/-- An operation taken in by the running sequencer; it is done at once where done holds. -/
def State.putOp (s : State) (f : Form) (maj sub : Nat) (k : Ctr) (acq rel : OScope) (kind : OpKind)
    (via : List (Nat × Nat × Xl)) (done : Bool) : State :=
  let c := s.cur
  let o : Op := ⟨c.nextOp, s.seq, k.map (·.toNat), s.pcOf f, maj, sub, s.cmdGroup, s.sq.sup, acq, rel, kind, 0, done, none, [], 0, [], via, none⟩
  s.setCur ({ c with ops := c.ops ++ [o], nextOp := c.nextOp + 1 }).retire

/-- A command taken in. -/
def State.addOp (s : State) (f : Form) (maj sub : Nat) (k : Ctr) (acq rel : OScope) (kind : OpKind) (done : Bool) : State :=
  s.putOp f maj sub k acq rel kind [] done

/-- An asynchronous instruction: it stalls while its counter is full; a false guard takes its place on the counter with no
other effect (R200, R210, R255). -/
def State.issueAsync (s : State) (f : Form) (maj sub : Nat) (k : Ctr) (body : Pred → State → Res) :
    Host.Outcome State Fault Refusal :=
  s.issueWith f
    (fun t => if t.ctrRoom k then .done (t.addOp f maj sub k none none .null true) else .wait)
    (fun m t => if t.ctrRoom k then body m t else .wait)

/-- A stop of an access as a body's answer. -/
def Stop.res : Stop → Res
  | .trap c v => .trap c v
  | .wait => .wait
  | .ask asid m off => .hold fun t => t.askPage asid m off

end Sys2Proof.Machine
end

