-- ==== Sys2Proof/Machine/Flags.lean ====
section
/-! DEFINITION. Conditions, and where the events of a computation are kept: the sequencer's sticky bits, a tile's status,
a bank's status (R195, R207, R242). -/

namespace Sys2Proof.Machine

open Sys2Proof

/-- The integer conditions (R207 Table 4). -/
def icond (c : ICond) (a b : Word64) : Bool :=
  match c with
  | .eq => a == b
  | .ne => a != b
  | .lt => a.slt b
  | .ge => !a.slt b
  | .ltu => a.ult b
  | .geu => !a.ult b
  | .le => !b.slt a
  | .gt => b.slt a
  | .leu => !b.ult a
  | .gtu => b.ult a

/-- Events of a scalar floating-point instruction (R195): OVF SAT INV INX are STATUS [3:0]. -/
def State.scalarEv (s : State) (e : Ev) : State := s.orSticky (e.setWidth 5)

/-- Status of tile t (R195). -/
def Core.tileStatus (c : Core) (t : Nat) : BitVec 4 := Tbl.getD c.tstat t 0

/-- Events of a tile-row instruction that writes tile t (R195). -/
def State.tileEv (s : State) (t : Nat) (e : Ev) : State :=
  if e = 0 then s else
  let c := s.cur
  s.setCur { c with tstat := Tbl.set c.tstat t (c.tileStatus t ||| e) }

/-- A compare writes its result into every bit of pD and the complement into p(D xor 1) (R207, R242). -/
def State.setPair (s : State) (d : PReg) (b : Bool) : State := (s.setFlag d b).setFlag (d ^^^ 1) (!b)

end Sys2Proof.Machine
end

