-- ==== Sys2Proof/Machine/Operands.lean ====
section
/-! DEFINITION. Operand forms: immediates, tile operands at their four levels, rows, branch targets (R202 to R205, R237). -/

namespace Sys2Proof.Machine

open Sys2Proof

/-- ExtImm28 (R202). -/
def immB (imm : BitVec 28) : Word64 := imm.signExtend 64

/-- FpImm (R202): an FP32 pattern whose low four bits are zero. -/
def fpImm (imm : BitVec 28) : Nat := imm.toNat * 16

/-- The low 32 bits of a register (R177). -/
def lo32 (v : Word64) : Nat := v.toNat % 2 ^ 32

/-- A 64-bit word from a number. -/
def w64 (n : Nat) : Word64 := BitVec.ofNat 64 n

/-- The target of an offset of w bits from W0's address (R202). -/
def branchTarget {w : Nat} (pc : PcWord) (off : BitVec w) : PcWord := pc + off.signExtend 54

/-- Form of a scalar register instruction. -/
def scalar (h : Hdr) (two : Bool) (maj sub : Nat) (xs : List XReg) (ps : List PReg) : Form :=
  { h := h, two := two, seqs := permitted maj sub, xs := xs, ps := ps }

/-! ## Tile rows (R203 to R205) -/

/-- Row r of tile t. -/
def Core.row (c : Core) (t r : Nat) : Row := Tbl.getD c.tiles (16 * t + r) 0

/-- A row written; what it held in error is gone (R412; log entry 50). -/
def Core.setRow (c : Core) (t r : Nat) (v : Row) : Core :=
  { c with tiles := Tbl.set c.tiles (16 * t + r) v, bad := c.bad.filter fun b => b != .row (16 * t + r) }

/-- Rows of a tile replaced from row r on. -/
def Core.setRows (c : Core) (t r : Nat) (vs : List Row) : Core :=
  match vs with
  | [] => c
  | v :: rest => Core.setRows (c.setRow t r v) t (r + 1) rest

/-- The tile a tile operand names, and the row it is, for the TILECAP check and the interlocks. -/
def tileOf : TileOp → List Nat
  | .tile t _ => [t.toNat]
  | _ => []

def rowOf : TileOp → List Nat
  | .tile t r => [16 * t.toNat + r.toNat]
  | _ => []

/-- The x register of a broadcast. -/
def xOf : TileOp → List XReg
  | .bcast x => [x]
  | _ => []

/-- The n-bit pattern repeated over a row. -/
def repeatRow (w : Nat) (v : Nat) : Row :=
  ofBytes 2048 ((List.range 256).map fun i => BitVec.ofNat 8 (v / 256 ^ (i % w)))

/-- TileRowRead for elements of w bytes (R203). -/
def State.readOp (s : State) (op : TileOp) (w : Nat) : Row :=
  match op with
  | .tile t r => s.cur.row t.toNat r.toNat
  | .opd o => Tbl.getD s.cur.o o.toNat 0
  | .latch => s.cur.lr
  | .bcast x => repeatRow w (s.getX x).toNat

/-- A result row written to its destination and to lr (R205). -/
def State.writeOp (s : State) (d : TileOp) (v : Row) : State :=
  let c := { s.cur with lr := v }
  s.setCur (match d with
    | .tile t r => c.setRow t.toNat r.toNat v
    | .opd o => { c with o := Tbl.set c.o o.toNat v }
    | _ => c)

/-- Element e of w bytes of a row, as a number (R177). -/
def elem (v : Row) (w e : Nat) : Nat := (v.extractLsb' (8 * w * e) (8 * w)).toNat

/-- A row from its elements of w bytes. -/
def rowOfElems (w : Nat) (es : List Nat) : Row := ofBytes 2048 ((es.map fun e => leBytes w e).flatten)

/-- The elements of a row of w-byte elements. -/
def elems (v : Row) (w : Nat) : List Nat := (List.range (256 / w)).map fun e => elem v w e

/-- The guard bit of element e of w bytes (R200). -/
def guardBit (g : Pred) (w e : Nat) : Bool := g.getLsbD (w * e)

/-- Form of a tile-row instruction of the execute sequencer; two words. -/
def tileForm (h : Hdr) (maj sub : Nat) (d : List TileOp) (srcs : List TileOp) (ps : List PReg) : Form where
  h := h
  two := true
  seqs := permitted maj sub
  tiles := ((d ++ srcs).map tileOf).flatten
  xs := (srcs.map xOf).flatten
  ps := ps
  rr := (srcs.map rowOf).flatten
  rw := (d.map rowOf).flatten
  guarded := false

/-- A result of elements of w bytes leaves bytes of the destination row as they were: its old contents are read (R289). -/
def State.keepsOld (s : State) (h : Hdr) (w : Nat) : Bool := !(List.range (256 / w)).all fun e => guardBit (s.guard h) w e

/-- The same form for a result of elements of w bytes; old: the entry reads the destination's old contents (R31, R289). -/
def State.elemForm (s : State) (h : Hdr) (maj sub w : Nat) (d : TileOp) (srcs : List TileOp) (ps : List PReg) (old : Bool) : Form :=
  { tileForm h maj sub [d] srcs ps with rr := (srcs.map rowOf).flatten ++ (if old || s.keepsOld h w then rowOf d else []) }

/-! ## Forms of commands (CMD format) -/

/-- Form of a CMD-format instruction. -/
def cmdForm (h : Hdr) (maj sub : Nat) (xs : List XReg) (ps : List PReg) : Form :=
  { h := h, two := true, seqs := permitted maj sub, xs := xs, ps := ps }

end Sys2Proof.Machine
end

