-- ==== Sys2Proof/Machine/Alu.lean ====
section
/-! DEFINITION. Majors 0x01 to 0x04: integer arithmetic, moves, immediates and comparisons (R238 to R242). -/

namespace Sys2Proof.Machine

open Sys2Proof

/-- An operation on two registers. -/
def State.opXX (s : State) (maj sub : Nat) (h : Hdr) (d a b : XReg) (f : Word64 → Word64 → Word64) :
    Host.Outcome State Fault Refusal :=
  s.issue (scalar h false maj sub [d, a, b] []) fun t => .done (t.setX d (f (t.getX a) (t.getX b)))

/-- An operation on a register and an immediate. -/
def State.opXI (s : State) (maj sub : Nat) (h : Hdr) (d a : XReg) (imm : BitVec 28) (f : Word64 → Word64 → Word64) :
    Host.Outcome State Fault Refusal :=
  s.issue (scalar h true maj sub [d, a] []) fun t => .done (t.setX d (f (t.getX a) (immB imm)))

/-- An operation on one register. -/
def State.opX (s : State) (maj sub : Nat) (h : Hdr) (d a : XReg) (f : Word64 → Word64) :
    Host.Outcome State Fault Refusal :=
  s.issue (scalar h false maj sub [d, a] []) fun t => .done (t.setX d (f (t.getX a)))

/-! ## Results (R238 to R240) -/

def mulHigh (a b : Word64) : Word64 := (a.signExtend 128 * b.signExtend 128).extractLsb' 64 64

def mulHighU (a b : Word64) : Word64 := (a.setWidth 128 * b.setWidth 128).extractLsb' 64 64

/-- Division truncates towards zero; by zero it gives all ones (R239 Table 2). -/
def divS (a b : Word64) : Word64 := if b = 0 then BitVec.allOnes 64 else a.sdiv b

def divU (a b : Word64) : Word64 := if b = 0 then BitVec.allOnes 64 else a / b

/-- A remainder takes the sign of the dividend; by zero it is the dividend. -/
def remS (a b : Word64) : Word64 := if b = 0 then a else a.srem b

def remU (a b : Word64) : Word64 := if b = 0 then a else a % b

/-- The shift amount is bits [5:0]. -/
def shAmt (b : Word64) : Nat := b.toNat % 64

def shiftL (a b : Word64) : Word64 := a <<< shAmt b

def shiftR (a b : Word64) : Word64 := a >>> shAmt b

def shiftA (a b : Word64) : Word64 := a.sshiftRight (shAmt b)

def leadingZeros (a : Word64) : Word64 := if a = 0 then 64 else w64 (63 - Nat.log2 a.toNat)

def setBits (a : Word64) : Word64 := w64 ((List.range 64).filter fun i => a.getLsbD i).length

def extBits : ExtW → Nat
  | .b => 8 | .h => 16 | .w => 32

def signExt (w : ExtW) (a : Word64) : Word64 := (a.setWidth (extBits w)).signExtend 64

def zeroExt (w : ExtW) (a : Word64) : Word64 := (a.setWidth (extBits w)).setWidth 64

def minS (a b : Word64) : Word64 := if b.slt a then b else a

def maxS (a b : Word64) : Word64 := if a.slt b then b else a

def minU (a b : Word64) : Word64 := if b.ult a then b else a

def maxU (a b : Word64) : Word64 := if a.ult b then b else a

/-! ## Meanings -/

def execAdd (h : Hdr) (d a b : XReg) (s : State) : Host.Outcome State Fault Refusal :=
  s.opXX 0x01 0 h d a b (fun a b => a + b)

def execAddImm (h : Hdr) (d a : XReg) (imm : BitVec 28) (s : State) : Host.Outcome State Fault Refusal :=
  s.opXI 0x01 0 h d a imm (fun a b => a + b)

def execSub (h : Hdr) (d a b : XReg) (s : State) : Host.Outcome State Fault Refusal :=
  s.opXX 0x01 1 h d a b (fun a b => a - b)

def execSubImm (h : Hdr) (d a : XReg) (imm : BitVec 28) (s : State) : Host.Outcome State Fault Refusal :=
  s.opXI 0x01 1 h d a imm (fun a b => a - b)

def execMul (h : Hdr) (d a b : XReg) (s : State) : Host.Outcome State Fault Refusal :=
  s.opXX 0x01 2 h d a b (fun a b => a * b)

def execMulImm (h : Hdr) (d a : XReg) (imm : BitVec 28) (s : State) : Host.Outcome State Fault Refusal :=
  s.opXI 0x01 2 h d a imm (fun a b => a * b)

def execMulh (h : Hdr) (d a b : XReg) (s : State) : Host.Outcome State Fault Refusal :=
  s.opXX 0x01 3 h d a b mulHigh

def execMulhImm (h : Hdr) (d a : XReg) (imm : BitVec 28) (s : State) : Host.Outcome State Fault Refusal :=
  s.opXI 0x01 3 h d a imm mulHigh

def execMulhu (h : Hdr) (d a b : XReg) (s : State) : Host.Outcome State Fault Refusal :=
  s.opXX 0x01 4 h d a b mulHighU

def execMulhuImm (h : Hdr) (d a : XReg) (imm : BitVec 28) (s : State) : Host.Outcome State Fault Refusal :=
  s.opXI 0x01 4 h d a imm mulHighU

def execDiv (h : Hdr) (d a b : XReg) (s : State) : Host.Outcome State Fault Refusal :=
  s.opXX 0x01 5 h d a b divS

def execDivImm (h : Hdr) (d a : XReg) (imm : BitVec 28) (s : State) : Host.Outcome State Fault Refusal :=
  s.opXI 0x01 5 h d a imm divS

def execDivu (h : Hdr) (d a b : XReg) (s : State) : Host.Outcome State Fault Refusal :=
  s.opXX 0x01 6 h d a b divU

def execDivuImm (h : Hdr) (d a : XReg) (imm : BitVec 28) (s : State) : Host.Outcome State Fault Refusal :=
  s.opXI 0x01 6 h d a imm divU

def execRem (h : Hdr) (d a b : XReg) (s : State) : Host.Outcome State Fault Refusal :=
  s.opXX 0x01 7 h d a b remS

def execRemImm (h : Hdr) (d a : XReg) (imm : BitVec 28) (s : State) : Host.Outcome State Fault Refusal :=
  s.opXI 0x01 7 h d a imm remS

def execRemu (h : Hdr) (d a b : XReg) (s : State) : Host.Outcome State Fault Refusal :=
  s.opXX 0x01 8 h d a b remU

def execRemuImm (h : Hdr) (d a : XReg) (imm : BitVec 28) (s : State) : Host.Outcome State Fault Refusal :=
  s.opXI 0x01 8 h d a imm remU

def execAnd (h : Hdr) (d a b : XReg) (s : State) : Host.Outcome State Fault Refusal :=
  s.opXX 0x01 9 h d a b (fun a b => a &&& b)

def execAndImm (h : Hdr) (d a : XReg) (imm : BitVec 28) (s : State) : Host.Outcome State Fault Refusal :=
  s.opXI 0x01 9 h d a imm (fun a b => a &&& b)

def execOr (h : Hdr) (d a b : XReg) (s : State) : Host.Outcome State Fault Refusal :=
  s.opXX 0x01 10 h d a b (fun a b => a ||| b)

def execOrImm (h : Hdr) (d a : XReg) (imm : BitVec 28) (s : State) : Host.Outcome State Fault Refusal :=
  s.opXI 0x01 10 h d a imm (fun a b => a ||| b)

def execXor (h : Hdr) (d a b : XReg) (s : State) : Host.Outcome State Fault Refusal :=
  s.opXX 0x01 11 h d a b (fun a b => a ^^^ b)

def execXorImm (h : Hdr) (d a : XReg) (imm : BitVec 28) (s : State) : Host.Outcome State Fault Refusal :=
  s.opXI 0x01 11 h d a imm (fun a b => a ^^^ b)

def execAndn (h : Hdr) (d a b : XReg) (s : State) : Host.Outcome State Fault Refusal :=
  s.opXX 0x01 12 h d a b (fun a b => a &&& ~~~b)

def execAndnImm (h : Hdr) (d a : XReg) (imm : BitVec 28) (s : State) : Host.Outcome State Fault Refusal :=
  s.opXI 0x01 12 h d a imm (fun a b => a &&& ~~~b)

def execShl (h : Hdr) (d a b : XReg) (s : State) : Host.Outcome State Fault Refusal :=
  s.opXX 0x01 13 h d a b shiftL

def execShlImm (h : Hdr) (d a : XReg) (imm : BitVec 28) (s : State) : Host.Outcome State Fault Refusal :=
  s.opXI 0x01 13 h d a imm shiftL

def execShr (h : Hdr) (d a b : XReg) (s : State) : Host.Outcome State Fault Refusal :=
  s.opXX 0x01 14 h d a b shiftR

def execShrImm (h : Hdr) (d a : XReg) (imm : BitVec 28) (s : State) : Host.Outcome State Fault Refusal :=
  s.opXI 0x01 14 h d a imm shiftR

def execSra (h : Hdr) (d a b : XReg) (s : State) : Host.Outcome State Fault Refusal :=
  s.opXX 0x01 15 h d a b shiftA

def execSraImm (h : Hdr) (d a : XReg) (imm : BitVec 28) (s : State) : Host.Outcome State Fault Refusal :=
  s.opXI 0x01 15 h d a imm shiftA

def execMin (h : Hdr) (d a b : XReg) (s : State) : Host.Outcome State Fault Refusal :=
  s.opXX 0x02 0 h d a b minS

def execMinImm (h : Hdr) (d a : XReg) (imm : BitVec 28) (s : State) : Host.Outcome State Fault Refusal :=
  s.opXI 0x02 0 h d a imm minS

def execMax (h : Hdr) (d a b : XReg) (s : State) : Host.Outcome State Fault Refusal :=
  s.opXX 0x02 1 h d a b maxS

def execMaxImm (h : Hdr) (d a : XReg) (imm : BitVec 28) (s : State) : Host.Outcome State Fault Refusal :=
  s.opXI 0x02 1 h d a imm maxS

def execMinu (h : Hdr) (d a b : XReg) (s : State) : Host.Outcome State Fault Refusal :=
  s.opXX 0x02 2 h d a b minU

def execMinuImm (h : Hdr) (d a : XReg) (imm : BitVec 28) (s : State) : Host.Outcome State Fault Refusal :=
  s.opXI 0x02 2 h d a imm minU

def execMaxu (h : Hdr) (d a b : XReg) (s : State) : Host.Outcome State Fault Refusal :=
  s.opXX 0x02 3 h d a b maxU

def execMaxuImm (h : Hdr) (d a : XReg) (imm : BitVec 28) (s : State) : Host.Outcome State Fault Refusal :=
  s.opXI 0x02 3 h d a imm maxU

def execClz (h : Hdr) (d a : XReg) (s : State) : Host.Outcome State Fault Refusal :=
  s.opX 0x02 4 h d a leadingZeros

def execPopc (h : Hdr) (d a : XReg) (s : State) : Host.Outcome State Fault Refusal :=
  s.opX 0x02 5 h d a setBits

def execSext (h : Hdr) (d a : XReg) (w : ExtW) (s : State) : Host.Outcome State Fault Refusal :=
  s.opX 0x02 6 h d a (signExt w)

def execZext (h : Hdr) (d a : XReg) (w : ExtW) (s : State) : Host.Outcome State Fault Refusal :=
  s.opX 0x02 7 h d a (zeroExt w)

def execMovXX (h : Hdr) (d a : XReg) (s : State) : Host.Outcome State Fault Refusal :=
  s.opX 0x02 8 h d a id

def execMovXA (h : Hdr) (d : AReg) (a : XReg) (s : State) : Host.Outcome State Fault Refusal :=
  s.issue (scalar h false 0x02 9 [a] []) fun t => .done (t.setA d (t.getX a))

def execMovAX (h : Hdr) (d : XReg) (a : AReg) (s : State) : Host.Outcome State Fault Refusal :=
  s.issue (scalar h false 0x02 10 [d] []) fun t => .done (t.setX d (t.getA a))

def execSel (h : Hdr) (d a b : XReg) (p : PReg) (s : State) : Host.Outcome State Fault Refusal :=
  s.issue (scalar h true 0x02 11 [d, a, b] [p]) fun t =>
    .done (t.setX d (if (t.getP p).getLsbD 0 then t.getX a else t.getX b))

/-- `li` (R241). -/
def execLi (h : Hdr) (d : XReg) (v : BitVec 12) (s : State) : Host.Outcome State Fault Refusal :=
  s.issue (scalar h false 0x03 0 [d] []) fun t => .done (t.setX d (v.signExtend 64))

def execLiExt (h : Hdr) (d : XReg) (v : BitVec 40) (s : State) : Host.Outcome State Fault Refusal :=
  s.issue (scalar h true 0x03 0 [d] []) fun t => .done (t.setX d (v.signExtend 64))

/-- `cmp` (R242): the second predicate is D xor 1. -/
def execCmp (h : Hdr) (c : ICond) (d : PReg) (a b : XReg) (s : State) : Host.Outcome State Fault Refusal :=
  s.issue (scalar h false 0x04 0 [a, b] [d, d ^^^ 1]) fun t => .done (t.setPair d (icond c (t.getX a) (t.getX b)))

def execCmpImm (h : Hdr) (c : ICond) (d : PReg) (a : XReg) (imm : BitVec 28) (s : State) : Host.Outcome State Fault Refusal :=
  s.issue (scalar h true 0x04 0 [a] [d, d ^^^ 1]) fun t => .done (t.setPair d (icond c (t.getX a) (immB imm)))

end Sys2Proof.Machine
end

