-- ==== Sys2Proof/Machine/Done.lean ====
section
/-! DEFINITION. What completions of commands share: counted writes (R234, R272) and overlap with other commands' writes
(R316). -/

namespace Sys2Proof.Machine

open Sys2Proof

/-- How the end of a command stands that has counted bytes or writes to other modules to wait for. -/
inductive Counted where
  | ok (s : State)
  | wait (s : State)
  | fail (e : EFail)

/-- The mark of a count that has been sent to another module. -/
def countSent : Nat × Nat := (2 ^ 100, 0)

/-- The byte count of a command added to ARR of its record, an atomic of the command; at another module it is waited for
(R65, R234, R272). -/
def State.cntStep (s : State) (core : Nat) (o : Op) (r : Word64) (n : Nat) : Counted :=
  let g := s.opAgent core o
  if o.asked.contains countSent then
    match answerWhy o.answer, o.answer with
    | some (c, w), _ => .fail (.fault c w r)
    | none, some (.value _ _ _) => .ok s
    | _, _ => .wait s
  else
    match s.agentXlat g .amo r.toNat with
    | .error (.fault c w a) => .fail (.fault c w a)
    | .error (.pend m off _) => .wait (s.askPage g.asid m off)
    | .error .held => .wait s
    | .ok x =>
      match x.place with
      | .remote m off =>
        let t := s.lmDrop core (lmKey g.asid x)
        if !(t.getCore core).lineGone (lmKey g.asid x) then .wait t
        else
          .wait ((t.setCore core ((t.getCore core).updOp o.id fun p =>
              { p with asked := p.asked ++ [countSent], answer := none })).emit
            (.remoteAmo m g.asid core o.id off .add true (BitVec.ofNat 64 n) 0 o.sup))
      | _ =>
        match (s.touch g.asid r.toNat).amoPlace core g.asid x .add true (BitVec.ofNat 64 n) 0 with
        | some (t, _) => .ok t
        | none => .fail (.fault .uncorr 0 r)

/-- The end of a command whose writes have been made: with REL or a record, those to other modules are acknowledged first;
then its count is added (R231, R234, R272). addr: what a record names for a write that was refused. -/
def State.counting (s : State) (core : Nat) (o : Op) (record : Option Word64) (bytes : Nat) (addr : Word64) : Counted :=
  let o := ((s.getCore core).findOp o.id).getD o
  let refused := if o.asked.contains countSent then none else answerWhy o.answer
  match refused with
  | some (c, r) => .fail (.fault c r addr)
  | none =>
    if o.out ≠ 0 && (record.isSome || o.rel.isSome) then .wait s
    else match record with | some r => s.cntStep core o r bytes | none => .ok s

/-- A command whose writes have been made completes, or fails where its record cannot be reached. -/
def State.finishCounted (s : State) (core : Nat) (o : Op) (record : Option Word64) (bytes units : Nat) (addr : Word64) : State :=
  match s.counting core o record bytes addr with
  | .ok t => t.doneOp core o.id
  | .wait t => t
  | .fail e => s.failOpE core o e units

/-- An incomplete transfer or drain may yet write a byte of [a, a + n) (R316); the targets of a scatter are not known. -/
def Op.mayWrite (o : Op) (a n : Nat) : Bool :=
  let meets (d m : Nat) : Bool := decide (d < a + n ∧ a < d + m)
  !o.done && match o.kind with
    | .xfer .copy dst _ _ m _ _ _ => meets dst.toNat m
    | .xfer (.gath esz) dst _ _ m _ _ _ => meets dst.toNat (m * 2 ^ esz)
    | .xfer (.scat _) _ _ _ _ _ _ _ => true
    | .mdrainMem _ _ mode dst _ m k _ => meets dst.toNat (m * (if mode = .list then 8 * k else 4))
    | _ => false

/-- The operations a core accepted before operation id. -/
def Core.earlier (c : Core) (id : Nat) : List Op := c.ops.filter fun o => decide (o.id < id)

/-- The ranges of a command are full (R316): no earlier write is incomplete, and under FE every granule in the scratch
window is full. -/
def State.rangesFull (s : State) (core : Nat) (o : Op) (fe : FEq) (rs : List (Nat × Nat)) : Bool :=
  let c := s.getCore core
  rs.all fun r =>
    !(c.earlier o.id).any (fun w => w.mayWrite r.1 r.2) &&
      (fe = .none || (parts r.1 r.2).all fun p => !inScratch p.1 || c.allFull (p.1 - scratchBase) p.2)

/-- Under FC the granules read become empty (R316). -/
def State.emptyRanges (s : State) (core : Nat) (fe : FEq) (rs : List (Nat × Nat)) : State :=
  if fe != .fc then s
  else
    s.setCore core (rs.foldl (fun c r =>
      (parts r.1 r.2).foldl (fun c p => if inScratch p.1 then c.setFullR (p.1 - scratchBase) p.2 false else c) c) (s.getCore core))

/-- The bytes of ranges, one list each. -/
def State.readRanges (s : State) (g : Agent) (rs : List (Nat × Nat)) : Except EFail (List (List Byte)) :=
  match rs with
  | [] => .ok []
  | r :: rest =>
    match s.vread g none r.1 r.2 with
    | .error e => .error e
    | .ok bs =>
      match State.readRanges s g rest with
      | .ok more => .ok (bs :: more)
      | .error e => .error e

end Sys2Proof.Machine
end

