-- ==== Sys2Proof/Machine/Access.lean ====
section
/-! DEFINITION. The accesses of a sequencer: their parts, the order among them, how each part performs, and the reads an
instruction waits for at issue (R47, R225, R226, R228, R233, R264, R266, R276). -/

namespace Sys2Proof.Machine

open Sys2Proof

/-! ## Order within one sequencer (R226) -/

/-- A number for the location a part touches. -/
def locOf (x : Xl) : Nat :=
  match x.place with
  | .dev pa => pa
  | .scratch off => 2 ^ 72 + off
  | .remote m off => 2 ^ 62 + m * 2 ^ 43 + off

/-- Two parts touch a common byte. -/
def partsMeet (a b : Nat × Nat × Xl) : Bool :=
  decide (locOf a.2.2 < locOf b.2.2 + b.2.1 ∧ locOf b.2.2 < locOf a.2.2 + a.2.1)

def viaMeet (a b : List (Nat × Nat × Xl)) : Bool := a.any fun x => b.any fun y => partsMeet x y

/-- Some part touches a strongly ordered page, or an SO or RC page. -/
def viaSo (v : List (Nat × Nat × Xl)) : Bool := v.any fun x => x.2.2.kind = 0

def viaSoRc (v : List (Nat × Nat × Xl)) : Bool := v.any fun x => x.2.2.kind ≤ 1

/-- An `invr` covers a line that a part touches, by its address or by where it lies (R276). -/
def OpKind.invalidates (k : OpKind) (covered via : List (Nat × Nat × Xl)) : Bool :=
  match k with
  | .xfer .invr dst _ _ n _ _ _ =>
    viaMeet covered via ||
      via.any fun v => decide (0 < n ∧ v.1 < (dst.toNat + n + 127) / 128 * 128 ∧ dst.toNat / 128 * 128 < v.1 + v.2.1)
  | _ => false

/-- A vector atomic with REL, which completes before any later access of its sequencer (R284). -/
def Op.closes (x : Op) : Bool := x.rel.isSome && (match x.kind with | .vamo .. => true | _ => false)

/-- An outstanding operation x is ordered before a later access of its sequencer with these parts. -/
def Op.before (x : Op) (via : List (Nat × Nat × Xl)) (writes : Bool) (rel : OScope) : Bool :=
  !x.done && (x.kind.invalidates x.via via || (x.kind.isAccess &&
    ((viaMeet x.via via && (writes || x.kind.writes)) || (viaSo x.via && viaSo via) ||
      (x.acq.isSome && viaSoRc via) || (rel.isSome && viaSoRc x.via) || x.closes)))

/-- No earlier access of the running sequencer has to perform first. -/
def State.mayAccess (s : State) (via : List (Nat × Nat × Xl)) (writes : Bool) (rel : OScope) : Bool :=
  !(s.cur.ops.any fun x => x.seq = s.seq && x.before via writes rel)

/-- The operations issued before operation id. -/
def opsBefore (ops : List Op) (id : Nat) : List Op :=
  match ops with
  | [] => []
  | o :: rest => if o.id = id then [] else o :: opsBefore rest id

/-- The copies of an `spbeg` still run and a part lies in its region (R264). -/
def Core.copyHeld (c : Core) (via : List (Nat × Nat × Xl)) : Bool :=
  c.biv.copying && via.any fun v => match v.2.2.place with
    | .scratch q => decide (q < c.biv.base + 2 * c.biv.len ∧ c.biv.base < q + v.2.1)
    | _ => false

/-- An outstanding operation may perform: every access ordered before it has. -/
def Core.mayPerform (c : Core) (o : Op) : Bool :=
  !c.copyHeld o.via && !((opsBefore c.ops o.id).any fun x => x.seq = o.seq && x.before o.via o.kind.writes o.rel)

/-- The agent of a command of the running sequencer (R46). -/
def State.selfAgent (s : State) : Agent := ⟨some s.core, s.asid, s.sq.sup, none, false⟩

/-! ## Parts of an access -/

/-- The one part of a scalar access, checked (R266). -/
def State.scalarVia (s : State) (need : Need) (fe : Bool) (w : Nat) (addr : Word64) : Except Stop (List (Nat × Nat × Xl)) :=
  match s.check (some s.core) s.asid s.sq.sup need fe w addr with
  | .ok x => .ok [(addr.toNat, w, x)]
  | .error e => .error e

/-- The place d bytes further on. -/
def Xl.shift (x : Xl) (d : Nat) : Xl :=
  { x with place := match x.place with
    | .dev pa => .dev (pa + d) | .scratch o => .scratch (o + d) | .remote m o => .remote m (o + d) }

/-- The aligned 8-byte pieces of a 16-byte unit at a that have a guarded-true byte (R225, R270). -/
def piecesOf (guard : Pred) (u a : Nat) (x : Xl) : List (Nat × Nat × Xl) :=
  [0, 1].filterMap fun j =>
    if (List.range 8).any fun i => guard.getLsbD (u % 16 * 16 + 8 * j + i) then some (a + 8 * j, 8, x.shift (8 * j)) else none

/-- 16-byte units checked in address order: the pieces of those before the first that stops, and the stop (R47, R271). -/
def State.unitsGo (s : State) (need : Need) (fe : Bool) (addr : Word64) (guard : Pred) (us : List Nat)
    (acc : List (Nat × Nat × Xl)) : List (Nat × Nat × Xl) × Option Stop :=
  match us with
  | [] => (acc.reverse, none)
  | u :: rest =>
    let a := addr + w64 (16 * u)
    match s.check (some s.core) s.asid s.sq.sup need fe 16 a with
    | .ok x => State.unitsGo s need fe addr guard rest ((piecesOf guard u a.toNat x).reverse ++ acc)
    | .error e => (acc.reverse, some e)

/-- The TLBs hold the translations an access used (R48). -/
def State.touchVia (s : State) (via : List (Nat × Nat × Xl)) : State := via.foldl (fun t v => t.touch t.asid v.1) s

def placeRemote (x : Xl) : Bool := match x.place with | .remote _ _ => true | _ => false

/-- The pieces of an access in its first page (R47). -/
def firstPart (via : List (Nat × Nat × Xl)) : List (Nat × Nat × Xl) :=
  match via with
  | [] => []
  | v :: _ => via.takeWhile fun w => w.1 / 65536 = v.1 / 65536

/-- A free choice, never empty, among k pieces that perform in no order, as their numbers (R225). -/
def State.someOf (s : State) (salt k : Nat) : List Nat :=
  let n := k - s.freeBelow salt k
  let first := s.freeBelow (salt + 1) k
  (List.range n).map fun i => (i + first) % k

def State.somePieces (s : State) (salt : Nat) (ps : List (Nat × Nat × Xl)) : List (Nat × Nat × Xl) :=
  (s.someOf salt ps.length).filterMap fun i => ps[i]?

/-! ## How a part performs -/

/-- The line of a cached page of another module is asked for, unless it has been or a write-back of it is out (R53, R235). -/
def State.askLine (s : State) (core op asid : Nat) (sup : Bool) (x : Xl) : State :=
  match x.place with
  | .remote m off =>
    let key := lmKey asid x
    let c := s.getCore core
    if (Tbl.get? c.asked key).isSome || c.wbBusy key then s
    else
      (s.setCore core { c with asked := Tbl.set c.asked key true }).emit
        (.remoteRead m asid core op (off / 128 * 128) 128 sup)
  | _ => s

/-- A masked write as runs of bytes inside 128-byte lines: start, place, bytes in reverse. -/
def runsGo (bs : List (Nat × Xl × Byte)) (cur : Option (Nat × Xl × List Byte)) : List (Nat × Xl × List Byte) :=
  match bs with
  | [] => match cur with | some r => [r] | none => []
  | (va, x, b) :: rest =>
    match cur with
    | some (v0, x0, l) =>
      if va = v0 + l.length ∧ va % 128 ≠ 0 then runsGo rest (some (v0, x0, b :: l))
      else (v0, x0, l) :: runsGo rest (some (va, x, [b]))
    | none => runsGo rest (some (va, x, [b]))

/-- The guarded bytes of `stt` pieces of the access at addr, row by row (R270). -/
def sttBytes (via : List (Nat × Nat × Xl)) (addr : Nat) (guard : Pred) (rowAt : Nat → Row) : List (Nat × Xl × Byte) :=
  (via.map fun v =>
    let o := v.1 - addr
    let r := rowAt (o / 256)
    (List.range v.2.1).filterMap fun i =>
      let b := o % 256 + i
      if guard.getLsbD b then some (v.1 + i, v.2.2.shift i, byteAt r b) else none).flatten

/-- Bytes of an `ldt` at an offset of the access put into their row (R270). -/
def Core.putPiece (c : Core) (t row : Nat) (guard : Pred) (o : Nat) (bs : List Byte) : Core :=
  let r := (bs.mapIdx fun i b => (o % 256 + i, b)).foldl (fun r e => if guard.getLsbD e.1 then setByte r e.1 e.2 else r)
    (c.row t (row + o / 256))
  c.setRow t (row + o / 256) r

def Core.putPieces (c : Core) (t row : Nat) (guard : Pred) (addr : Nat) (ps : List (Nat × List Byte)) : Core :=
  ps.foldl (fun c p => c.putPiece t row guard (p.1 - addr) p.2) c

/-! ## Words an instruction waits on (R233, R234) -/

/-- What an 8-byte read that an instruction waits for at issue answers. -/
inductive Peek where
  | ok (v : Word64)
  /-- it fails -/
  | fail (c : Cause) (reason : Nat)
  /-- it has to be asked for, or its answer has not come -/
  | ask (g : State → State)

/-- A request to another module that the running sequencer waits for, by the number it is known under. -/
def State.sendProbeN (s : State) (key : Word64) (m off n : Nat) : State :=
  let c := s.cur
  let o : Op := ⟨c.nextOp, s.seq, none, s.sq.pc, 0, 0, 0, s.sq.sup, none, none, .probe key, 0, false, none, [], 0, [], [], none⟩
  (s.setCur { c with ops := c.ops ++ [o], nextOp := c.nextOp + 1 }).emit (.remoteRead m s.asid s.core c.nextOp off n s.sq.sup)

/-- A line of instruction words of another module asked for, under the number key (R45, R197). -/
def State.sendFetch (s : State) (key : Word64) (m off : Nat) : State :=
  let c := s.cur
  let o : Op := ⟨c.nextOp, s.seq, none, s.sq.pc, 0, 0, 0, s.sq.sup, none, none, .probe key, 0, false, none, [], 0, [], [], none⟩
  (s.setCur { c with ops := c.ops ++ [o], nextOp := c.nextOp + 1 }).emit (.remoteFetch m s.asid s.core c.nextOp off 128 s.sq.sup)

/-- A line of another module asked for by an instruction at issue. -/
def State.sendLineProbe (s : State) (va : Nat) (x : Xl) (m off : Nat) : State :=
  let c := s.cur
  let s := s.setCur { c with asked := Tbl.set c.asked (lmKey s.asid x) true }
  s.sendProbeN (w64 (va / 128 * 128)) m (off / 128 * 128) 128

/-- The word at a place for the running sequencer; another module's by question and answer. -/
def State.peek (s : State) (addr : Word64) (x : Xl) : Peek :=
  if s.copyHeld (some s.core) x then .ask id else
  let here : Peek := match s.wordNow s.core s.seq s.asid addr x with
    | .val v => .ok v
    | .bad => .fail .uncorr 0
    | .unknown => .ask id
  match x.place with
  | .remote m off =>
    match s.cur.ops.find? fun o => o.isProbe s.seq addr with
    | some o => match answerWhy o.answer with | some (c, r) => .fail c r | none => here
    | none => .ask fun t => t.sendProbeN addr m off 8
  | _ => here

/-- A range cut at 128-byte lines; fuel is at least the number of lines. -/
def lineCuts (fuel va n : Nat) : List (Nat × Nat) :=
  match fuel with
  | 0 => []
  | f + 1 =>
    if n = 0 then [] else
    let m := min n (128 - va % 128)
    (va, m) :: lineCuts f (va + m) (n - m)

/-- The parts of an access checked one after another (R266). -/
def State.checkParts (s : State) (need : Need) (align : Nat) (ps : List (Nat × Nat)) : Except Stop (List (Nat × Nat × Xl)) :=
  match ps with
  | [] => .ok []
  | (va, n) :: rest =>
    match s.check (some s.core) s.asid s.sq.sup need false align (w64 va) with
    | .error e => .error e
    | .ok x =>
      match State.checkParts s need align rest with
      | .ok l => .ok ((va, n, x) :: l)
      | .error e => .error e

/-- A failed read as a body's answer. -/
def failRes (c : Cause) (reason : Nat) (addr : Word64) : Res := (stopOf c reason addr).res

/-- The 8-byte words of an uncached part of another module, asked for one after another. -/
def State.peekWords (s : State) (addr : Word64) (x : Xl) (n : Nat) : Except Res (List Byte) :=
  let words := (List.range (n / 8)).map fun j => s.peek (addr + w64 (8 * j)) (x.shift (8 * j))
  match words.find? fun w => match w with | .ok _ => false | _ => true with
  | some (.ask g) => .error (.hold g)
  | some (.fail c r) => .error (failRes c r addr)
  | _ => .ok (words.map fun w => match w with | .ok v => leBytes 8 v.toNat | _ => []).flatten

/-- A line of another module that a read at issue needs: it is asked for once no write-back of it is out. -/
def State.waitLine (s : State) (va : Nat) (x : Xl) : Res :=
  match x.place with
  | .remote m off =>
    match s.cur.ops.find? fun o => o.isProbe s.seq (w64 (va / 128 * 128)) with
    | some o => match answerWhy o.answer with | some (c, r) => failRes c r (w64 va) | none => .wait
    | none =>
      if (Tbl.get? s.cur.asked (lmKey s.asid x)).isSome || s.cur.wbBusy (lmKey s.asid x) then .wait
      else .hold fun t => t.sendLineProbe va x m off
  | _ => .wait

/-- The parts of a read that an instruction completes before it issues; a part of another module is waited for. -/
def State.syncParts (s : State) (via : List (Nat × Nat × Xl)) : Except Res (State × List Byte) :=
  match via with
  | [] => .ok (s, [])
  | (va, n, x) :: rest =>
    let one : Except Res (State × List Byte) :=
      if placeRemote x && !x.cached then (s.peekWords (w64 va) x n).map fun bs => (s, bs)
      else
        match s.readSeq s.core s.seq s.asid x n with
        | .ok t bs => .ok (t, bs)
        | .uncorr => .error (.trap .uncorr (w64 va))
        | .pend => .error (s.waitLine va x)
    match one with
    | .error r => .error r
    | .ok (t, bs) =>
      match State.syncParts t rest with
      | .ok (u, more) => .ok (u, bs ++ more)
      | .error r => .error r

/-- Answers for the bytes of a read that has completed are not kept. -/
def Core.dropProbesIn (c : Core) (q : SeqId) (addr n : Nat) : Core :=
  { c with ops := c.ops.filter fun o => !(o.seq = q && (match o.kind with
      | .probe a => decide (addr ≤ a.toNat + 127 ∧ a.toNat < addr + n)
      | _ => false)) }

/-- n bytes read as an ordinary load of the running sequencer that completes at issue. -/
def State.syncRead (s : State) (align : Nat) (addr : Word64) (n : Nat) : Except Res (State × List Byte) :=
  match s.checkParts .read align (lineCuts (n / 128 + 2) addr.toNat n) with
  | .error e => .error e.res
  | .ok via =>
    if !s.mayAccess via false none || s.cur.copyHeld via then .error .wait
    else
      match s.syncParts via with
      | .ok (t, bs) => .ok ((t.touchVia via).setCur ((t.touchVia via).cur.dropProbesIn t.seq addr.toNat n), bs)
      | .error r => .error r

/-! ## What every engine command waits for at acceptance (R231) -/

/-- The running sequencer has an SO or RC access that has not performed. -/
def State.soRcPending (s : State) : Bool := s.cur.ops.any fun o => o.seq = s.seq && !o.done && o.kind.isAccess && viaSoRc o.via

/-- A release of the running sequencer at a scope, when one is given: its earlier SO and RC accesses have performed, and what
LM held dirty has been written back, other modules included (R228, R229, R231). -/
def State.acceptRel (s : State) (rel : OScope) : Except Res State :=
  match rel with
  | none => .ok s
  | some sc =>
    if s.soRcPending then .error .wait
    else
      let t := s.release s.core sc
      if t.released t.core sc then .ok t else .error (.hold fun u => u.release u.core sc)

/-- With ACQ, acceptance is a release of the issuing sequencer at that scope; without, its earlier stores to the scratch
window have performed. -/
def State.acceptCmd (s : State) (acq : OScope) : Except Res State :=
  if s.cur.scratchStorePending s.seq then .error .wait else s.acceptRel acq

/-! ## Waiting for granules and slots (R58, R279) -/

/-- Every granule of these ranges of the scratch window is full. -/
def Core.rangesFull (c : Core) (rs : List (Nat × Nat)) : Bool := rs.all fun r => c.allFull r.1 r.2

/-- What a sequencer waits for has come: it is the one to issue. -/
def Core.turnCome (c : Core) (w : Waiting) : Bool :=
  match w with
  | .none => false
  | .full rs => c.rangesFull rs
  | .slot b => match Tbl.get? c.rings b with | some r => decide ((r.aq - r.cn).toNat < r.ns) | none => false
  | .range j => match c.inst.bind fun i => i.lvl[j]? with | some l => decide (l.next < l.limit) || l.asking = 0 | none => false

/-- The sequencers before one in the order control, load, execute, store. -/
def seqsBefore : SeqId → List SeqId
  | .control => [] | .load => [.control] | .exec => [.control, .load] | .store => [.control, .load, .exec]

/-- A sequencer served before the running one waits for the same kind of thing, and can now issue (R58, R279). -/
def State.mustYield (s : State) (same : Waiting → Bool) : Bool :=
  (seqsBefore s.seq).any fun q =>
    let r := s.cur.seqr q
    !r.ended && !r.stopped && same r.waitsOn && s.cur.turnCome r.waitsOn

end Sys2Proof.Machine
end

