-- ==== Sys2Proof/Machine/Rank.lean ====
section
/-! DEFINITION. Ranked order and TopK (R150, R151), list rows (R152), and the random draw (R138, R139). -/

namespace Sys2Proof

/-- A value's FP32 pattern and an index (R150). -/
abbrev RPair := Nat × Nat

/-- The empty pair E. -/
def emptyPair : RPair := (0xFF80_0000, 0xFFFF_FFFF)

def isNan32 (v : Nat) : Bool := (f32.dec v).isNan

/-- A stored −0 is +0 (R150). -/
def plusZero (v : Nat) : Nat := if v = 0x8000_0000 then 0 else v

/-- A number that orders FP32 patterns other than NaNs as their values, the zeros equal. -/
def orderKey (v : Nat) : Nat :=
  if 2 ^ 31 ≤ v then 2 ^ 31 - v % 2 ^ 31 else 2 ^ 31 + v

/-- Pair a ranks above pair b (R150). -/
def ranksAbove (a b : RPair) : Bool :=
  decide (orderKey b.1 < orderKey a.1) || (decide (orderKey a.1 = orderKey b.1) && decide (a.2 < b.2))

def insertPair (p : RPair) : List RPair → List RPair
  | [] => [p]
  | q :: rest => if ranksAbove q p then q :: insertPair p rest else p :: q :: rest

/-- Pairs in ranked order. -/
def sortPairs (l : List RPair) : List RPair := l.foldl (fun acc p => insertPair p acc) []

/-- TopK (R151). -/
def topK (l : List RPair) (k : Nat) : List RPair := (sortPairs l ++ List.replicate k emptyPair).take k

/-- Pairs offered: NaNs taken out and counted, −0 as +0 (R150, R154). -/
def offer (l : List RPair) : List RPair × Nat :=
  ((l.filter fun p => !isNan32 p.1).map fun p => (plusZero p.1, p.2), (l.filter fun p => isNan32 p.1).length)

/-- A pair as the 8 bytes of a list (R152). -/
def pairWord (p : RPair) : Nat := p.1 + p.2 * 2 ^ 32

def wordPair (w : Nat) : RPair := (w % 2 ^ 32, w / 2 ^ 32 % 2 ^ 32)

/-! ## Draws (R138, R139) -/

/-- The 32 bits i*32 and up of the key. -/
def keyWord (key : BitVec 128) (i : Nat) : Word32 := key.extractLsb' (32 * i) 32

def genRounds (key : BitVec 128) : Nat → Word32 × Word32 → Word32 × Word32
  | 0, p => p
  | n + 1, p =>
    let (a, c) := genRounds key n p
    let m := a.toNat * 0xD256_D193
    (BitVec.ofNat 32 (m / 2 ^ 32) ^^^ c ^^^ keyWord key (n % 4) ^^^ BitVec.ofNat 32 (n * 0x9E37_79B9), BitVec.ofNat 32 m)

/-- Gen32. -/
def gen32 (key : BitVec 128) (pos : Word32) (idx lane : BitVec 16) : Word32 :=
  let (a, c) := genRounds key 10 (pos, BitVec.ofNat 32 (lane.toNat * 2 ^ 16 + idx.toNat))
  a ^^^ c.rotateLeft 13

/-- The counter after one draw, and whether the position wrapped. -/
def nextDraw (pos : Word32) (idx : BitVec 16) : Word32 × BitVec 16 × Bool :=
  if idx = 0xFFFF then (pos + 1, 0, decide (pos = 0xFFFF_FFFF)) else (pos, idx + 1, false)

/-- A uniform number in [0, 1) from a draw: ZeroExtend(b[31:8]) × 2^−24 as an FP32 pattern. -/
def uniform32 (b : Word32) : Nat := (f32.round .rne 0 false (.fin false (b.toNat / 256) (-24))).1

end Sys2Proof
end

