-- ==== Sys2Proof/Machine/RList.lean ====
section
/-! DEFINITION. Major 0x1F: ranked lists in tile rows (R150 to R154, R308 to R311). -/

namespace Sys2Proof.Machine

open Sys2Proof

/-- Rows of one list of length k (R152). -/
def listRows (k : Nat) : Nat := ceilDiv k 32

/-- The rows that hold a list's pairs, E beyond them (R153). -/
def packList (ps : List RPair) (n : Nat) : List Row :=
  (List.range n).map fun r => rowOfElems 8 ((List.range 32).map fun j => pairWord (ps.getD (32 * r + j) emptyPair))

/-- The first k pairs of rows (R153). -/
def readPairs (rows : List Row) (k : Nat) : List RPair :=
  (List.range k).map fun j => wordPair (elem (rows.getD (j / 32) 0) 8 (j % 32))

/-- The list state of tile t when list n lies within it (R154). -/
def Core.list? (c : Core) (t n : Nat) : Option ListState :=
  match Tbl.get? c.lists t with
  | some l => if n < l.nl then some l else none
  | none => none

/-- The first row of list n. -/
def ListState.first (l : ListState) (n : Nat) : Nat := l.row0 + n * listRows l.k

/-- The rows of list n of tile t. -/
def Core.listRowsOf (c : Core) (t : Nat) (l : ListState) (n : Nat) : List Row :=
  (List.range (listRows l.k)).map fun i => c.row t (l.first n + i)

/-- No accepted operation has yet to write the rows: they can be read (R31). -/
def State.rowsRead (s : State) (rs : List Nat) : Bool := rs.all fun r => !s.cur.rowPendW r

/-- No accepted operation has yet to read the rows: they can be written (R31). -/
def State.rowsWrite (s : State) (rs : List Nat) : Bool := rs.all fun r => !s.cur.rowPendR r

/-- Rows written from row r of tile t on, the last of them to lr too (R289). -/
def State.writeRows (s : State) (t r : Nat) (vs : List Row) : State :=
  s.setCur { s.cur.setRows t r vs with lr := vs.getLastD s.cur.lr }

/-- List n becomes TopK of itself and the pairs offered; NaNs offered are counted and raise INV in the tile (R154). -/
def State.mergeList (s : State) (t n : Nat) (l : ListState) (offered : List RPair) : State :=
  let own := (offer (readPairs (s.cur.listRowsOf t l n) l.k)).1
  let (new, nans) := offer offered
  let u := s.writeRows t (l.first n) (packList (topK (own ++ new) l.k) (listRows l.k))
  if nans = 0 then u
  else (u.setCur { u.cur with lists := Tbl.set u.cur.lists t { l with nans := satU (l.nans + nans) 16 } }).tileEv t evInv

/-- Form of a list instruction; those that take no guard per element test G0 (R308, R310, R311). -/
def listForm (h : Hdr) (sub : Nat) (t : BitVec 5) (xs : List XReg) (g0 : Bool) : Form :=
  { tileForm h 0x1F sub [] [] [] with tiles := [t.toNat], xs := xs, guarded := g0 }

/-- `rlcfg` (R308). -/
def execRlcfg (h : Hdr) (t : BitVec 5) (row : BitVec 4) (xa xb : XReg) (s : State) : Host.Outcome State Fault Refusal :=
  s.issue (listForm h 0 t [xa, xb] true) fun u =>
    let k := (u.getX xa).toNat
    let nl := (u.getX xb).toNat
    let rows := nl * listRows k
    if k = 0 ∨ 64 < k ∨ nl = 0 ∨ 16 < nl ∨ 16 < row.toNat + rows then .trap .illegal 0
    else if !u.rowsWrite (rowsOf t.toNat row.toNat rows) then .wait
    else
      let v := u.writeRows t.toNat row.toNat (packList [] rows)
      .done (v.setCur { v.cur with lists := Tbl.set v.cur.lists t.toNat ⟨k, row.toNat, nl, 0⟩ })

/-- The body of an instruction that reads list n of tile t, and writes it where it does: ILLEGAL where there is none (R154),
waits for its rows (R31), then UNCORR for one with a parity error (R412). -/
def State.onList (s : State) (t : BitVec 5) (n : BitVec 4) (writes : Bool) (body : ListState → Res) : Res :=
  match s.cur.list? t.toNat n.toNat with
  | none => .trap .illegal 0
  | some l =>
    let rows := rowsOf t.toNat (l.first n.toNat) (listRows l.k)
    if !s.rowsRead rows || (writes && !s.rowsWrite rows) then .wait
    else
      match rows.find? fun r => s.cur.badRow r with
      | some r => .trapBy (fun u => u.countRowAt r) .uncorr 0
      | none => body l

/-- `rlins` (R309). -/
def execRlins (h : Hdr) (t : BitVec 5) (n : BitVec 4) (a : TileOp) (xb : XReg) (s : State) :
    Host.Outcome State Fault Refusal :=
  s.issue { tileForm h 0x1F 1 [] [a] [] with tiles := t.toNat :: tileOf a, xs := xb :: xOf a } fun u =>
    u.onList t n true fun l =>
      let g := u.guard h
      let r := u.readOp a 4
      let es := (List.range 64).filter (guardBit g 4)
      .done (u.mergeList t.toNat n.toNat l (es.map fun e => (elem r 4 e, ((u.getX xb).toNat + e) % 2 ^ 32)))

/-- `rlmrg` (R310). -/
def execRlmrg (h : Hdr) (t : BitVec 5) (n : BitVec 4) (xb : XReg) (s : State) : Host.Outcome State Fault Refusal :=
  s.issue (listForm h 2 t [xb] true) fun u =>
    u.onList t n true fun l =>
      match u.syncRead 8 (u.getX xb) (8 * l.k) with
      | .error r => r
      | .ok (v, bs) => .done (v.mergeList t.toNat n.toNat l ((List.range l.k).map fun j => wordPair (fld bs (8 * j) 8)))

/-- `rlthr` (R311). -/
def execRlthr (h : Hdr) (t : BitVec 5) (n : BitVec 4) (xb : XReg) (s : State) : Host.Outcome State Fault Refusal :=
  s.issue (listForm h 3 t [xb] true) fun u =>
    u.onList t n false fun l =>
      let ps := topK (offer (readPairs (u.cur.listRowsOf t.toNat l n.toNat) l.k)).1 l.k
      .done (u.setX xb (w64 ((ps.getD (l.k - 1) emptyPair).1 + l.nans * 2 ^ 32 + l.k * 2 ^ 48)))

/-- `rlrd` (R311). -/
def execRlrd (h : Hdr) (d : TileOp) (t : BitVec 5) (n : BitVec 4) (s : State) : Host.Outcome State Fault Refusal :=
  s.issue { listForm h 4 t [] true with tiles := tileOf d ++ [t.toNat] } fun u =>
    u.onList t n false fun l =>
      match d with
      | .tile td rd =>
        if 16 < rd.toNat + listRows l.k then .trap .illegal 0
        else if !u.rowsWrite (rowsOf td.toNat rd.toNat (listRows l.k)) then .wait
        else
          let own := (offer (readPairs (u.cur.listRowsOf t.toNat l n.toNat) l.k)).1
          .done (u.writeRows td.toNat rd.toNat (packList (topK own l.k) (listRows l.k)))
      | _ => .trap .illegal 0

end Sys2Proof.Machine
end

