-- ==== Sys2Proof/Machine/Bfp.lean ====
section
/-! DEFINITION. Stream registers (R184) and block floating point: blocks, packing, ToBFP (R182 to R189). -/

namespace Sys2Proof

/-! ## Fields of a g-register (R184 Table 5) -/

def gKext (g : BitVec 256) : Nat := (g.extractLsb' 232 24).toNat
def gNext (g : BitVec 256) : Nat := (g.extractLsb' 208 24).toNat
def gSext (g : BitVec 256) : Nat := (g.extractLsb' 192 16).toNat
def gNstr (g : BitVec 256) : Nat := (g.extractLsb' 160 32).toNat
def gSstr (g : BitVec 256) : Nat := (g.extractLsb' 144 16).toNat
def gFmt (g : BitVec 256) : Nat := (g.extractLsb' 140 4).toNat
def gM (g : BitVec 256) : Nat := (g.extractLsb' 135 5).toNat
def gBls (g : BitVec 256) : Nat := (g.extractLsb' 133 2).toNat
def gSbase (g : BitVec 256) : Nat := (g.extractLsb' 72 56).toNat
def gBase (g : BitVec 256) : Nat := (g.extractLsb' 8 56).toNat

/-- Elements of a block: 16, 32, 64 (R184). -/
def gBl (g : BitVec 256) : Nat := 16 * 2 ^ gBls g

/-- The stream is BFP with a legal mantissa width and block length (R302). -/
def gPackOk (g : BitVec 256) : Bool := gFmt g = 11 && decide (2 ≤ gM g) && decide (gM g ≤ 16) && decide (gBls g ≤ 2)

/-! ## Blocks -/

/-- A block: scale byte and mantissas (R182). -/
structure BfpBlock where
  e : Nat
  m : List Int
  deriving DecidableEq, Repr

/-- Value(M, E, m) (R182); E below 0xFF. -/
def bfpValue (mant : Int) (e m : Nat) : FVal := .fin (decide (mant < 0)) mant.natAbs ((e : Int) - 127 - ((m : Int) - 1))

/-- The FP32 pattern of an element (R189). -/
def bfpTo32 (mant : Int) (e m : Nat) : Nat := if e = 0xFF then 0x7FC0_0000 else (f32.round .rne 0 false (bfpValue mant e m)).1

/-- One element rounded to a mantissa with the block's unit 2^q: the mantissa and whether it is inexact. An infinity is
beyond every mantissa. -/
def bfpRound (rm : RMode) (u m : Nat) (q : Int) (v : FVal) : Int × Bool :=
  match v with
  | .nan _ => (0, false)
  | .inf neg => (if neg then -(2 ^ (m - 1) : Int) else 2 ^ (m - 1) - 1, true)
  | .fin neg mm e =>
    let (n, inx) := roundShift rm u neg mm (e - q)
    (if neg then -(n : Int) else n, inx)

/-- The mantissas at scale E: each element with its neighbours' discard words under SR (R188). src: the elements the
discard words are formed from. -/
def bfpAt (rm : RMode) (m : Nat) (e : Nat) (xs src : List FVal) : List (Int × Bool) :=
  let q : Int := (e : Int) - 127 - ((m : Int) - 1)
  let n := xs.length
  let d := src.map fun v => discardAt v q
  (List.range n).map fun i =>
    bfpRound rm (srWord (d.getD ((i + n - 1) % n) 0) (d.getD ((i + 1) % n) 0) i) m q (xs.getD i (.fin false 0 0))

/-- The loop of R187: E rises while an element rounds beyond the largest mantissa. -/
def bfpLoop (rm : RMode) (m : Nat) (xs src : List FVal) (fuel e : Nat) : BfpBlock × Ev :=
  let ms := bfpAt rm m e xs src
  let hi : Int := 2 ^ (m - 1) - 1
  let lo : Int := -(2 ^ (m - 1))
  let above := ms.any fun r => decide (hi < r.1)
  let stop : BfpBlock × Ev :=
    let clamped := ms.map fun r => max lo (min hi r.1)
    let sat := (ms.any fun r => decide (hi < r.1 ∨ r.1 < lo)) || xs.any fun v => match v with | .inf _ => true | _ => false
    (⟨e, clamped⟩, (if sat then evSat ||| evInx else 0) ||| (if ms.any (·.2) then evInx else 0))
  match fuel with
  | 0 => stop
  | k + 1 => if e < 254 && above then bfpLoop rm m xs src k (e + 1) else stop

/-- The scale that the block's largest magnitude asks for first (R187). -/
def bfpScale (xs : List Nat) : Nat :=
  let a := (xs.map fun x => x % 2 ^ 31).foldl max 0
  match f32.dec a with
  | .fin _ m e => (min (max (e + Nat.log2 m + 128) 0) 254).toNat
  | _ => 254

/-- ToBFP (R187) on FP32 patterns; src: the patterns that discard words are formed from (R302). -/
def toBfpFrom (xs src : List Nat) (m : Nat) (rm : RMode) : BfpBlock × Ev :=
  if xs.any isNan then (⟨0xFF, xs.map fun _ => 0⟩, evInv)
  else if xs.all fun x => x % 2 ^ 31 = 0 then (⟨0, xs.map fun _ => 0⟩, 0)
  else bfpLoop rm m (xs.map f32.dec) (src.map f32.dec) 4 (bfpScale xs)
where
  /-- An FP32 pattern is a NaN. -/
  isNan (x : Nat) : Bool := (f32.dec x).isNan

def toBfp (xs : List Nat) (m : Nat) (rm : RMode) : BfpBlock × Ev := toBfpFrom xs xs m rm

/-! ## Packing (R183) -/

/-- Mantissas of m bits as one number, the first lowest. -/
def packMant (m : Nat) (ms : List Int) : Nat :=
  match ms with
  | [] => 0
  | x :: rest => (x % (2 ^ m : Int)).toNat + 2 ^ m * packMant m rest

/-- The mantissa at position i of a packed number. -/
def mantAt (m : Nat) (bits i : Nat) : Int :=
  let v := bits / 2 ^ (m * i) % 2 ^ m
  if 2 ^ (m - 1) ≤ v then (v : Int) - 2 ^ m else v

/-- A list cut into blocks of n; fuel is at least its length. -/
def blocksOf {α : Type} (n : Nat) (fuel : Nat) (l : List α) : List (List α) :=
  match fuel with
  | 0 => []
  | k + 1 => if l.isEmpty then [] else l.take n :: blocksOf n k (l.drop n)

end Sys2Proof
end

