-- ==== Sys2Proof/Machine/Stream.lean ====
section
/-! DEFINITION. Major 0x21: stream registers (R184 to R186, R319), and the places of a stream's bytes (R185, R323). -/

namespace Sys2Proof.Machine

open Sys2Proof

def State.gReg (s : State) (g : GReg) : BitVec 256 := Tbl.getD s.cur.g g.toNat 0

def State.setG (s : State) (g : GReg) (v : BitVec 256) : State :=
  s.setCur { s.cur with g := Tbl.set s.cur.g g.toNat v }

/-- What gset accepts (R319). -/
def gsetLegal (v : BitVec 256) : Bool :=
  decide (gFmt v ≤ 11) && v.extractLsb' 128 5 = 0 && v.extractLsb' 64 8 = 0 && v.extractLsb' 0 8 = 0 &&
    decide (gBase v % 16 = 0) &&
    (gFmt v != 11 || (decide (2 ≤ gM v) && decide (gM v ≤ 16) && gBls v != 3))

/-- `gset` (R319). -/
def execGset (h : Hdr) (g : GReg) (a : AReg) (off : BitVec 18) (s : State) : Host.Outcome State Fault Refusal :=
  s.issue (cmdForm h 0x21 0 [] []) fun t =>
    match t.syncRead 32 (t.getA a + off.signExtend 64) 32 with
    | .error r => r
    | .ok (u, bs) =>
      let v := ofBytes 256 bs
      if gsetLegal v then .done (u.setG g v) else .trap .illegal 0

/-- The bases of a g-register replaced. -/
def gMove (v : BitVec 256) (base sbase : Nat) : BitVec 256 :=
  (v &&& ~~~ (((2 : BitVec 256) ^ 56 - 1) <<< 8 ||| ((2 : BitVec 256) ^ 56 - 1) <<< 72)) |||
    BitVec.ofNat 256 (base % 2 ^ 56 * 2 ^ 8 + sbase % 2 ^ 56 * 2 ^ 72)

/-- `gadv` (R319). -/
def execGadv (h : Hdr) (g : GReg) (xb xc : XReg) (s : State) : Host.Outcome State Fault Refusal :=
  s.issue (cmdForm h 0x21 1 [xb, xc] []) fun t =>
    let v := t.gReg g
    let base := (gBase v + (t.getX xb).toNat) % 2 ^ 56
    if base % 16 ≠ 0 then .trap .misalign (w64 base)
    else .done (t.setG g (gMove v base ((gSbase v + (t.getX xc).toNat) % 2 ^ 56)))

/-! ## Places of a stream's bytes -/

/-- Blocks of a strip (R186). -/
def gNb (g : BitVec 256) : Nat := ceilDiv (gKext g) (gBl g)

/-- SCALE_SHORT (R186). -/
def gShort (g : BitVec 256) : Bool := decide (gSext g < gNb g)

/-- The mantissa and scale byte ranges of kn positions of strip n from position k0, k0 a multiple of BL (R185). -/
def stripPart (g : BitVec 256) (n k0 kn : Nat) : List (Nat × Nat) :=
  [(gBase g + n * gNstr g + k0 * gM g / 8, ceilDiv (kn * gM g) 8), (gSbase g + n * gSstr g + k0 / gBl g, ceilDiv kn (gBl g))]

/-- Ranges of strips n0 to n0 + n - 1, positions 0 to KEXT - 1. -/
def stripRanges (g : BitVec 256) (n0 n : Nat) : List (Nat × Nat) :=
  ((List.range n).map fun i => stripPart g (n0 + i) 0 (gKext g)).flatten

/-- The column that holds chunk c of strip i of a tile (R323). -/
def sliceCol (nfold : Bool) (f i c : Nat) : Nat := if nfold then 1024 / f * c + i else i % 1024

/-- Ranges of a B tile with the slice each must lie in: strips n0 to n0 + n - 1, kn positions from k0; an N-fold is cut at
1,024 positions (R323). -/
def tileRanges (arr : Arr) (nfold : Bool) (f : Nat) (g : BitVec 256) (n0 n k0 kn : Nat) : List ((Nat × Nat) × Nat) :=
  let base := match arr with | .s => 0 | .v => 1024
  let chunk := if nfold then 1024 else max kn 1
  ((List.range n).map fun i =>
    ((List.range (ceilDiv kn chunk)).map fun c =>
      (stripPart g (n0 + i) (k0 + c * chunk) (min chunk (kn - c * chunk))).map fun r =>
        (r, base + sliceCol nfold f i c)).flatten).flatten

/-- The offset of a place in the near vault of a core's cluster (R61, R387). -/
def nearOff (core : Nat) (x : Xl) : Option Nat :=
  match x.place with
  | .dev pa =>
    match regionOf pa with
    | some (.vault d n) =>
      if d = coreDie core ∧ n = coreCluId core then some (pa - vaultBase (16 * d + n)) else none
    | _ => none
  | _ => none

/-- The parts of a range and their places. -/
def State.rangeXl (s : State) (g : Agent) (r : Nat × Nat) : List (Nat × Except EFail Xl) :=
  (parts r.1 r.2).map fun p => (p.2, s.agentXlat g .read p.1)

/-- A part of an A operand lies in the scratch window or the near vault; one that has no translation is not judged here. -/
def aPlaceOk (core : Nat) (p : Nat × Except EFail Xl) : Bool :=
  match p.2 with
  | .ok x => match x.place with | .scratch _ => true | _ => (nearOff core x).isSome
  | .error (.pend _ _ _) => false
  | .error _ => true

/-- A part of a B operand lies in the near vault, wholly in its slice (R323). -/
def bPlaceOk (core slice : Nat) (p : Nat × Except EFail Xl) : Bool :=
  match p.2 with
  | .ok x =>
    match nearOff core x with
    | some o => decide (o / 1024 = (o + p.1 - 1) / 1024) && decide (o / 1024 % 2048 = slice)
    | none => false
  | .error (.pend _ _ _) => false
  | .error _ => true

/-- The first translation that fails among ranges. -/
def State.rangesFault (s : State) (g : Agent) (rs : List (Nat × Nat)) : Option (Cause × Nat × Word64) :=
  ((rs.map (s.rangeXl g)).flatten).findSome? fun p =>
    match p.2 with
    | .error (.fault c r a) => some (c, r, a)
    | _ => none

/-- Every part of the ranges of an A operand is well placed. -/
def State.aPlaced (s : State) (g : Agent) (core : Nat) (rs : List (Nat × Nat)) : Bool :=
  rs.all fun r => (s.rangeXl g r).all (aPlaceOk core)

def State.bPlaced (s : State) (g : Agent) (core : Nat) (rs : List ((Nat × Nat) × Nat)) : Bool :=
  rs.all fun r => (s.rangeXl g r.1).all (bPlaceOk core r.2)

end Sys2Proof.Machine
end

