-- ==== Sys2Proof/Machine/RingOps.lean ====
section
/-! DEFINITION. Majors 0x11 and 0x12: pinning, full/empty control and buffer rings (R56, R277 to R282). -/

namespace Sys2Proof.Machine

open Sys2Proof

/-! ## Pinning -/

/-- A line's pinned contents discarded, with what was uncorrectable in them (R56, R69). -/
def Core.unpin (c : Core) (l : Nat) : Core :=
  { c with pins := Tbl.erase c.pins l, bad := c.bad.filter fun b => match b with | .pin k _ => k != l | _ => true }

/-- Lines pinned in ascending order until one finds its set full (R56). -/
def pinGo (s : State) (core : Nat) (lines : List Nat) : State × Bool :=
  match lines with
  | [] => (s, true)
  | l :: rest =>
    let c := s.getCore core
    if (Tbl.get? c.pins l).isSome then pinGo s core rest
    else if 15 ≤ (c.pins.filter fun e => e.1 % 512 = l % 512).length then (s, false)
    else
      let s := s.lmRoom core l
      let c := s.getCore core
      pinGo (s.setCore core { c.unpin l with pins := Tbl.set c.pins l ⟨0, 0⟩ }) core rest

/-- The line numbers of a window range of whole lines. -/
def linesIn (o n : Nat) : List Nat := (List.range (n / 128)).map fun i => o / 128 + i

def lmForm (h : Hdr) (sub : Nat) (xs : List XReg) (ps : List PReg) : Form := cmdForm h 0x11 sub xs ps

/-- The checks of R277 on an offset and a length. -/
def pinStop (o n : Word64) : Option (Cause × Word64) :=
  if o.toNat % 128 ≠ 0 ∨ n.toNat % 128 ≠ 0 then some (.misalign, w64 scratchBase + o)
  else if o.toNat / 2 ^ 20 ≠ 0 ∨ 0x10_0000 < o.toNat + n.toNat then some (.page, pageVal 0 (w64 scratchBase + o))
  else none

def execSppin (h : Hdr) (pc : PReg) (xa xb : XReg) (s : State) : Host.Outcome State Fault Refusal :=
  s.issue (lmForm h 0 [xa, xb] [pc]) fun t =>
    match pinStop (t.getX xa) (t.getX xb) with
    | some (c, v) => .trap c v
    | none =>
      if t.cur.scratchStorePending t.seq then .wait
      else
        let (u, ok) := pinGo t t.core (linesIn (t.getX xa).toNat (t.getX xb).toNat)
        .done (u.setFlag pc ok)

/-- Ranges of virtual addresses that a command names (R277). -/
def streamRange (g : BitVec 256) : Nat × Nat :=
  (natBits g.toNat 8 56, natBits g.toNat 208 24 * natBits g.toNat 160 32 + natBits g.toNat 232 24 * 8)

def XferKind.unit : XferKind → Nat
  | .gath e | .scat e => 2 ^ e
  | _ => 1

def recordRange (c : Option Word64) : List (Nat × Nat) := match c with | some r => [(r.toNat, 16)] | none => []

def OpKind.names : OpKind → List (Nat × Nat)
  | .xfer .pref d _ _ n _ _ _ | .xfer .invr d _ _ n _ _ _ => [(d.toNat, n)]
  | .xfer .copy d a _ n c _ _ => [(d.toNat, n), (a.toNat, n)] ++ recordRange c
  | .xfer (.gath e) d a i n c _ _ => [(d.toNat, n * 2 ^ e), (a.toNat, 2 ^ 44), (i.toNat, 4 * n)] ++ recordRange c
  | .xfer (.scat e) d a i n c _ _ => [(d.toNat, 2 ^ 44), (a.toNat, n * 2 ^ e), (i.toNat, 4 * n)] ++ recordRange c
  | .mloadb g _ _ _ _ => [streamRange g]
  | .mmul g .. => g.toList.map streamRange
  | .mattn gq gk gv .. => [streamRange gq, streamRange gk, streamRange gv]
  | .mdrainMem _ _ _ d _ n k c => [(d.toNat, 4 * n * max 1 (2 * k))] ++ recordRange c
  | .sample a n => [(a.toNat, 128 * n)]
  | .beam a n => [(a.toNat, 128 * n)]
  | .kvapp _ _ a => [(a.toNat, 16384)]
  | .coll a d _ _ _ => [(a.toNat, 64), (fld d 0x10 8, 4 * fld d 8 4), (fld d 0x18 8, 4 * fld d 8 4)]
  | .repart a d _ _ _ =>
    [(a.toNat, 128), (fld d 8 8, fld d 6 2 * fld d 0x10 4), (fld d 0x18 8, fld d 6 2 * fld d 0x14 4),
      (fld d 0x20 8, fld d 6 2 * fld d 0x10 4)]
  | .hring _ a n _ _ => [(a.toNat, 64 * n)]
  | _ => []

/-- An outstanding operation of the core names an address of the window range. -/
def Core.namesScratch (c : Core) (o n : Nat) : Bool :=
  c.ops.any fun p => !p.done &&
    ((p.kind.names.any fun r => decide (r.1 < scratchBase + o + n ∧ scratchBase + o < r.1 + r.2)) ||
      p.via.any fun v => match v.2.2.place with | .scratch q => decide (q < o + n ∧ o < q + v.2.1) | _ => false)

/-- A window range meets a configured ring or bivouac (R265, R277). -/
def Core.inRingOrBivouac (c : Core) (o n : Nat) : Bool :=
  (c.rings.any fun r => decide (r.2.base < o + n ∧ o < r.2.base + r.2.ns * r.2.sz)) ||
    (c.biv.configured && decide (c.biv.base < o + n ∧ o < c.biv.base + 2 * c.biv.len))

def execSpunp (h : Hdr) (xa xb : XReg) (s : State) : Host.Outcome State Fault Refusal :=
  s.issue (lmForm h 1 [xa, xb] []) fun t =>
    let o := t.getX xa
    let n := t.getX xb
    match pinStop o n with
    | some (c, v) => .trap c v
    | none =>
      if n != 0 && t.cur.inRingOrBivouac o.toNat n.toNat then .trap .perm (w64 scratchBase + o)
      else if t.cur.scratchStorePending t.seq || t.cur.namesScratch o.toNat n.toNat then .wait
      else
        let c := t.cur
        .done (t.setCur ((linesIn o.toNat n.toNat).foldl Core.unpin c))

/-- The first granule of [o, e) whose line is not pinned (R278). -/
def Core.unpinnedGranule (c : Core) (o e : Nat) : Option Nat :=
  let top := min e 0x10_0000
  match ((List.range ((top - o) / 16)).map fun i => o + 16 * i).find? fun g => (Tbl.get? c.pins (c.biv.line g)).isNone with
  | some g => some g
  | none => if 0x10_0000 < e then some (max o 0x10_0000) else none

/-- The copies of a bivouac run in the window range (R264). -/
def Core.rangeCopied (c : Core) (o n : Nat) : Bool :=
  c.biv.copying && decide (c.biv.base < o + n ∧ o < c.biv.base + 2 * c.biv.len)

/-- `feclr`, `feset` (R278). -/
def State.feSet (s : State) (h : Hdr) (sub : Nat) (xa xb : XReg) (full : Bool) : Host.Outcome State Fault Refusal :=
  s.issue (lmForm h sub [xa, xb] []) fun t =>
    let o := (t.getX xa).toNat
    let e := o + (t.getX xb).toNat
    if o % 16 ≠ 0 ∨ e % 16 ≠ 0 then .trap .misalign (w64 scratchBase + t.getX xa)
    else if e ≤ o then (if t.cur.scratchStorePending t.seq then .wait else .done t)
    else
      match t.cur.unpinnedGranule o e with
      | some g => .trap .page (pageVal 3 (w64 (scratchBase + g)))
      | none =>
        if t.cur.scratchStorePending t.seq || t.cur.rangeCopied o (e - o) then .wait
        else .done (t.setCur (t.cur.setFullR o (e - o) full))

def execFeclr (h : Hdr) (xa xb : XReg) (s : State) : Host.Outcome State Fault Refusal := s.feSet h 2 xa xb false

def execFeset (h : Hdr) (xa xb : XReg) (s : State) : Host.Outcome State Fault Refusal := s.feSet h 3 xa xb true

/-! ## Buffer rings -/

/-- A ring the kernel uses and has configured (R279). -/
def State.ringOf (s : State) (b : BRing) : Option Ring :=
  match s.inst with
  | some i => if i.rings.getLsbD b.toNat then Tbl.get? s.cur.rings b.toNat else none
  | none => none

def State.setRing (s : State) (b : BRing) (r : Ring) : State :=
  let c := s.cur
  s.setCur { c with rings := Tbl.set c.rings b.toNat r }

/-- The window address of count c's slot. -/
def Ring.slotAddr (r : Ring) (c : BitVec 32) : Word64 := w64 (scratchBase + r.base + c.toNat % r.ns * r.sz)

/-- The oldest acquired slot neither released nor claimed (R281). -/
def Ring.oldest (r : Ring) : Option (BitVec 32) :=
  ((List.range (r.aq - r.fl).toNat).map fun i => r.fl + BitVec.ofNat 32 i).find? fun c =>
    !r.released.contains c && !r.claims.contains c

/-- FL advances over released slots that follow it directly. -/
def advanceGo (fuel : Nat) (r : Ring) : Ring :=
  match fuel with
  | 0 => r
  | f + 1 =>
    if r.released.contains r.fl then advanceGo f { r with fl := r.fl + 1, released := r.released.erase r.fl } else r

/-- A slot released (R281). -/
def Ring.release (r : Ring) (c : BitVec 32) : Ring :=
  let r := { r with released := r.released ++ [c], claims := r.claims.erase c }
  advanceGo r.released.length r

def ringForm (h : Hdr) (two : Bool) (sub : Nat) : Form := scalar h two 0x12 sub [] []

def execRacq (h : Hdr) (b : BRing) (a : AReg) (s : State) : Host.Outcome State Fault Refusal :=
  s.issue (ringForm h false 0) fun t =>
    match t.ringOf b with
    | none => .trap .illegal 0
    | some r =>
      if r.ns ≤ (r.aq - r.cn).toNat || t.mustYield (fun w => w = .slot b.toNat) then .waitOn (.slot b.toNat)
      else .done ((t.setA a (r.slotAddr r.aq)).setRing b { r with aq := r.aq + 1 })

def execRrel (h : Hdr) (b : BRing) (s : State) : Host.Outcome State Fault Refusal :=
  s.issue { ringForm h false 1 with drains := true } fun t =>
    match t.ringOf b with
    | none => .trap .illegal 0
    | some r =>
      match r.oldest with
      | none => .trap .illegal 0
      | some c => .done (t.setRing b (r.release c))

def execRwait (h : Hdr) (b : BRing) (a : AReg) (n : BitVec 7) (s : State) : Host.Outcome State Fault Refusal :=
  s.issue (ringForm h false 2) fun t =>
    match t.ringOf b with
    | none => .trap .illegal 0
    | some r =>
      if r.ns < n.toNat then .trap .illegal 0
      else if (r.fl - r.cn).toNat < n.toNat then .wait
      else .done (t.setA a (r.slotAddr r.cn))

def execRadv (h : Hdr) (b : BRing) (n : BitVec 7) (s : State) : Host.Outcome State Fault Refusal :=
  s.issue (ringForm h false 3) fun t =>
    match t.ringOf b with
    | none => .trap .illegal 0
    | some r =>
      if (r.fl - r.cn).toNat < n.toNat then .trap .illegal 0
      else .done (t.setRing b { r with cn := r.cn + n.setWidth 32 })

/-- `rcfg` (R280). -/
def execRcfg (h : Hdr) (b : BRing) (base : BitVec 13) (lines slots : BitVec 7) (s : State) :
    Host.Outcome State Fault Refusal :=
  s.issue (ringForm h true 4) fun t =>
    let inRings := match t.inst with | some i => i.rings.getLsbD b.toNat | none => false
    let busy := match Tbl.get? t.cur.rings b.toNat with | some r => decide (r.aq ≠ r.cn) | none => false
    let o := base.toNat * 128
    let sz := (lines.toNat + 1) * 128
    let ns := slots.toNat + 1
    if !inRings || busy then .trap .illegal 0
    else if 0x10_0000 < o + ns * sz then .trap .page (pageVal 0 (w64 (scratchBase + o)))
    else
      match (linesIn o (ns * sz)).find? fun l => (Tbl.get? t.cur.pins l).isNone with
      | some l => .trap .page (pageVal 3 (w64 (scratchBase + 128 * l)))
      | none => .done (t.setRing b ⟨o, sz, ns, 0, 0, 0, [], []⟩)

end Sys2Proof.Machine
end

