-- ==== Sys2Proof/Machine/Xfer.lean ====
section
/-! DEFINITION. Major 0x10: copy, gather, scatter, prefetch, invalidate, as they are accepted (R272 to R276). -/

namespace Sys2Proof.Machine

open Sys2Proof

/-- The checks of a CNT record and of a FILL at acceptance (R272). -/
def State.cntFillStop (s : State) (cnt : Option Word64) (fill : Option BRing) : Option Res :=
  let c1 : Option Res := match cnt with
    | some r =>
      if r.toNat / 2 ^ 56 ≠ 0 then some (.trap .page (pageVal 4 r))
      else if r.toNat % 16 ≠ 0 then some (.trap .misalign r)
      else match s.check (some s.core) s.asid s.sq.sup .amo false 8 r with
        | .ok _ => none
        | .error e => some e.res
    | none => none
  match c1 with
  | some r => some r
  | none =>
    match fill with
    | some b =>
      match s.ringOf b with
      | none => some (.trap .illegal 0)
      | some r => if r.oldest.isNone then some (.trap .illegal 0) else none
    | none => none

/-- The slot that a FILL claims, if any (R281). -/
def State.claim (s : State) (fill : Option BRing) : State × Option (Nat × BitVec 32) :=
  match fill with
  | none => (s, none)
  | some b =>
    match s.ringOf b with
    | some r =>
      match r.oldest with
      | some c => (s.setRing b { r with claims := r.claims ++ [c] }, some (b.toNat, c))
      | none => (s, none)
    | none => (s, none)

/-- A claimed slot of a core's ring released as filled (R272). -/
def State.releaseFill (s : State) (core : Nat) (fill : Option (Nat × BitVec 32)) : State :=
  match fill with
  | none => s
  | some (b, c) =>
    let k := s.getCore core
    match Tbl.get? k.rings b with
    | some r => s.setCore core { k with rings := Tbl.set k.rings b (r.release c) }
    | none => s

/-- Acceptance of a command with its group: a dead group's command completes at once without effect (R84). -/
def State.acceptWith (s : State) (f : Form) (maj sub : Nat) (k : Ctr) (acq : OScope) (go : State → Res) : Res :=
  if !s.alive s.cmdGroup then .done (s.addOp f maj sub k none none .null true)
  else
    match s.acceptCmd acq with
    | .error r => r
    | .ok t => go t

/-- A copy, gather or scatter (R272). -/
def State.xfer (s : State) (h : Hdr) (sub : Nat) (kind : XferKind) (listed : Bool) (a b : AReg) (c : XReg) (acq rel : OScope)
    (k : Ctr) (cnt : Option XReg) (fill : Option BRing) : Host.Outcome State Fault Refusal :=
  let f := cmdForm h 0x10 sub ([c] ++ (if listed then [xPlus c 1] else []) ++ cnt.toList) []
  s.issueAsync f 0x10 sub k fun _ t =>
    let idx := t.getX c
    let n := if listed then lo32 (t.getX (xPlus c 1)) else lo32 idx
    let rec_ := cnt.map t.getX
    if listed && c = 15 then .trap .illegal 0
    else if listed && idx.toNat % 4 ≠ 0 then .trap .misalign idx
    else
      match t.cntFillStop rec_ fill with
      | some r => r
      | none =>
        if !t.alive t.cmdGroup then
          let (u, slot) := t.claim fill
          .done ((u.releaseFill u.core slot).addOp f 0x10 sub k none none .null true)
        else
          match t.acceptCmd acq with
          | .error r => r
          | .ok t =>
            let (u, slot) := t.claim fill
            .done (u.addOp f 0x10 sub k acq rel (.xfer kind (u.getA a) (u.getA b) idx n rec_ slot none) false)

def execCopy (h : Hdr) (a b : AReg) (c : XReg) (acq rel : OScope) (k : Ctr) (cnt : Option XReg) (fill : Option BRing)
    (s : State) : Host.Outcome State Fault Refusal := s.xfer h 0 .copy false a b c acq rel k cnt fill

def execGath (h : Hdr) (a b : AReg) (c : XReg) (esz : BitVec 4) (acq rel : OScope) (k : Ctr) (cnt : Option XReg)
    (fill : Option BRing) (s : State) : Host.Outcome State Fault Refusal :=
  s.xfer h 1 (.gath esz.toNat) true a b c acq rel k cnt fill

def execScat (h : Hdr) (a b : AReg) (c : XReg) (esz : BitVec 4) (acq rel : OScope) (k : Ctr) (cnt : Option XReg)
    (fill : Option BRing) (s : State) : Host.Outcome State Fault Refusal :=
  s.xfer h 2 (.scat esz.toNat) true a b c acq rel k cnt fill

/-- The 128-byte lines that overlap [a, a + n), by address. -/
def linesOver (a n : Nat) : List Nat :=
  if n = 0 then [] else (List.range ((a + n - 1) / 128 - a / 128 + 1)).map fun i => (a / 128 + i) * 128

def execPref (h : Hdr) (a : AReg) (c : XReg) (k : Ctr) (s : State) : Host.Outcome State Fault Refusal :=
  let f := cmdForm h 0x10 3 [c] []
  s.issueAsync f 0x10 3 k fun _ t =>
    t.acceptWith f 0x10 3 k none fun u =>
      .done (u.addOp f 0x10 3 k none none (.xfer .pref (u.getA a) 0 0 (lo32 (u.getX c)) none none none) false)

/-- Where the line at an address may lie, whatever the rights on it: by the tables as they stand and by every translation that
a TLB still holds (R49, R276). -/
def State.linesAtVa (s : State) (asid va : Nat) : List Xl :=
  let va := va % 2 ^ 56
  let local_ (v : Nat) : List Xl := (s.walkAs asid v :: s.held asid v).filterMap fun w => match w with
    | .leaf e l => some ⟨.dev (natBits e 16 36 * 2 ^ 16 + v % pageSize l), 1, true, none⟩
    | _ => none
  if va / 2 ^ 55 % 2 = 1 then
    if natBits va 43 12 = s.modId.toNat then local_ (va % 2 ^ 43)
    else [⟨.remote (natBits va 43 12) (va % 2 ^ 43), 1, true, none⟩]
  else if inScratch va then [⟨.scratch (va - scratchBase), 1, false, none⟩]
  else local_ va

/-- `invr` (R276): the control L1's lines go before the next instruction issues. -/
def execInvr (h : Hdr) (a : AReg) (c : XReg) (k : Ctr) (s : State) : Host.Outcome State Fault Refusal :=
  let f := cmdForm h 0x10 4 [c] []
  s.issueAsync f 0x10 4 k fun _ t =>
    t.acceptWith f 0x10 4 k none fun u =>
      let addr := u.getA a
      let n := lo32 (u.getX c)
      let via := (linesOver addr.toNat n).flatMap fun v => (u.linesAtVa u.asid v).map fun x => (v, 128, x)
      let u := via.foldl (fun t v => t.l1Drop t.core (l1Key t.core t.asid v.2.2)) u
      .done (u.putOp f 0x10 4 k none none (.xfer .invr addr 0 0 n none none none) via false)

end Sys2Proof.Machine
end

