-- ==== Sys2Proof/Machine/Matrix.lean ====
section
/-! DEFINITION. Majors 0x22 to 0x26 as they are accepted: belays, B tiles, products, attention, drains, banks (R314 to R318,
R320, R321, R324 to R331). -/

namespace Sys2Proof.Machine

open Sys2Proof

/-! ## Geometry -/

/-- Depth and width of an array under a fold (R324 Table 4). -/
def foldDepth (nfold : Bool) (f : Nat) : Nat := if nfold then 1024 * f else 1024 / f

def foldWidth (nfold : Bool) (f : Nat) : Nat := if nfold then 1024 / f else 1024 * f

/-- FMT is BFP with a mantissa width of 2 to hi (Table 2 code 1); a reserved BLS is never written under BFP. -/
def bfpOk (g : BitVec 256) (hi : Nat) : Bool :=
  gFmt g = 11 && decide (2 ≤ gM g) && decide (gM g ≤ hi) && gBls g != 3

/-- The first geometry check that fails, by its reason (R315). -/
def firstReason (l : List (Bool × Nat)) : Option Nat := (l.find? (·.1)).map (·.2)

/-- Tile tasks of a command (R324, R325, R329). -/
def OpKind.tasks : OpKind → Nat
  | .mmul _ _ _ _ _ _ _ _ rows _ _ _ => max 1 (ceilDiv rows 16)
  | .mattn _ _ _ d _ _ _ _ => ceilDiv d.nk (1024 * attnFold d.d)
  | _ => 1
where
  /-- The fold factor of an attention command (R108). -/
  attnFold (d : Nat) : Nat := if 8 * d ≤ 1024 then 8 else if 4 * d ≤ 1024 then 4 else if 2 * d ≤ 1024 then 2 else 1

def attnFold (d : Nat) : Nat := OpKind.tasks.attnFold d

/-! ## Banks and planes as later commands see them at acceptance (R321, R322) -/

/-- Bank number of an array: current, or the other one. -/
def Core.bankOf (c : Core) (arr : Arr) (alt : Bool) : Nat :=
  match arr with
  | .s => bn (c.curS != alt)
  | .v => 2 + bn (c.curV != alt)

def Core.bank (c : Core) (b : Nat) : Bank := Tbl.getD c.banks b Bank.start

/-- Mode and shape; 0 rows of a bank that is not empty: not known before its chain head is (R325). -/
structure BankShape where
  mode : BankMode
  rows : Nat
  cols : Nat
  deriving DecidableEq, Repr

def Bank.shape (b : Bank) : BankShape := ⟨b.mode, b.rows, b.cols⟩

/-- The mode of a product. -/
def listMode (list : Option (Nat × Word32)) : BankMode := match list with | some (k, _) => .list k | none => .sum

/-- The shape that a command leaves in bank b. -/
def OpKind.shapes (k : OpKind) (b : Nat) : Option BankShape :=
  match k with
  | .mmul _ _ init _ list _ bank _ rows cols _ _ => if init && bank = b then some ⟨listMode list, rows, cols⟩ else none
  | .mattn _ _ _ d _ _ bank rows => if d.init && bank = b then some ⟨.sum, rows, d.d⟩ else none
  | _ => none

/-- A bank's shape once every accepted command has run. -/
def Core.bankShape (c : Core) (b : Nat) : BankShape :=
  c.ops.foldl (fun sh o => if o.done then sh else (o.kind.shapes b).getD sh) (c.bank b).shape

/-- An accumulating command's shape agrees with the bank's. -/
def BankShape.agrees (a b : BankShape) : Bool :=
  a.mode = b.mode && a.mode != .empty && a.cols = b.cols && (a.rows = b.rows || a.rows = 0 || b.rows = 0)

/-- What the bank holds fits (R321). -/
def BankShape.fits (a : BankShape) : Bool :=
  match a.mode with
  | .list k => decide (a.cols * k ≤ 16384)
  | _ => decide (a.rows * a.cols ≤ 32768)

/-- Plane numbers of an array: the one the core's last mloadb loads, and the other (R322). -/
def Core.lastPlane (c : Core) (arr : Arr) : Nat := match arr with | .s => bn c.lastS | .v => 2 + bn c.lastV

def Core.nextPlane (c : Core) (arr : Arr) : Nat := match arr with | .s => bn (!c.lastS) | .v => 2 + bn (!c.lastV)

def Core.flipPlane (c : Core) (arr : Arr) : Core :=
  match arr with
  | .s => { c with lastS := !c.lastS }
  | .v => { c with lastV := !c.lastV }

def Core.plane (c : Core) (p : Nat) : Plane := Tbl.getD c.planes p Plane.start

/-- The later of two tiles, by the number of its load. -/
def laterTile (a b : Option (Nat × BitVec 256 × Bool × Nat)) : Option (Nat × BitVec 256 × Bool × Nat) :=
  match a, b with
  | some x, some y => if x.1 ≤ y.1 then b else a
  | none, b => b
  | a, none => a

/-- The tile of plane p once every accepted mloadb has run, cancelled ones too: its stream and fold. -/
def Core.tileOf (c : Core) (p : Nat) : Option (BitVec 256 × Bool × Nat) :=
  let pl := c.plane p
  let now := if pl.load = 0 then none else some (pl.load - 1, pl.g, pl.nfold, pl.fold)
  let dead := pl.dead.foldl (fun t d => laterTile t (some d)) now
  (c.ops.foldl (fun t o =>
    match o.kind with
    | .mloadb g _ nf f q => if !o.done && q = p then laterTile t (some (o.id, g, nf, f)) else t
    | _ => t) dead).map (·.2)

/-- A load of plane p, of this number, has completed CANCELLED (R318). -/
def Core.deadLoad (c : Core) (p id : Nat) (g : BitVec 256) (nfold : Bool) (fold : Nat) : Core :=
  let pl := c.plane p
  { c with planes := Tbl.set c.planes p { pl with dead := pl.dead ++ [(id, g, nfold, fold)] } }

/-- Command id finds its tile cancelled: the last load of its plane before it completed CANCELLED (R318). -/
def Plane.cancelledFor (p : Plane) (id : Nat) : Bool := p.dead.any fun d => decide (p.load ≤ d.1 ∧ d.1 < id)

/-! ## Acceptance (R315, R35, R36) -/

/-- The checks of R315 after the geometry's reason, in order. -/
def State.matrixChecks (s : State) (reason : Option Nat) (short : Option GReg) (bad : Option (Cause × Nat × Word64))
    (go : Res) : Res :=
  if !s.cur.leased then .trap .lease 0
  else
    match reason, short, bad with
    | some r, _, _ => .trap .illegal (w64 r)
    | none, some g, _ => .trap .scaleShort (g.setWidth 64)
    | none, none, some (c, r, a) => (stopOf c r a).res
    | none, none, none => go

/-- Entries of a cluster's table in use. The manual gives a matrix command one or more entries and not how many; here it has
one for every task not yet issued, at most 32, so that a larger command enters an empty table (log entry 53). -/
def State.tableUsed (s : State) (k : Nat) : Nat :=
  ((s.getCluster k).table.map fun e =>
    match (s.getCore e.1).findOp e.2 with
    | some o => min 32 (o.kind.tasks - o.prog)
    | none => 0).foldl (· + ·) 0

/-- The core's belay run is active (R35). -/
def Cluster.active (c : Cluster) (core : Nat) : Bool :=
  c.holder = some core && !c.freed && decide (c.cmds < 16) && decide (c.clocks < 4096)

/-- A command of a dead group completes CANCELLED (R317, R318). -/
def State.cancelNow (s : State) (f : Form) (maj sub : Nat) (k : Ctr) : State :=
  let s := s.addOp f maj sub k none none .null true
  s.setCur { s.cur with mCancelled := true }

/-- The command enters the table (R36). -/
def State.enterTable (s : State) (f : Form) (maj sub : Nat) (k : Ctr) (acq : OScope) (kind : OpKind) : State :=
  let id := s.cur.nextOp
  let t := s.addOp f maj sub k acq none kind false
  let n := coreCluster t.core
  let cl := t.getCluster n
  t.setCluster n { cl with table := cl.table ++ [(t.core, id)], cmds := cl.cmds + 1 }

/-- It stalls for its run, for room and for what ACQ waits for, then enters. -/
def State.acceptMatrix (s : State) (f : Form) (maj sub : Nat) (k : Ctr) (acq : OScope) (kind : OpKind) : Res :=
  let n := coreCluster s.core
  if !(s.getCluster n).active s.core || decide (32 < s.tableUsed n + min 32 kind.tasks) then .wait
  else
    match s.acceptCmd acq with
    | .error r => r
    | .ok t => .done (t.enterTable f maj sub k acq kind)

def matrixForm (h : Hdr) (maj sub : Nat) (xs : List XReg) (ps : List PReg) : Form :=
  { cmdForm h maj sub xs ps with matrix := true }

/-! ## Belays (R320) -/

/-- The core waits in its cluster's arbitration at a level; a request that waits already takes the new level. -/
def State.enterArbitration (s : State) (core level : Nat) : State :=
  let n := coreCluster core
  let cl := s.getCluster n
  if cl.holder = some core && !cl.freed then s
  else if cl.waiting.any (·.1 = core) then
    s.setCluster n { cl with waiting := cl.waiting.map fun w => if w.1 = core then (core, level) else w }
  else s.setCluster n { cl with waiting := cl.waiting ++ [(core, level)] }

/-- Without a lease the core enters arbitration, also while entries of a run that `mfree` ended keep the pair (R34, R320). -/
def execMlease (h : Hdr) (lvl : BitVec 2) (k : Ctr) (s : State) : Host.Outcome State Fault Refusal :=
  let f := matrixForm h 0x22 0 [] []
  s.issueAsync f 0x22 0 k fun _ t =>
    if !t.alive t.cmdGroup then .done (t.cancelNow f 0x22 0 k)
    else
      let had := t.cur.leased
      let u := t.setCur { t.cur with leased := true, level := lvl.toNat }
      if had then .done (u.addOp f 0x22 0 k none none .mlease true)
      else
        let cl := u.getCluster (coreCluster u.core)
        let u := u.enterArbitration u.core lvl.toNat
        .done (u.addOp f 0x22 0 k none none .mlease (cl.holder = some u.core && !cl.freed))

/-- Operations of a core that wait for its grant complete (R320). -/
def Core.granted (c : Core) : Core :=
  Core.retire { c with ops := c.ops.map fun (o : Op) => match o.kind with | .mlease => { o with done := true } | _ => o }

/-- `mfree` (R35, R320): the run of a holder ends, and accepted entries keep the pair; a core without entries that waits
leaves the arbitration. -/
def execMfree (h : Hdr) (s : State) : Host.Outcome State Fault Refusal :=
  s.issue (matrixForm h 0x22 1 [] []) fun t =>
    if !t.cur.leased then .done t
    else
      let u := t.setCur { t.cur with leased := false }
      let n := coreCluster u.core
      let cl := u.getCluster n
      if cl.holder = some u.core && !cl.freed then .done (u.setCluster n { cl with freed := true })
      else if cl.holder != some u.core && cl.table.any (·.1 = u.core) then .done u
      else
        let u := u.setCluster n { cl with waiting := cl.waiting.filter fun w => w.1 != u.core }
        .done (u.setCur u.cur.granted)

/-! ## mloadb (R324) -/

def execMloadb (h : Hdr) (g : GReg) (arr : Arr) (nfold : Bool) (f2 : BitVec 2) (acq : OScope) (k : Ctr) (s : State) :
    Host.Outcome State Fault Refusal :=
  let f := matrixForm h 0x23 0 [] []
  s.issueAsync f 0x23 0 k fun _ t =>
    let v := t.gReg g
    let fac := 2 ^ f2.toNat
    let rs := tileRanges arr nfold fac v 0 (gNext v) 0 (gKext v)
    let small := decide (gKext v ≤ foldDepth nfold fac) && decide (gNext v ≤ foldWidth nfold fac)
    let reason := firstReason [(!bfpOk v 8, 1), (gKext v = 0 || decide (foldDepth nfold fac < gKext v), 3),
      (gNext v = 0 || decide (foldWidth nfold fac < gNext v), 4),
      (small && !t.bPlaced t.selfAgent t.core rs, 6)]
    t.matrixChecks reason (if gShort v then some g else none) (t.rangesFault t.selfAgent (rs.map (·.1)))
      (let p := t.cur.nextPlane arr
       if !t.alive t.cmdGroup then
         let u := t.setCur ((t.cur.flipPlane arr).deadLoad p t.cur.nextOp v nfold fac)
         .done (u.cancelNow f 0x23 0 k)
       else
         match t.acceptMatrix f 0x23 0 k acq (.mloadb v arr nfold fac p) with
         | .done u => .done (u.setCur (u.cur.flipPlane arr))
         | r => r)

/-! ## mmul (R325 to R328) -/

/-- The value of column c's pair k - 1, the threshold of R156. -/
def Bank.theta (b : Bank) (k c : Nat) : Nat :=
  (wordPair (Tbl.getD b.pairs (c * k + (k - 1)) (BitVec.ofNat 64 (pairWord emptyPair))).toNat).1

/-- A bound lies below every threshold of a bank's columns (R156). -/
def Bank.above (b : Bank) (k cols : Nat) (ub : Word32) : Bool :=
  (List.range cols).all fun c => (f32.dec ub.toNat).lt (f32.dec (b.theta k c))

/-- A product's bound as it enters the table: with it, whether it lies below thresholds of the very lists the product will
meet, which can only rise until its tasks issue (R157). -/
def Core.boundNow (c : Core) (init : Bool) (list : Option (Nat × Word32)) (bank cols : Nat) (ub : Word32) : Word32 × Bool :=
  match list with
  | some (k, _) => (ub, !init && decide ((c.bank bank).mode = .list k) && (c.bank bank).above k cols ub &&
      c.ops.all fun o => o.done || (o.kind.shapes bank).isNone)
  | none => (ub, false)

/-- Rows of a product: of the stream, of the bound shape, or not yet known. -/
def State.mmulRows (s : State) (ga : Option GReg) (ragged : Bool) : Nat :=
  match ga with
  | none => 0
  | some g => if ragged then (match s.cur.shape with | some r => r.ntok | none => gNext (s.gReg g)) else gNext (s.gReg g)

def execMmul (h : Hdr) (ga : Option GReg) (arr : Arr) (init ragged : Bool) (fe : FEq) (list : Option (XReg × BitVec 6))
    (bound : Option XReg) (acq : OScope) (k : Ctr) (s : State) : Host.Outcome State Fault Refusal :=
  let f := matrixForm h 0x24 0 ((list.map (·.1)).toList ++ bound.toList) []
  s.issueAsync f 0x24 0 k fun _ t =>
    let c := t.cur
    let p := c.lastPlane arr
    let tile := c.tileOf p
    let av := ga.map t.gReg
    let rows := t.mmulRows ga ragged
    let cols := match tile with | some (b, _, _) => gNext b | none => 0
    let lst : Option (Nat × Word32) := list.map fun l => (l.2.toNat + 1, (t.getX l.1).setWidth 32)
    let bank := c.bankOf arr false
    let sh : BankShape := ⟨listMode lst, rows, cols⟩
    let onA (q : BitVec 256 → Bool) : Bool := match av with | some a => q a | none => false
    let onAB (q : BitVec 256 → BitVec 256 → Bool) : Bool :=
      match av, tile with | some a, some (b, _, _) => q a b | _, _ => false
    let rs := match av with | some a => stripRanges a 0 rows | none => []
    let reason := firstReason [
      (onA fun a => !bfpOk a 16, 1),
      (onAB fun a b => gBl a != gBl b, 2),
      ((onA fun a => gKext a = 0) || (onAB fun a b => gKext a != gKext b), 3),
      (onA fun a => gNext a = 0 || decide (gNext a < rows), 4),
      ((bound.isSome && list.isNone) || (tile.isSome && (!sh.fits || (!init && !(c.bankShape bank).agrees sh))), 5),
      (!t.aPlaced t.selfAgent t.core rs, 6),
      (tile.isNone, 7),
      (ga.isNone && c.chain.isSome, 9),
      (ragged && c.shape.isNone, 10)]
    t.matrixChecks reason (if onA gShort then ga else none) (t.rangesFault t.selfAgent rs)
      (if !t.alive t.cmdGroup then .done (t.cancelNow f 0x24 0 k)
       else
         let ub := bound.map fun x => c.boundNow init lst bank cols ((t.getX x).setWidth 32)
         match t.acceptMatrix f 0x24 0 k acq (.mmul av arr init fe lst ub bank p rows cols (c.chain.getD 0) []) with
         | .done u => .done (u.setCur { u.cur with chain := none })
         | r => r)

/-! ## Ragged shape records (R114, R115) -/

/-- The header of a shape record: NROWS and NTOK, or none where it is refused. -/
def shapeHead (bs : List Byte) : Option (Nat × Nat) :=
  let n := fld bs 4 2
  let ntok := fld bs 8 4
  if fld bs 0 4 = 0x5348_5052 ∧ 1 ≤ n ∧ n ≤ 1024 ∧ 1 ≤ ntok ∧ ntok ≤ 65536 ∧ fld bs 6 2 = 0 ∧ fld bs 12 52 = 0 then
    some (n, ntok)
  else none

/-- The entries from number i on; start is where the next segment must begin. -/
def shapeRows (bs : List Byte) (fuel i start : Nat) : Option (List (Word32 × Word32 × Word64 × Nat × Nat) × Nat) :=
  match fuel with
  | 0 => some ([], start)
  | n + 1 =>
    let o := 32 * i
    let len := fld bs (o + 20) 4
    if fld bs (o + 16) 4 = start ∧ len ≠ 0 ∧ fld bs (o + 24) 8 = 0 then
      match shapeRows bs n (i + 1) (start + len) with
      | some (l, e) =>
        some ((BitVec.ofNat 32 (fld bs o 4), BitVec.ofNat 32 (fld bs (o + 4) 4), w64 (fld bs (o + 8) 8), start, len) :: l, e)
      | none => none
    else none

/-- A shape record read as loads of the running sequencer: none where it is read whole and refused. -/
def State.readShape (s : State) (addr : Word64) : Except Res (State × Option ShapeRec) :=
  match s.syncRead 64 addr 64 with
  | .error r => .error r
  | .ok (t, hd) =>
    match shapeHead hd with
    | none => .ok (t, none)
    | some (n, ntok) =>
      match t.syncRead 8 (addr + 64) (32 * n) with
      | .error r => .error r
      | .ok (u, bs) =>
        match shapeRows bs n 0 0 with
        | some (rows, e) => .ok (u, if e = ntok then some ⟨ntok, rows⟩ else none)
        | none => .ok (u, none)

/-- `mshape` (R331). -/
def execMshape (h : Hdr) (xa : XReg) (pc : PReg) (s : State) : Host.Outcome State Fault Refusal :=
  s.issue (matrixForm h 0x26 3 [xa] [pc]) fun t =>
    match t.readShape (t.getX xa) with
    | .error r => r
    | .ok (u, sh) => .done ((u.setCur { u.cur with shape := sh }).setFlag pc sh.isSome)

/-! ## mattn (R329) -/

/-- The descriptor's fields, and the address of its shape record; none where reserved or out of range (Table 1). -/
def attnDesc (bs : List Byte) : Option (AttnDesc × Word64) :=
  let fl := fld bs 4 4
  let seg := natBits fl 1 1 = 1
  let d : AttnDesc :=
    { scale := BitVec.ofNat 32 (fld bs 0 4), causal := natBits fl 0 1 = 1, segment := seg, init := natBits fl 2 1 = 1,
      norm := natBits fl 3 1 = 1, nq := fld bs 8 4, nk := fld bs 12 4, kbase := fld bs 16 4, qbase := fld bs 20 4,
      coff := (BitVec.ofNat 32 (fld bs 24 4)).toInt, pfx := fld bs 28 4, d := fld bs 32 2 }
  if fl / 16 = 0 ∧ fld bs 34 6 = 0 ∧ fld bs 48 16 = 0 ∧ 1 ≤ d.nk ∧ d.nk ≤ 2 ^ 24 ∧ 1 ≤ d.d ∧ d.d ≤ 1024 ∧
      (seg ∨ (1 ≤ d.nq ∧ d.nq ≤ 65536)) then some (d, w64 (fld bs 40 8)) else none

/-- Keys of pass number i of an attention command. -/
def passKeys (d : AttnDesc) (i : Nat) : Nat := min (1024 * attnFold d.d) (d.nk - i * (1024 * attnFold d.d))

/-- The K and V ranges of a pass with their slices (R108, R323). -/
def passRanges (gk gv : BitVec 256) (d : AttnDesc) (i : Nat) : List ((Nat × Nat) × Nat) :=
  let f := attnFold d.d
  let k0 := i * (1024 * f)
  tileRanges .s false f gk k0 (passKeys d i) 0 (gKext gk) ++ tileRanges .v true f gv 0 (gNext gv) k0 (passKeys d i)

/-- An attention command whose descriptor has been read. One that names a bad record passes the checks that need no row count of
it, and completes BADSHAPE (R115, R315; log entry 71). -/
def State.acceptAttn (s : State) (f : Form) (gq gk gv : GReg) (fe : FEq) (acq : OScope) (k : Ctr)
    (desc : Option (AttnDesc × Word64)) (shape : Option ShapeRec) (badRec : Bool) : Res :=
  let q := s.gReg gq
  let kk := s.gReg gk
  let v := s.gReg gv
  match desc with
  | none => .trap .illegal 8
  | some (d, _) =>
    let rows := if badRec then 0 else match shape with | some r => r.ntok | none => d.nq
    let bank := s.cur.bankOf .v false
    let now := s.cur.bankShape bank
    let sh : BankShape := ⟨.sum, rows, d.d⟩
    let isList := match now.mode with | .list _ => true | _ => false
    let formed := bfpOk q 16 && bfpOk kk 8 && bfpOk v 8
    let sized := gKext q = d.d && gKext kk = d.d && gNext kk = d.nk && gKext v = d.nk && gNext v = d.d
    let kv := ((List.range (ceilDiv d.nk (1024 * attnFold d.d))).map fun i => passRanges kk v d i).flatten
    let qr := stripRanges q 0 rows
    let reason := firstReason [(!formed, 1), (gBl q != gBl kk || gBl v != 32, 2), (gKext q != d.d || gKext kk != d.d, 3),
      (decide (gNext q < rows) || gNext kk != d.nk || gKext v != d.nk || gNext v != d.d, 4),
      (decide (1024 < rows) || !sh.fits || isList || (!d.init && !badRec && !now.agrees sh), 5),
      (formed && sized && (!s.bPlaced s.selfAgent s.core kv || !s.aPlaced s.selfAgent s.core qr), 6)]
    let short := [(gq, q), (gk, kk), (gv, v)].find? fun e => gShort e.2
    s.matrixChecks reason (short.map (·.1)) (s.rangesFault s.selfAgent (qr ++ kv.map (·.1)))
      (if !s.alive s.cmdGroup then .done (s.cancelNow f 0x25 0 k)
       else if badRec then .done ((s.setCur { s.cur with mBadShape := true }).addOp f 0x25 0 k none none .null true)
       else s.acceptMatrix f 0x25 0 k acq (.mattn q kk v d shape fe bank rows))

def execMattn (h : Hdr) (gq gk gv : GReg) (xd : XReg) (fe : FEq) (acq : OScope) (k : Ctr) (s : State) :
    Host.Outcome State Fault Refusal :=
  let f := matrixForm h 0x25 0 [xd] []
  s.issueAsync f 0x25 0 k fun _ t =>
    let addr := t.getX xd
    if !t.cur.leased then .trap .lease 0
    else if !inScratch addr.toNat || decide (addr.toNat % 64 ≠ 0) then .trap .misalign addr
    else
      match t.syncRead 64 addr 64 with
      | .error r => r
      | .ok (u, bs) =>
        match attnDesc bs with
        | none => .trap .illegal 8
        | some (d, sa) =>
          if d.segment then
            match u.readShape sa with
            | .error r => r
            | .ok (v, sh) => v.acceptAttn f gq gk gv fe acq k (some (d, sa)) sh sh.isNone
          else u.acceptAttn f gq gk gv fe acq k (some (d, sa)) none false

/-! ## Drains and swaps (R330, R331) -/

/-- Units that a bank of this shape holds under a drain mode; none where the mode does not match. -/
def BankShape.units (b : BankShape) (mode : DrainMode) : Option Nat :=
  match mode, b.mode with
  | .sums, .sum => some (b.rows * b.cols)
  | .rowMax, .sum => some b.rows
  | .rowSum, .sum => some b.rows
  | .list, .list _ => some b.cols
  | _, _ => none

def BankShape.k (b : BankShape) : Nat := match b.mode with | .list k => k | _ => 0

/-- The shape waits for a chain head's row count. -/
def BankShape.unknown (b : BankShape) : Bool := b.mode = .sum && b.rows = 0

def execMdrainTile (h : Hdr) (arr : Arr) (alt : Bool) (mode : DrainMode) (t : BitVec 5) (row nr : BitVec 4) (xa : XReg)
    (acq : OScope) (k : Ctr) (s : State) : Host.Outcome State Fault Refusal :=
  let f := { matrixForm h 0x26 0 [xa] [] with
    seqs := [.exec], tiles := [t.toNat], rw := rowsOf t.toNat row.toNat (nr.toNat + 1) }
  s.issueAsync f 0x26 0 k fun _ u =>
    let bank := u.cur.bankOf arr alt
    let sh := u.cur.bankShape bank
    let first := (u.getX xa).toNat
    let n := nr.toNat + 1
    let per := listRows sh.k
    let count := if mode = .list then n / per else 64 * n
    if sh.unknown then .wait
    else
      match sh.units mode with
      | none => .trap .illegal 5
      | some filled =>
        if filled < first + count ∨ (mode = .list ∧ n % per ≠ 0) then .trap .illegal 5
        else
          if !u.alive u.cmdGroup then .done (u.cancelNow f 0x26 0 k) else
          match u.acceptCmd acq with
          | .error r => r
          | .ok v =>
            .done (v.addOp f 0x26 0 k acq none (.mdrainTile arr bank mode t.toNat row.toNat nr.toNat first sh.k) false)

def execMdrainMemory (h : Hdr) (arr : Arr) (alt : Bool) (mode : DrainMode) (cnt : Option XReg) (xa : XReg) (b : AReg)
    (xc : XReg) (acq rel : OScope) (k : Ctr) (s : State) : Host.Outcome State Fault Refusal :=
  let f := { matrixForm h 0x26 0 ([xa, xc] ++ cnt.toList) [] with seqs := [.store] }
  s.issueAsync f 0x26 0 k fun _ u =>
    let bank := u.cur.bankOf arr alt
    let sh := u.cur.bankShape bank
    let first := (u.getX xa).toNat
    let n := (u.getX xc).toNat
    let dst := u.getA b
    let bytes := n * (if mode = .list then 8 * sh.k else 4)
    if sh.unknown then .wait
    else
      match sh.units mode with
      | none => .trap .illegal 5
      | some filled =>
        if filled < first + n then .trap .illegal 5
        else
          match u.check (some u.core) u.asid u.sq.sup .write false 16 dst with
          | .error e => e.res
          | .ok _ =>
            match (parts dst.toNat bytes).findSome? fun p =>
                match u.check (some u.core) u.asid u.sq.sup .write false 1 (w64 p.1) with
                | .error e => some e
                | .ok _ => none with
            | some e => e.res
            | none =>
              match u.cntFillStop (cnt.map u.getX) none with
              | some r => r
              | none =>
                if !u.alive u.cmdGroup then .done (u.cancelNow f 0x26 0 k) else
                match u.acceptCmd acq with
                | .error r => r
                | .ok v =>
                  .done (v.addOp f 0x26 0 k acq rel (.mdrainMem arr bank mode dst first n sh.k (cnt.map u.getX)) false)

def execMswap (h : Hdr) (arr : Arr) (s : State) : Host.Outcome State Fault Refusal :=
  s.issue (matrixForm h 0x26 1 [] []) fun t =>
    .done (t.setCur (match arr with
      | .s => { t.cur with curS := !t.cur.curS }
      | .v => { t.cur with curV := !t.cur.curV }))

/-- `mchain` (R327). -/
def execMchain (h : Hdr) (n : BitVec 2) (s : State) : Host.Outcome State Fault Refusal :=
  s.issue (matrixForm h 0x26 2 [] []) fun t =>
    if n = 0 ∨ 3 < coreCluId t.core % 4 + n.toNat then .trap .illegal 9
    else .done (t.setCur { t.cur with chain := some n.toNat })

end Sys2Proof.Machine
end

