-- ==== Sys2Proof/Machine/Trans.lean ====
section
/-! DEFINITION. The exponential, the logarithm, the reciprocal and the reciprocal square root, rounded once (R305).
Each is computed to 2^-290 and better with a last bit that stands for the rest, which decides every rounding: e^a and ln a
of a number other than 0 and 1 are irrational. -/

namespace Sys2Proof

/-- ln 2 × 2^300, rounded down. -/
def ln2Fixed : Int := 0xb17217f7d1cf79abc9e3b39803f2f6af40f343267298b62d8a0d175b8baafa2be7b876206de

def one300 : Int := 2 ^ 300

/-- Terms i, i + 1, ... of the power series of e^r, the term t included; r and t scaled by 2^300. -/
def expGo (r : Int) (fuel i : Nat) (t acc : Int) : Int :=
  match fuel with
  | 0 => acc
  | n + 1 => expGo r n (i + 1) (t * r / one300 / (i : Int)) (acc + t)

/-- e^a as a value. -/
def FVal.exp (a : FVal) : FVal × Ev :=
  match a with
  | .nan s => (.nan false, if s then evInv else 0)
  | .inf neg => (if neg then .fin false 0 0 else .inf false, 0)
  | .fin neg m e =>
    if m = 0 then (.fin false 1 0, 0)
    else if 8 ≤ e + Nat.log2 m then (.fin false 1 (if neg then -1000 else 1000), 0)
    else
      let x := scaled neg m (e + 300) 0
      let k := (2 * x + ln2Fixed) / (2 * ln2Fixed)
      let v := expGo (x - k * ln2Fixed) 70 1 one300 0
      (.fin false (2 * v.toNat + 1) (k - 301), 0)

/-- The terms z^(2 i + 1) / (2 i + 1) from i on, p being the power; z2 = z × z. -/
def atanhGo (z2 : Int) (fuel i : Nat) (p acc : Int) : Int :=
  match fuel with
  | 0 => acc
  | n + 1 => atanhGo z2 n (i + 1) (p * z2 / one300) (acc + p / (2 * (i : Int) + 1))

/-- ln a as a value. -/
def FVal.log (a : FVal) : FVal × Ev :=
  match a with
  | .nan s => (.nan false, if s then evInv else 0)
  | .inf neg => if neg then (.nan false, evInv) else (.inf false, 0)
  | .fin neg m e =>
    if m = 0 then (.inf true, 0)
    else if neg then (.nan false, evInv)
    else
      let l := Nat.log2 m
      let hi := decide (3 * 2 ^ l ≤ 2 * m)
      let l' := if hi then l + 1 else l
      let f : Int := (m * 2 ^ 300 / 2 ^ l' : Nat)
      let ex : Int := e + l'
      if ex = 0 ∧ f = one300 then (.fin false 0 0, 0)
      else
        let z := (f - one300) * one300 / (f + one300)
        let r := ex * ln2Fixed + 2 * atanhGo (z * z / one300) 75 0 z 0
        (.fin (decide (r < 0)) (2 * r.natAbs + 1) (-301), 0)

/-- 1 / a as a value. -/
def FVal.rcp (a : FVal) : FVal × Ev := (FVal.fin false 1 0).div a

/-- 1 / Sqrt(a) as a value. -/
def FVal.rsq (a : FVal) : FVal × Ev :=
  match a with
  | .nan s => (.nan false, if s then evInv else 0)
  | .inf neg => if neg then (.nan false, evInv) else (.fin false 0 0, 0)
  | .fin neg m e =>
    if m = 0 then (.inf neg, 0)
    else if neg then (.nan false, evInv)
    else
      let m' := if e % 2 = 0 then m else 2 * m
      let e' := if e % 2 = 0 then e else e - 1
      let r := isqrt (2 ^ 600 / m')
      (.fin false (2 * r + (if r * r * m' = 2 ^ 600 then 0 else 1)) (-301 - e' / 2), 0)

/-- The Exp of the engines: vexp on FP32 (R305). -/
def exp32 (a : Nat) : Nat × Ev := f32.op (f32.dec a).exp

end Sys2Proof
end

