-- ==== Sys2Proof/Machine/Sums.lean ====
section
/-! DEFINITION. What the arrays and the soft-maximum stage compute: column sums under folds (R190 to R192), attention passes
(R110 to R112). -/

namespace Sys2Proof

/-- The blocks of kn positions of a strip from its mantissa and scale bytes (R183, R185, R186). -/
def stripBlocks (g : BitVec 256) (kn : Nat) (mant scale : List Byte) : List BfpBlock :=
  let bl := gBl g
  let bits := leNat mant
  (List.range (ceilDiv kn bl)).map fun b =>
    ⟨(scale.getD b 0).toNat, (List.range bl).map fun i => if b * bl + i < kn then mantAt (gM g) bits (b * bl + i) else 0⟩

/-- The exact value of one block of A against one of B (R191). -/
def blockVal (mA mB : Nat) (a b : BfpBlock) : FVal × Ev :=
  if a.e = 0xFF ∨ b.e = 0xFF then (.nan false, evInv)
  else
    let q := (List.zipWith (· * ·) a.m b.m).foldl (· + ·) 0
    (.fin (decide (q < 0)) q.natAbs ((a.e : Int) + b.e - 254 - ((mA : Int) - 1) - ((mB : Int) - 1)), 0)

/-- RoundF32(s + v) on an FP32 pattern s. -/
def add32 (s : Nat) (v : FVal) : Nat × Ev := f32.op ((f32.dec s).add v)

/-- Blocks rounded into a running sum one by one. -/
def runSum (mA mB : Nat) (s : Nat) (ev : Ev) (ps : List (BfpBlock × BfpBlock)) : Nat × Ev :=
  match ps with
  | [] => (s, ev)
  | (a, b) :: rest =>
    let (v, e1) := blockVal mA mB a b
    let (r, e2) := add32 s v
    runSum mA mB r (ev ||| e1 ||| e2) rest

/-- The results of an N-fold's groups combined in ascending order (Table 6). -/
def joinSums (s : Nat) (ev : Ev) (gs : List (Nat × Ev)) : Nat × Ev :=
  match gs with
  | [] => (s, ev)
  | (g, e) :: rest =>
    let (r, e2) := add32 s (f32.dec g)
    joinSums r (ev ||| e ||| e2) rest

/-- Blocks of zeros follow a running sum: -0 becomes +0 (R108, R191). -/
def zeroBlocks (on : Bool) (r : Nat × Ev) : Nat × Ev := if on then ((add32 r.1 (.fin false 0 0)).1, r.2) else r

/-- Raw(i, j) (R191): chunk is the number of blocks of an N-fold's group, 0 for no N-fold; groups that no block reaches sum
to +0 (Table 6). pad: positions up to the array's depth read as zero (R108). -/
def rawSum (mA mB chunk groups : Nat) (pad : Bool) (a b : List BfpBlock) : Nat × Ev :=
  let ps := List.zip a b
  if chunk = 0 then zeroBlocks pad (runSum mA mB 0 0 ps)
  else
    let sums := ((List.range groups).map fun i => (ps.drop (chunk * i)).take chunk).map fun g =>
      zeroBlocks (pad && g.length < chunk) (runSum mA mB 0 0 g)
    match sums with
    | [] => (0, 0)
    | (g, e) :: rest => joinSums g e rest

/-! ## The soft-maximum stage (R110, R111) -/

/-- A query row: its maximum, its sum, its output, and the events so far. -/
structure AttnRow where
  m : Nat
  l : Nat
  o : List Nat
  ev : Ev
  deriving DecidableEq, Repr

/-- IEEE maximum; a NaN operand gives NaN. -/
def maxNan (a b : Nat) : Nat :=
  if isNan32 a || isNan32 b then f32.nanBits else (f32.minMax true a b).1

def negInf32 : Nat := 0xFF80_0000

/-- The row sum of quantised weights in ascending order. -/
def sumValues (l : List FVal) (s : Nat) (ev : Ev) : Nat × Ev :=
  match l with
  | [] => (s, ev)
  | v :: rest =>
    let (r, e) := add32 s v
    sumValues rest r (ev ||| e)

/-- A list of operations with their events collected. -/
def mapEv {α β : Type} (f : α → β × Ev) (l : List α) : List β × Ev :=
  (l.map fun x => (f x).1, l.foldl (fun e x => e ||| (f x).2) 0)

/-- RoundF32(RoundF32(x × c) + y). -/
def scaleAdd (c x y : Nat) : Nat × Ev :=
  let (p, e1) := f32.mul x c
  let (r, e2) := f32.add p y
  (r, e1 ||| e2)

/-- One pass over a row: its scores Raw, the keys it sees, and the V array's sums for a row of weights (R110). -/
def attnPass (scale : Nat) (raws : List Nat) (vis : List Bool) (pv : List BfpBlock → List Nat × Ev) (r : AttnRow) : AttnRow :=
  let (s, e0) := mapEv (fun x => f32.mul scale x) raws
  let seen := ((List.zip s vis).filter (·.2)).map (·.1)
  let top := match seen with | [] => negInf32 | x :: rest => rest.foldl maxNan x
  let (mn, c, ps, e1) : Nat × Nat × List Nat × Ev :=
    if top = negInf32 then (r.m, 0x3F80_0000, s.map fun _ => 0, 0)
    else
      let mn := maxNan r.m top
      let (d, ea) := f32.sub r.m mn
      let (c, eb) := exp32 d
      let (ps, ec) := mapEv (fun (x : Nat × Bool) =>
        if x.2 then
          let (y, e) := f32.sub x.1 mn
          let (z, e') := exp32 y
          (z, e ||| e')
        else (0, 0)) (List.zip s vis)
      (mn, c, ps, ea ||| eb ||| ec)
  let n := ceilDiv ps.length 32
  let (bs, e2) := mapEv (fun b => toBfp b 8 .rne) (blocksOf 32 n (ps ++ List.replicate (32 * n - ps.length) 0))
  let vals := (bs.map fun b => b.m.map fun x => if b.e = 0xFF then FVal.nan false else bfpValue x b.e 8).flatten
  let (ls, e3) := sumValues vals 0 0
  let (l, e4) := scaleAdd c r.l ls
  let (pvs, e5) := pv bs
  let (o, e6) := mapEv (fun (x : Nat × Nat) => scaleAdd c x.1 x.2) (List.zip r.o pvs)
  ⟨mn, l, o, r.ev ||| e0 ||| e1 ||| e2 ||| e3 ||| e4 ||| e5 ||| e6⟩

/-- A row after the last pass: NORM, and INV where a NaN stands in it (R111). Of a row with l = 0 whose O holds a NaN one
bullet of R111 says +0 and another NaN: it gives +0 here (DESIGN CHOICE, log entry 61). A NaN in one element of O stays
that element's (DESIGN CHOICE, log entry 68). -/
def attnFinish (norm : Bool) (r : AttnRow) : AttnRow :=
  let r :=
    if !norm then r
    else if r.l % 2 ^ 31 = 0 then { r with o := r.o.map fun _ => 0, ev := r.ev ||| evInv }
    else
      let (o, e) := mapEv (fun x => f32.op ((f32.dec x).div (f32.dec r.l))) r.o
      { r with o := o, ev := r.ev ||| e }
  if isNan32 r.m || isNan32 r.l || r.o.any isNan32 then { r with ev := r.ev ||| evInv } else r

end Sys2Proof

namespace Sys2Proof.Machine

open Sys2Proof

/-! ## Visibility (R112) -/

/-- The segment that holds token i: its number and START. -/
def segGo (rows : List (Word32 × Word32 × Word64 × Nat × Nat)) (n i : Nat) : Option (Nat × Nat) :=
  match rows with
  | [] => none
  | (_, _, _, start, len) :: rest => if start ≤ i ∧ i < start + len then some (n, start) else segGo rest (n + 1) i

/-- Visible(i, j) of query row i and absolute key j. -/
def visible (d : AttnDesc) (shape : Option ShapeRec) (i j : Nat) : Bool :=
  match shape with
  | none => !d.causal || decide ((j : Int) ≤ (d.qbase : Int) + i + d.coff)
  | some sh =>
    match segGo sh.rows 0 i with
    | none => false
    | some (e, start) =>
      let qpos : Int := (d.pfx : Int) + i - start
      if j < d.pfx then !d.causal || decide ((j : Int) ≤ qpos + d.coff)
      else
        match segGo sh.rows 0 (j - d.pfx) with
        | none => false
        | some (e', start') =>
          e = e' && (!d.causal || decide ((d.pfx : Int) + ((j - d.pfx : Nat) : Int) - start' ≤ qpos + d.coff))

end Sys2Proof.Machine
end

