-- ==== Sys2Proof/Machine/Arrays.lean ====
section
/-! DEFINITION. The matrix pair at work: arbitration, tile tasks, drains (R34 to R37, R108 to R113, R155 to R157, R316 to
R318, R322, R325 to R330). Array time: rows times mantissa bits, and R322's figure for a B tile (log entry 11). -/

namespace Sys2Proof.Machine

open Sys2Proof

/-! ## Arbitration (R34, R35) -/

/-- A core has entries in a cluster's table, or a task on an array. -/
def Cluster.uses (c : Cluster) (core : Nat) : Bool :=
  c.table.any (·.1 = core) || (match c.onS with | some t => t.core = core | none => false) ||
    (match c.onV with | some t => t.core = core | none => false)

/-- The run of the holder is over: a limit is reached, or `mfree` has ended it and its last entry has finished (R35, R320). -/
def State.runOver (s : State) (cl : Cluster) (core : Nat) : Bool :=
  let idle := !(match cl.onS with | some t => t.core = core | none => false) &&
    !(match cl.onV with | some t => t.core = core | none => false)
  idle && (decide (16 ≤ cl.cmds) || decide (4096 ≤ cl.clocks) || ((cl.freed || !(s.getCore core).leased) && !cl.uses core))

/-- The belay run of a cluster's holder ends (R35): it enters arbitration again at its level while it keeps its lease or
has entries left. -/
def execBelayRunEnd (cluster : Nat) (s : State) : Host.Outcome State Fault Refusal :=
  let cl := s.getCluster cluster
  match cl.holder with
  | none => .next s
  | some core =>
    if !s.runOver cl core then .next s
    else
      let t := s.setCluster cluster { cl with holder := none, cmds := 0, clocks := 0, freed := false }
      let c := t.getCore core
      if c.leased || cl.uses core then .next (t.enterArbitration core c.level) else .next t

/-- The position of a core in the round-robin order that starts after core `last` (R34). -/
def turnAfter (last core : Nat) : Nat := (core % 8 + 8 - last % 8 - 1) % 8

/-- The request granted next: the highest level, then core order after the last holder at that level (R34). -/
def Cluster.nextGrant (c : Cluster) : Option (Nat × Nat) :=
  c.waiting.foldl (fun best w =>
    match best with
    | none => some w
    | some b =>
      let pos (x : Nat × Nat) := turnAfter (Tbl.getD c.last x.2 7) x.1
      if b.2 < w.2 ∨ (b.2 = w.2 ∧ pos w < pos b) then some w else best) none

/-- The arbiter grants the pair (R34); operations that wait for the grant complete (R320). A core that has released its lease
since it asked is granted for its entries alone, as the run of a holder goes on after `mfree` (R35). -/
def execBelayGrant (cluster : Nat) (s : State) : Host.Outcome State Fault Refusal :=
  let cl := s.getCluster cluster
  match cl.holder, cl.nextGrant with
  | none, some (core, level) =>
    let t := s.setCluster cluster { cl with
      holder := some core, cmds := (Tbl.getD cl.carried core (0, 0)).1, clocks := (Tbl.getD cl.carried core (0, 0)).2,
      carried := Tbl.erase cl.carried core, waiting := cl.waiting.filter (fun w => w.1 != core),
      freed := !(s.getCore core).leased, last := Tbl.set cl.last level core }
    .next (t.setCore core (t.getCore core).granted)
  | _, _ => .next s

/-! ## How a command ends (R317, R318, R361) -/

def State.untable (s : State) (core id : Nat) : State :=
  let k := coreCluster core
  let cl := s.getCluster k
  s.setCluster k { cl with table := cl.table.filter fun e => !(e.1 = core && e.2 = id) }

/-- What a command that has not run leaves of the plane it was to load: unusable, or a cancelled load (R318). Later loads that have
been cancelled before it stay so. -/
def Core.failPlane (c : Core) (o : Op) : Core :=
  match o.kind with
  | .mloadb g _ nf f p =>
    { c with planes := Tbl.set c.planes p ⟨.failed o.pc, g, nf, f, [], [], false, o.id + 1, (c.plane p).dead⟩ }
  | _ => c

def Core.cancelPlane (c : Core) (o : Op) : Core :=
  match o.kind with
  | .mloadb g _ nf f p => c.deadLoad p o.id g nf f
  | _ => c

/-- Entries not yet issued are removed and the command completes CANCELLED (R37, R318). -/
def State.cancelCmd (s : State) (core : Nat) (o : Op) : State :=
  let t := s.untable core o.id
  let c := (t.getCore core).cancelPlane o
  (t.setCore core { c with mCancelled := true }).doneOp core o.id

def State.failCmd (s : State) (core : Nat) (o : Op) (cause reason : Nat) (addr : Word64) : State :=
  let t := s.untable core o.id
  (t.setCore core ((t.getCore core).failPlane o)).failOp core o cause reason addr o.prog

def State.failCmdE (s : State) (core : Nat) (o : Op) (e : EFail) : State :=
  match e with
  | .pend m off n => s.askEng core o m off n
  | .held => s
  | .fault c r a => s.failCmd core o c.code.toNat r a

/-- A tile task has issued or been skipped; the command completes after its last (R317). -/
def State.advanceCmd (s : State) (core : Nat) (o : Op) (issued : Bool) : State :=
  let t := s.setCore core ((s.getCore core).updOp o.id fun x => { x with prog := o.prog + 1 })
  if !issued && o.prog + 1 = o.kind.tasks then (t.untable core o.id).doneOp core o.id else t

/-- A task table's skip (R113, R156). -/
def State.countSkip (s : State) (cluster : Nat) : State :=
  let cl := s.getCluster cluster
  s.setCluster cluster { cl with skips := BitVec.ofNat 32 (satU (cl.skips.toNat + 1) 32) }

/-! ## Which core uses an array (R322) -/

/-- A core's planes of an array have to be loaded again. -/
def Core.losePlanes (c : Core) (arr : Arr) : Core :=
  let mine (p : Nat) : Bool := match arr with | .s => decide (p < 2) | .v => decide (2 ≤ p)
  { c with planes := Tbl.mapVals c.planes fun p x => if mine p then { x with lost := true } else x }

/-- A core's run uses an array: the planes of the core that used it before have to be loaded again. Whether a core's own
`mattn` leaves the planes of its own earlier loads as they are the manual does not say; here it does (log entry 54). -/
def State.useArray (s : State) (cluster core : Nat) (arr : Arr) : State :=
  let cl := s.getCluster cluster
  let user := match arr with | .s => cl.userS | .v => cl.userV
  let s := match user with
    | some u => if u = core then s else s.setCore u ((s.getCore u).losePlanes arr)
    | none => s
  let cl := s.getCluster cluster
  s.setCluster cluster (match arr with | .s => { cl with userS := some core } | .v => { cl with userV := some core })

def State.putTask (s : State) (cluster : Nat) (arr : Arr) (t : ArrTask) : State :=
  let cl := s.getCluster cluster
  s.setCluster cluster (match arr with | .s => { cl with onS := some t } | .v => { cl with onV := some t })

def Cluster.free (c : Cluster) (arr : Arr) : Bool := match arr with | .s => c.onS.isNone | .v => c.onV.isNone

/-! ## Ready entries (R36, R316, R322, R330) -/

/-- The bank a command writes or a drain reads. -/
def OpKind.bank : OpKind → Option Nat
  | .mmul _ _ _ _ _ _ b _ _ _ _ _ => some b
  | .mattn _ _ _ _ _ _ b _ => some b
  | .mdrainTile _ b _ _ _ _ _ _ => some b
  | .mdrainMem _ b _ _ _ _ _ _ => some b
  | _ => none

/-- The plane a command loads or reads. -/
def OpKind.plane : OpKind → Option Nat
  | .mloadb _ _ _ _ p => some p
  | .mmul _ _ _ _ _ _ _ p _ _ _ _ => some p
  | _ => none

/-- A drain has read its bank, though its writes are still to be acknowledged. -/
def Op.drained (o : Op) : Bool := match o.kind with | .mdrainMem .. => o.prog != 0 | _ => false

/-- No earlier command of the core that shares a bank or a plane is unfinished (R322, R330). -/
def Core.inTurn (c : Core) (o : Op) : Bool :=
  (c.earlier o.id).all fun w => w.done || w.drained || !((o.kind.bank.isSome && w.kind.bank = o.kind.bank) ||
    (o.kind.plane.isSome && w.kind.plane = o.kind.plane))

/-- Rows of task number u of a command of R rows. -/
def taskRows (rows u : Nat) : Nat := min 16 (rows - 16 * u)

/-- The next task of a command can issue on an array: its own order and its declared inputs. Receivers of a chain are
judged without inputs. A younger entry may pass an older one that is full and waits for something else, such as attention's
other array or a chain's receivers (R36; DESIGN CHOICE, log entry 68). -/
def State.taskReady (s : State) (cluster core : Nat) (o : Op) (arr : Arr) : Bool :=
  let c := s.getCore core
  let cl := s.getCluster cluster
  !o.done && decide (o.prog < o.kind.tasks) && c.inTurn o &&
    match o.kind with
    | .mloadb g a _ _ _ => a = arr && s.rangesFull core o .none (stripRanges g 0 (gNext g))
    | .mmul ga a _ fe _ _ _ _ rows _ _ _ =>
      a = arr && match ga with
        | some g => s.rangesFull core o fe (stripRanges g (16 * o.prog) (taskRows rows o.prog))
        | none => true
    | .mattn q k v d _ fe _ rows =>
      arr = .s && cl.free .s && cl.free .v &&
        s.rangesFull core o fe (stripRanges q 0 rows ++ (passRanges k v d o.prog).map (·.1))
    | _ => false

/-- Every sequencer of a core has stopped or ended. -/
def Core.allStopped (c : Core) : Bool :=
  (c.seqC.stopped || c.seqC.ended) && (c.seqL.stopped || c.seqL.ended) && (c.seqX.stopped || c.seqX.ended) &&
    (c.seqS.stopped || c.seqS.ended)

/-- The instance of a core is to be pre-empted and has stopped (R355, R402). -/
def Core.halted (c : Core) : Bool :=
  (match c.inst with | some i => i.preempt.isSome | none => false) && c.allStopped

/-- The entries of the holder of a cluster with their operations, oldest first; none of one that has stopped to be pre-empted,
whose current task alone still ends (R41, R402). -/
def State.holderOps (s : State) (cluster : Nat) : List (Nat × Op) :=
  let cl := s.getCluster cluster
  match cl.holder with
  | none => []
  | some core =>
    if !(decide (cl.cmds < 16) && decide (cl.clocks < 4096)) || (s.getCore core).halted then []
    else cl.table.filterMap fun e =>
      if e.1 = core then ((s.getCore core).findOp e.2).map fun o => (core, o) else none

def Op.isWest (o : Op) : Bool := match o.kind with | .mmul none _ _ _ _ _ _ _ _ _ _ _ => true | _ => false

def Op.chain (o : Op) : Nat := match o.kind with | .mmul _ _ _ _ _ _ _ _ _ _ n _ => n | _ => 0

/-- The instances and operations an entry is chained to. -/
def Op.peers (o : Op) : List (Nat × Nat × Nat) := match o.kind with | .mmul _ _ _ _ _ _ _ _ _ _ _ l => l | _ => []

/-- An operation under a name that stays when its instance moves to another core (R41): launch, instance, operation. -/
def State.refOf (s : State) (core id : Nat) : Nat × Nat × Nat :=
  match (s.getCore core).inst with
  | some i => (i.launch, i.inst, id)
  | none => (0, 0, id)

/-- Where an operation is: unfinished on a core, in an image, or over. -/
inductive RefAt where
  | on (core : Nat) (o : Op)
  | saved
  | gone

def Core.unfinished (c : Core) (id : Nat) : Option Op :=
  match c.findOp id with
  | some o => if o.done then none else some o
  | none => none

def State.findRef (s : State) (r : Nat × Nat × Nat) : RefAt :=
  match s.cores.find? fun e => match e.2.inst with | some i => i.launch = r.1 && i.inst = r.2.1 | none => false with
  | some (core, c) => match c.unfinished r.2.2 with | some o => .on core o | none => .gone
  | none =>
    if s.images.any fun m => m.launch = r.1 && m.inst = r.2.1 && (m.core.bind fun c => c.unfinished r.2.2).isSome then .saved
    else .gone

/-- A receiver that no head holds; one whose head has ended before it goes on waiting for another (R328, log entry 55). -/
def State.unpaired (s : State) (o : Op) : Bool := o.peers.all fun r => match s.findRef r with | .gone => true | _ => false

/-- The receiver that a cluster's table offers a head on an array: the holder's oldest issuable one (R36, R328). -/
def State.receiver (s : State) (cluster : Nat) (arr : Arr) : Option (Nat × Op) :=
  if !(s.getCluster cluster).free arr then none
  else
    match (s.holderOps cluster).find? fun e =>
        s.taskReady cluster e.1 e.2 arr && (if e.2.isWest then s.unpaired e.2 else e.2.chain = 0) with
    | some e => if e.2.isWest then some e else none
    | none => none

/-- The receivers a head's next task issues with: those it still has to be paired with at its first, or those it was paired with that remain; none
when one of them cannot issue now (R328). -/
def State.chainPeers (s : State) (cluster : Nat) (o : Op) (arr : Arr) : Option (List (Nat × Op)) :=
  if o.chain ≠ 0 then (List.range o.chain).mapM fun i => s.receiver (cluster + i + 1) arr
  else
    let at_ := o.peers.map s.findRef
    let live := at_.filterMap fun r => match r with | .on c w => some (c, w) | _ => none
    if (at_.all fun r => match r with | .saved => false | _ => true) && live.all fun e =>
        let k := coreCluster e.1
        (s.getCluster k).free arr && (s.holderOps k).any (fun x => x.1 = e.1 && x.2.id = e.2.id) &&
          s.taskReady k e.1 e.2 arr
    then some live else none

/-! ## Products (R155, R191, R192, R325) -/

/-- The pairs of column c. -/
def Bank.column (b : Bank) (k c : Nat) : List RPair :=
  (List.range k).map fun j => wordPair (Tbl.getD b.pairs (c * k + j) (BitVec.ofNat 64 (pairWord emptyPair))).toNat

/-- INIT gives the bank its mode and shape; its side store and its lists start anew (R325, R330). -/
def Bank.init (b : Bank) (sh : BankShape) : Bank :=
  { b with
    mode := sh.mode, rows := sh.rows, cols := sh.cols, maxs := [], sums := [],
    pairs := match sh.mode with | .list _ => [] | _ => b.pairs,
    nans := match sh.mode with | .list _ => 0 | _ => b.nans }

def Core.setBank (c : Core) (b : Nat) (v : Bank) : Core := { c with banks := Tbl.set c.banks b v }

/-- What rows of A, by number, give in a bank: the words to write and the events. rows: number and blocks. -/
def productTask (mA mB chunk fold : Nat) (b : Bank) (init : Bool) (cols : Nat) (list : Option (Nat × Word32))
    (rows : List (Nat × List BfpBlock)) (tile : List (List BfpBlock)) : ArrTask :=
  let out : List (Nat × Nat × Nat × Ev) := (rows.map fun r =>
    (List.range cols).map fun c =>
      let (x, e) := rawSum mA mB chunk fold false r.2 (tile.getD c [])
      (r.1, c, x, e)).flatten
  let ev0 := out.foldl (fun e x => e ||| x.2.2.2) 0
  match list with
  | none =>
    let vals := out.map fun x =>
      let i := x.1 * cols + x.2.1
      if init then (i, x.2.2.1, (0 : Ev))
      else
        let (v, e) := add32 (Tbl.getD b.vals i 0).toNat (f32.dec x.2.2.1)
        (i, v, e)
    ⟨0, 0, 0, vals.map fun v => (v.1, BitVec.ofNat 32 v.2.1), [], [], [], vals.foldl (fun e v => e ||| v.2.2) ev0, 0, 0⟩
  | some (k, base) =>
    let nans := (out.filter fun x => isNan32 x.2.2.1).length
    let pairs := ((List.range cols).map fun c =>
      let mine := (out.filter fun x => x.2.1 = c).map fun x => (x.2.2.1, (base.toNat + x.1) % 2 ^ 32)
      let l := topK (b.column k c ++ (offer mine).1) k
      (List.range k).map fun j => (c * k + j, BitVec.ofNat 64 (pairWord (l.getD j emptyPair)))).flatten
    ⟨0, 0, 0, [], [], [], pairs, if nans = 0 then ev0 else ev0 ||| evInv, nans, 0⟩

/-- The strips of a loaded plane as blocks. -/
def Plane.blocks (p : Plane) : List (List BfpBlock) :=
  List.zipWith (fun m e => stripBlocks p.g (gKext p.g) m e) p.mant p.scale

/-- Bytes of a tile as R322 counts them. -/
def tileBytes (g : BitVec 256) : Nat := gNext g * ceilDiv (gKext g * gM g) 8

/-- Clocks of a B tile (R322). -/
def tileClocks (g : BitVec 256) : Nat := max 16 (ceilDiv (tileBytes g) 8192)

/-- The mantissa and scale bytes of the strips of a B tile, or how their reading fails. -/
def State.readTile (s : State) (g : Agent) (v : BitVec 256) : Except EFail (List (List Byte) × List (List Byte)) :=
  match s.readRanges g ((List.range (gNext v)).map fun i => ((stripPart v i 0 (gKext v)).getD 0 (0, 0))),
      s.readRanges g ((List.range (gNext v)).map fun i => ((stripPart v i 0 (gKext v)).getD 1 (0, 0))) with
  | .ok m, .ok e => .ok (m, e)
  | .error e, _ => .error e
  | _, .error e => .error e

/-- A strip read again: each 8-byte part holds its old or its new bytes (R322). -/
def State.mixStrip (s : State) (salt base : Nat) (old new : List Byte) : List Byte :=
  (List.range new.length).map fun i =>
    if s.freeBool (salt + (base + i) / 8 + 2 ^ 84) then new.getD i 0 else old.getD i 0

/-- A core's plane loaded again before it is read, after another core's run has used the array (R322). -/
def State.reload (s : State) (core p : Nat) (g : Agent) : Except EFail State :=
  let c := s.getCore core
  let pl := c.plane p
  if !pl.lost then .ok s
  else
    match s.readTile g pl.g with
    | .error e => .error e
    | .ok (m, e) =>
      let at_ (i j : Nat) := ((stripPart pl.g i 0 (gKext pl.g)).getD j (0, 0)).1
      let mix (j : Nat) (old new : List (List Byte)) :=
        (List.range new.length).map fun i => s.mixStrip (2 ^ 60 * j) (at_ i j) (old.getD i []) (new.getD i [])
      let k := coreCluster core
      let cl := s.getCluster k
      let s := s.setCluster k { cl with clocks := cl.clocks + (if cl.holder = some core then tileClocks pl.g else 0) }
      .ok (s.setCore core { c with
        planes := Tbl.set c.planes p { pl with mant := mix 0 pl.mant m, scale := mix 1 pl.scale e, lost := false } })

/-- The rows of A that task number u streams. -/
def State.readRows (s : State) (core : Nat) (o : Op) (g : BitVec 256) (rows u : Nat) :
    Except EFail (List (Nat × List BfpBlock)) :=
  let ns := (List.range (taskRows rows u)).map fun i => 16 * u + i
  let a := s.opAgent core o
  match s.readRanges a (ns.map fun n => (stripPart g n 0 (gKext g)).getD 0 (0, 0)),
      s.readRanges a (ns.map fun n => (stripPart g n 0 (gKext g)).getD 1 (0, 0)) with
  | .ok m, .ok e => .ok (List.zip ns (List.zipWith (fun x y => stripBlocks g (gKext g) x y) m e))
  | .error e, _ => .error e
  | _, .error e => .error e

/-- Whether a product's task can go on an array. -/
inductive Prep where
  | ready (s : State)
  /-- its command has ended -/
  | over (s : State)
  /-- a reload has to be asked for -/
  | wait (s : State)

/-- The bank a product's next task works on: with INIT its first task starts it anew (R325). -/
def State.productBank (s : State) (core : Nat) (o : Op) : Bank :=
  match o.kind with
  | .mmul _ _ init _ list _ bank _ rows cols _ _ =>
    let b := (s.getCore core).bank bank
    if init && o.prog = 0 then b.init ⟨listMode list, rows, cols⟩ else b
  | _ => Bank.start

/-- A product's tile and bank are such that its next task can run; else the command ends (R318, R321, R322). -/
def State.prepProduct (s : State) (core : Nat) (o : Op) : Prep :=
  match o.kind with
  | .mmul _ _ init _ list _ _ p rows cols _ _ =>
    let pl := (s.getCore core).plane p
    if pl.cancelledFor o.id then .over (s.cancelCmd core o)
    else
      match pl.state with
      | .failed pc => .over (s.failCmd core o 13 4 (pc.setWidth 64))
      | _ =>
        if !init && !((s.productBank core o).shape.agrees ⟨listMode list, rows, cols⟩) then .over (s.failCmd core o 13 2 0)
        else
          match s.reload core p (s.opAgent core o) with
          | .error (.fault c r a) => .over (s.failCmdE core o (.fault c r a))
          | .error e => .wait (s.failCmdE core o e)
          | .ok t => .ready t
  | _ => .over s

/-- A product's task put on an array for the rows it is given (R325); ga: the stream of A, the head's under WEST. -/
def State.runProduct (s : State) (core : Nat) (o : Op) (ga : BitVec 256) (rows : List (Nat × List BfpBlock)) : State :=
  match o.kind with
  | .mmul _ arr init _ list _ bank p _ cols _ _ =>
    let c := s.getCore core
    let b := s.productBank core o
    let pl := c.plane p
    let chunk := if pl.nfold then 1024 / gBl pl.g else 0
    let task := productTask (gM ga) (gM pl.g) chunk pl.fold b init cols list rows pl.blocks
    let k := coreCluster core
    let t := s.setCore core (c.setBank bank b)
    let t := (t.useArray k core arr).putTask k arr
      { task with core := core, op := o.id, unit := o.prog, clocks := rows.length * gM ga }
    t.advanceCmd core o true
  | _ => s

/-- The table skips the task: its bound lies below every threshold of its span. It must where it did at acceptance already;
where only later values lie above it, the table may (R156, R157). The first task under INIT meets empty lists. -/
def State.skips (s : State) (core : Nat) (o : Op) : Bool :=
  match o.kind with
  | .mmul _ _ init _ (some (k, _)) (some (ub, sure)) bank _ _ cols _ _ =>
    !(init && o.prog = 0) && ((s.getCore core).bank bank).above k cols ub &&
      (sure || s.freeBool (core * 2 ^ 20 + o.id + 2 ^ 85))
  | _ => false

/-- A receiver fits its head: its tile is deep enough, blocks are of one length, its bank can hold the rows (R328). -/
def State.joinFits (s : State) (e : Nat × Op) (kext bl rows : Nat) : Bool :=
  match e.2.kind with
  | .mmul _ _ _ _ list _ _ p _ cols _ _ =>
    let pl := (s.getCore e.1).plane p
    let sh : BankShape := ⟨listMode list, rows, cols⟩
    !decide (pl.state = .loaded) || pl.cancelledFor e.2.id ||
      (decide (kext ≤ foldDepth pl.nfold pl.fold) && gBl pl.g = bl && sh.fits)
  | _ => false

/-- A receiver at the first task of its head: it takes the head's row count and is paired with it. -/
def State.joinChain (s : State) (e : Nat × Op) (head : Nat × Nat × Nat) (rows : Nat) : State :=
  match e.2.kind with
  | .mmul ga arr init fe list bound bank p _ cols n _ =>
    s.setCore e.1 ((s.getCore e.1).updOp e.2.id fun x =>
      { x with prog := 0, kind := .mmul ga arr init fe list bound bank p rows cols n [head] })
  | _ => s

/-- The receivers of a head's first task, paired; one that does not fit fails (R328). -/
def joinAll (s : State) (head : Nat × Nat × Nat) (kext bl rows : Nat) (l : List (Nat × Op)) : State × List (Nat × Nat) :=
  l.foldl (fun a e =>
    if a.1.joinFits e kext bl rows then (a.1.joinChain e head rows, a.2 ++ [(e.1, e.2.id)])
    else (a.1.failCmd e.1 e.2 13 2 0, a.2)) (s, [])

/-- What each entry of a chain does for one task of its head. -/
inductive ChainStep where
  | run (core id : Nat)
  | skip (core id : Nat)
  deriving DecidableEq

/-- The entries of a chain made ready one after another; false: one has to wait. Those whose command ends drop out. -/
def prepAll (s : State) (l : List (Nat × Nat)) (acc : List ChainStep) : State × List ChainStep × Bool :=
  match l with
  | [] => (s, acc.reverse, true)
  | (core, id) :: rest =>
    match (s.getCore core).findOp id with
    | none => prepAll s rest acc
    | some o =>
      match s.prepProduct core o with
      | .ready t => prepAll t rest ((if t.skips core o then .skip core id else .run core id) :: acc)
      | .over t => prepAll t rest acc
      | .wait t => (t, [], false)

/-- The tasks of a chain's entries for the rows of one task: a skipped one takes no array time and only counts. -/
def State.runEntries (s : State) (ga : BitVec 256) (rows : List (Nat × List BfpBlock)) (l : List ChainStep) : State :=
  l.foldl (fun t e =>
    match e with
    | .run core id => match (t.getCore core).findOp id with | some o => t.runProduct core o ga rows | none => t
    | .skip core id =>
      match (t.getCore core).findOp id with
      | some o => (t.countSkip (coreCluster core)).advanceCmd core o false
      | none => t) s

/-- A product's next task issues, with the receivers it is chained to. Its rows are read where some entry of the chain runs
on them. -/
def State.issueProduct (s : State) (cluster core : Nat) (o : Op) : State :=
  match o.kind with
  | .mmul (some ga) arr init fe list bound bank p rows cols _ _ =>
    match s.chainPeers cluster o arr with
    | none => s
    | some peers =>
      match s.prepProduct core o with
      | .over t => t
      | .wait t => t
      | .ready s =>
        let head := s.refOf core o.id
        let (s, ids) :=
          if o.chain ≠ 0 then joinAll s head (gKext ga) (gBl ga) rows peers else (s, peers.map fun e => (e.1, e.2.id))
        let s := s.setCore core ((s.getCore core).updOp o.id fun x =>
          { x with kind := .mmul (some ga) arr init fe list bound bank p rows cols 0 (ids.map fun e => s.refOf e.1 e.2) })
        match prepAll s ids [] with
        | (t, _, false) => t
        | (t, steps, true) =>
          let steps := steps ++ [if t.skips core o then .skip core o.id else .run core o.id]
          if steps.all fun e => match e with | .skip .. => true | _ => false then t.runEntries ga [] steps
          else
            match t.readRows core o ga rows o.prog with
            | .error e => t.failCmdE core o e
            | .ok data =>
              (t.emptyRanges core fe (stripRanges ga (16 * o.prog) (taskRows rows o.prog))).runEntries ga data steps
  | _ => s

/-! ## B tiles (R322, R324) -/

def State.issueLoad (s : State) (cluster core : Nat) (o : Op) : State :=
  match o.kind with
  | .mloadb g arr nf f p =>
    match s.readTile (s.opAgent core o) g with
    | .error e => s.failCmdE core o e
    | .ok (m, e) =>
      let c := s.getCore core
      let t := s.setCore core { c with planes := Tbl.set c.planes p ⟨.loading, g, nf, f, m, e, false, o.id + 1,
        (c.plane p).dead.filter fun d => decide (o.id < d.1)⟩ }
      let t := (t.useArray cluster core arr).putTask cluster arr
        ⟨core, o.id, o.prog, [], [], [], [], 0, 0, tileClocks g⟩
      t.advanceCmd core o true
  | _ => s

/-! ## Attention (R107 to R113, R329) -/

/-- A row of the bank as the stage finds it. -/
def Bank.attnRow (b : Bank) (d i : Nat) : AttnRow :=
  ⟨(Tbl.getD b.maxs i (BitVec.ofNat 32 negInf32)).toNat, (Tbl.getD b.sums i 0).toNat,
    (List.range d).map fun c => (Tbl.getD b.vals (i * d + c) 0).toNat, 0⟩

/-- Rows as the words of a task. -/
def attnTask (d : Nat) (rows : List (Nat × AttnRow)) (clocks : Nat) : ArrTask :=
  ⟨0, 0, 0, (rows.map fun r => (List.range d).map fun c => (r.1 * d + c, BitVec.ofNat 32 (r.2.o.getD c 0))).flatten,
    rows.map fun r => (r.1, BitVec.ofNat 32 r.2.m), rows.map fun r => (r.1, BitVec.ofNat 32 r.2.l), [],
    rows.foldl (fun e r => e ||| r.2.ev) 0, 0, clocks⟩

/-- The blocks of the strips of ranges that stripPart gives. -/
def State.readParts (s : State) (g : Agent) (v : BitVec 256) (n0 n k0 kn : Nat) : Except EFail (List (List BfpBlock)) :=
  let rs := (List.range n).map fun i => stripPart v (n0 + i) k0 kn
  match s.readRanges g (rs.map fun r => r.getD 0 (0, 0)), s.readRanges g (rs.map fun r => r.getD 1 (0, 0)) with
  | .ok m, .ok e => .ok (List.zipWith (fun x y => stripBlocks v kn x y) m e)
  | .error e, _ => .error e
  | _, .error e => .error e

/-- What a pass works on: query rows, keys, and V's columns as blocks; none of them where no key is visible. -/
def State.passData (s : State) (g : Agent) (q k v : BitVec 256) (d : AttnDesc) (rows u : Nat) (skip : Bool) :
    Except EFail (List (List BfpBlock) × List (List BfpBlock) × List (List BfpBlock)) :=
  if skip then .ok ([], [], [])
  else
    let k0 := u * (1024 * attnFold d.d)
    match s.readParts g q 0 rows 0 d.d, s.readParts g k k0 (passKeys d u) 0 d.d, s.readParts g v 0 d.d k0 (passKeys d u) with
    | .ok a, .ok b, .ok c => .ok (a, b, c)
    | .error e, _, _ => .error e
    | _, .error e, _ => .error e
    | _, _, .error e => .error e

/-- An attention command's next pass issues, or is skipped (R110, R113). With INIT clear it runs on the bank as it stands
(DESIGN CHOICE, log entry 68). -/
def State.issueAttn (s : State) (cluster core : Nat) (o : Op) : State :=
  match o.kind with
  | .mattn q k v d shape fe bank rows =>
    let u := o.prog
    let keys := (List.range (passKeys d u)).map fun j => d.kbase + u * (1024 * attnFold d.d) + j
    let skip := (List.range rows).all fun i => keys.all fun j => !visible d shape i j
    match s.passData (s.opAgent core o) q k v d rows u skip with
    | .error e => s.failCmdE core o e
    | .ok (qs, ks, vs) =>
      let s := if skip then s else s.emptyRanges core fe (stripRanges q 0 rows)
      let c := s.getCore core
      let sh : BankShape := ⟨.sum, rows, d.d⟩
      let b := if d.init && u = 0 then { ((c.bank bank).init sh) with vals := [] } else c.bank bank
      let f := attnFold d.d
      let short := decide (gBl q * ceilDiv d.d (gBl q) < 1024 / f)
      let out := (List.range rows).map fun i =>
        let raws := if skip then keys.map fun _ => (0, (0 : Ev))
          else ks.map fun key => rawSum (gM q) (gM k) 0 1 short (qs.getD i []) key
        let pv (bs : List BfpBlock) : List Nat × Ev :=
          if skip then ((List.range d.d).map fun _ => 0, 0) else mapEv (fun col => rawSum 8 (gM v) 32 f true bs col) vs
        let scale := if skip then 0 else d.scale.toNat
        let r := attnPass scale (raws.map (·.1)) (keys.map (visible d shape i)) pv (b.attnRow d.d i)
        let r := { r with ev := raws.foldl (fun e x => e ||| x.2) r.ev }
        (i, if u + 1 = o.kind.tasks then attnFinish d.norm r else r)
      let s := s.setCore core (c.setBank bank b)
      let task := { attnTask d.d out (rows * (gM q + 8)) with core := core, op := o.id, unit := u }
      if skip then
        let s := s.countSkip cluster
        let b := (s.getCore core).bank bank
        let b := { b with
          vals := task.vals.foldl (fun t x => Tbl.set t x.1 x.2) b.vals,
          maxs := task.maxs.foldl (fun t x => Tbl.set t x.1 x.2) b.maxs,
          sums := task.sums.foldl (fun t x => Tbl.set t x.1 x.2) b.sums, status := b.status ||| task.status }
        (s.setCore core ((s.getCore core).setBank bank b)).advanceCmd core o false
      else
        let s := (s.useArray cluster core .s).useArray cluster core .v
        ((s.putTask cluster .s { task with clocks := 0, vals := [], maxs := [], sums := [], status := 0 }).putTask cluster .v
          task).advanceCmd core o true
  | _ => s

/-! ## Issue and completion -/

/-- An entry of the table whose group is dead and which has no task on an array (R37, R318). -/
def State.deadEntry (s : State) (cluster : Nat) : Option (Nat × Op) :=
  let cl := s.getCluster cluster
  let busy (core id : Nat) : Bool :=
    (match cl.onS with | some t => t.core = core && t.op = id | none => false) ||
      (match cl.onV with | some t => t.core = core && t.op = id | none => false)
  cl.table.findSome? fun e =>
    match (s.getCore e.1).findOp e.2 with
    | some o => if !s.alive o.group && !busy e.1 e.2 then some (e.1, o) else none
    | none => none

/-- The table removes a cancelled entry, or issues the oldest ready one of the holder on a free array (R36, R37). -/
def execTileTaskIssue (cluster : Nat) (arr : Arr) (s : State) : Host.Outcome State Fault Refusal :=
  match s.deadEntry cluster with
  | some (core, o) => .next (s.cancelCmd core o)
  | none =>
    if !(s.getCluster cluster).free arr || (s.getDie (cluster / 16)).hot then .next s
    else
      match (s.holderOps cluster).find? fun e =>
          !e.2.isWest && s.taskReady cluster e.1 e.2 arr && (s.chainPeers cluster e.2 arr).isSome with
      | none => .next s
      | some (core, o) =>
        match o.kind with
        | .mloadb .. => .next (s.issueLoad cluster core o)
        | .mmul .. => .next (s.issueProduct cluster core o)
        | .mattn .. => .next (s.issueAttn cluster core o)
        | _ => .next s

/-- The bank after a task. -/
def Bank.apply (b : Bank) (t : ArrTask) : Bank :=
  { b with
    vals := t.vals.foldl (fun m x => Tbl.set m x.1 x.2) b.vals,
    maxs := t.maxs.foldl (fun m x => Tbl.set m x.1 x.2) b.maxs,
    sums := t.sums.foldl (fun m x => Tbl.set m x.1 x.2) b.sums,
    pairs := t.pairs.foldl (fun m x => Tbl.set m x.1 x.2) b.pairs,
    status := b.status ||| t.status,
    nans := satU (b.nans + t.nans) 16 }

/-- A finished task writes its bank or fills its plane; the command completes after its last (R317). -/
def State.finishTask (s : State) (t : ArrTask) : State :=
  match (s.getCore t.core).findOp t.op with
  | none => s
  | some o =>
    let c := s.getCore t.core
    let c := match o.kind with
      | .mloadb _ _ _ _ p => { c with planes := Tbl.set c.planes p { (c.plane p) with state := .loaded } }
      | k => match k.bank with | some b => c.setBank b ((c.bank b).apply t) | none => c
    let s := s.setCore t.core c
    let s := s.ropeWork o.group 0 t.clocks 0
    if o.prog = o.kind.tasks && t.unit + 1 = o.prog then (s.untable t.core o.id).doneOp t.core o.id else s

/-- Array time accrues to the holder (R36). -/
def State.chargeClocks (s : State) (cluster core n : Nat) : State :=
  let cl := s.getCluster cluster
  if cl.holder = some core then s.setCluster cluster { cl with clocks := cl.clocks + n } else s

/-- A tile task finishes (R317); an attention task leaves both arrays at once. -/
def execTileTaskComplete (cluster : Nat) (arr : Arr) (s : State) : Host.Outcome State Fault Refusal :=
  let cl := s.getCluster cluster
  match arr, cl.onS, cl.onV with
  | .s, some t, v =>
    match v with
    | some tv =>
      if tv.core = t.core ∧ tv.op = t.op then
        let u := s.setCluster cluster { cl with onS := none, onV := none }
        .next ((u.chargeClocks cluster t.core tv.clocks).finishTask tv)
      else
        let u := s.setCluster cluster { cl with onS := none }
        .next ((u.chargeClocks cluster t.core t.clocks).finishTask t)
    | none =>
      let u := s.setCluster cluster { cl with onS := none }
      .next ((u.chargeClocks cluster t.core t.clocks).finishTask t)
  | .v, o, some t =>
    match o with
    | some ts =>
      if ts.core = t.core ∧ ts.op = t.op then .next s
      else
        let u := s.setCluster cluster { cl with onV := none }
        .next ((u.chargeClocks cluster t.core t.clocks).finishTask t)
    | none =>
      let u := s.setCluster cluster { cl with onV := none }
      .next ((u.chargeClocks cluster t.core t.clocks).finishTask t)
  | _, _, _ => .next s

/-! ## Drains (R330) -/

/-- Unit i of a bank under a mode, as bytes. -/
def Bank.unit (b : Bank) (mode : DrainMode) (k i : Nat) : List Byte :=
  match mode with
  | .sums => leBytes 4 (Tbl.getD b.vals i 0).toNat
  | .rowMax => leBytes 4 (Tbl.getD b.maxs i (BitVec.ofNat 32 negInf32)).toNat
  | .rowSum => leBytes 4 (Tbl.getD b.sums i 0).toNat
  | .list => ((b.column k i).map fun p => leBytes 8 (pairWord p)).flatten

/-- Rows of a tile drain. -/
def Bank.drainRows (b : Bank) (mode : DrainMode) (k first nr : Nat) : List Row :=
  match mode with
  | .list => ((List.range ((nr + 1) / listRows k)).map fun c => packList (b.column k (first + c)) (listRows k)).flatten
  | m => (List.range (nr + 1)).map fun r =>
      ofBytes 2048 ((List.range 64).map fun j => b.unit m k (first + 64 * r + j)).flatten

/-- An accepted drain copies its units once every earlier command on its bank has finished (R330). -/
def execMdrainComplete (core op : Nat) (s : State) : Host.Outcome State Fault Refusal :=
  let c := s.getCore core
  match c.findOp op with
  | none => .next s
  | some o =>
    if o.done || !c.inTurn o then .next s
    else
      match o.kind with
      | .mdrainTile _ bank mode t row nr first k =>
        let b := c.bank bank
        let lr := c.lr
        let c := c.setRows t row (b.drainRows mode k first nr)
        let c := { c with
          lr := lr,
          tstat := if b.status = 0 then c.tstat else Tbl.set c.tstat t (Tbl.getD c.tstat t 0 ||| b.status),
          lists := if mode = .list then Tbl.set c.lists t ⟨k, row, (nr + 1) / listRows k, b.nans⟩ else c.lists }
        .next ((s.setCore core c).doneOp core op)
      | .mdrainMem _ bank mode dst first n k cnt =>
        let b := c.bank bank
        let bytes := ((List.range n).map fun i => b.unit mode k (first + i)).flatten
        let each := if mode = .list then 8 * k else 4
        if o.prog != 0 then .next (s.finishCounted core o cnt bytes.length 0 dst)
        else
          match s.vwrite (s.opAgent core o) dst.toNat bytes with
          | (t, some (.fault cause r a)) => .next (t.failOpE core o (.fault cause r a) ((a.toNat - dst.toNat) / max each 1))
          | (t, some e) => .next (t.failOpE core o e 0)
          | (t, none) =>
            let q := (t.getCore core).seqr o.seq
            let t := t.setCore core (((t.getCore core).setSeqr o.seq { q with sticky := q.sticky ||| b.status.setWidth 5 }).updOp
              op fun x => { x with prog := 1 })
            .next (t.finishCounted core o cnt bytes.length 0 dst)
      | _ => .next s

end Sys2Proof.Machine
end

