-- ==== Sys2Proof/Machine/Atomics.lean ====
section
/-! DEFINITION. Majors 0x13 and 0x14: scalar and vector atomics, as they issue (R283 to R285). -/

namespace Sys2Proof.Machine

open Sys2Proof

def wordBytes (dword : Bool) : Nat := if dword then 8 else 4

/-- `amo` (R283). -/
def State.amo (s : State) (h : Hdr) (sub : Nat) (op : AmoOp) (dword : Bool) (a : AReg) (b c : XReg) (acq rel : OScope)
    (k : Ctr) (off : BitVec 18) : Host.Outcome State Fault Refusal :=
  let sub := sub + (if dword then 8 else 0)
  let f := cmdForm h 0x13 sub [b, c] []
  s.issueAsync f 0x13 sub k fun _ t =>
    let addr := t.getA a + off.signExtend 64
    match t.scalarVia .amo false (wordBytes dword) addr with
    | .error e => e.res
    | .ok via =>
      .done ((t.touchVia via).putOp f 0x13 sub k acq rel (.amo op dword c addr (t.getX b) (t.getX c)) via false)

def execAmoAdd (h : Hdr) (dword : Bool) (a : AReg) (b c : XReg) (acq rel : OScope) (k : Ctr) (off : BitVec 18) (s : State) :
    Host.Outcome State Fault Refusal := s.amo h 0 .add dword a b c acq rel k off

def execAmoMin (h : Hdr) (dword : Bool) (a : AReg) (b c : XReg) (acq rel : OScope) (k : Ctr) (off : BitVec 18) (s : State) :
    Host.Outcome State Fault Refusal := s.amo h 1 .min dword a b c acq rel k off

def execAmoMax (h : Hdr) (dword : Bool) (a : AReg) (b c : XReg) (acq rel : OScope) (k : Ctr) (off : BitVec 18) (s : State) :
    Host.Outcome State Fault Refusal := s.amo h 2 .max dword a b c acq rel k off

def execAmoAnd (h : Hdr) (dword : Bool) (a : AReg) (b c : XReg) (acq rel : OScope) (k : Ctr) (off : BitVec 18) (s : State) :
    Host.Outcome State Fault Refusal := s.amo h 3 .band dword a b c acq rel k off

def execAmoOr (h : Hdr) (dword : Bool) (a : AReg) (b c : XReg) (acq rel : OScope) (k : Ctr) (off : BitVec 18) (s : State) :
    Host.Outcome State Fault Refusal := s.amo h 4 .bor dword a b c acq rel k off

def execAmoXor (h : Hdr) (dword : Bool) (a : AReg) (b c : XReg) (acq rel : OScope) (k : Ctr) (off : BitVec 18) (s : State) :
    Host.Outcome State Fault Refusal := s.amo h 5 .bxor dword a b c acq rel k off

def execAmoXchg (h : Hdr) (dword : Bool) (a : AReg) (b c : XReg) (acq rel : OScope) (k : Ctr) (off : BitVec 18) (s : State) :
    Host.Outcome State Fault Refusal := s.amo h 6 .xchg dword a b c acq rel k off

def execAmoCas (h : Hdr) (dword : Bool) (a : AReg) (b c : XReg) (acq rel : OScope) (k : Ctr) (off : BitVec 18) (s : State) :
    Host.Outcome State Fault Refusal := s.amo h 7 .cas dword a b c acq rel k off

/-! ## Vector atomics -/

/-- An element of a vector atomic: its number, address, place, operand and compare value. -/
abbrev VEl := Nat × Word64 × Xl × Word64 × Word64

/-- Elements checked in order: those before the first that stops, and the stop (R285). -/
def State.elsGo (s : State) (w : Nat) (es : List (Nat × Word64 × Word64 × Word64)) (acc : List VEl) : List VEl × Option Stop :=
  match es with
  | [] => (acc.reverse, none)
  | (e, addr, b, c) :: rest =>
    match s.check (some s.core) s.asid s.sq.sup .amo false w addr with
    | .ok x => State.elsGo s w rest ((e, addr, x, b, c) :: acc)
    | .error st => (acc.reverse, some st)

/-- An old value written to its element of the value row (R284). -/
def Core.putElem (c : Core) (t row w e : Nat) (v : Word64) : Core :=
  c.setRow t row ((List.range w).foldl (fun r i => setByte r (w * e + i) (byteAt v i)) (c.row t row))

/-- The parts of the elements. -/
def viaOfEls (w : Nat) (els : List VEl) : List (Nat × Nat × Xl) := els.map fun e => (e.2.1.toNat, w, e.2.2.1)

/-- `vamo` (R284, R285). -/
def State.vamo (s : State) (h : Hdr) (sub : Nat) (op : AmoOp) (dword : Bool) (a : AReg) (acq rel : OScope) (k : Ctr)
    (tv : BitVec 5) (rv : BitVec 4) (ti : BitVec 5) (ri : BitVec 4) : Host.Outcome State Fault Refusal :=
  let sub := sub + (if dword then 8 else 0)
  let w := wordBytes dword
  let vrows := rowsOf tv.toNat rv.toNat (if op = .cas then 2 else 1)
  let f : Form := {
    h := h, two := true, seqs := permitted 0x14 sub, tiles := [tv.toNat, ti.toNat],
    rr := vrows ++ rowsOf ti.toNat ri.toNat 1, rw := rowsOf tv.toNat rv.toNat 1, guarded := false }
  s.issueAsync f 0x14 sub k fun skip t =>
    let base := t.getA a
    let g := t.guard h
    let vals := t.cur.row tv.toNat rv.toNat
    let cmps := t.cur.row tv.toNat (rv.toNat + 1)
    let idx := t.cur.row ti.toNat ri.toNat
    let es := ((List.range (256 / w)).filter fun e => guardBit g w e && !skip.getLsbD e).map fun e =>
      (e, base + w64 (elem idx 4 e), w64 (elem vals w e), w64 (elem cmps w e))
    if op = .cas ∧ rv = 15 then .trap .illegal 0
    else if !es.isEmpty && base.toNat / 2 ^ 56 ≠ 0 then .trap .page (pageVal 4 base)
    else
      let kind (els : List VEl) : OpKind := .vamo op dword tv.toNat rv.toNat ti.toNat ri.toNat els skip
      match t.elsGo w es [] with
      | (_, some .wait) => .wait
      | (_, some (.ask a m o)) => (Stop.ask a m o).res
      | (els, none) =>
        let via := viaOfEls w els
        .done ((t.touchVia via).putOp f 0x14 sub k acq rel (kind els) via false)
      | (els, some (.trap c v)) =>
        let via := viaOfEls w els
        if els.isEmpty then .trap c v
        else
          .part ((t.touchVia via).putOp f 0x14 sub none acq rel (kind els) via false) t.cur.nextOp
            (els.foldl (fun m e => setBit m e.1 true) 0) c v

def execVamoAdd (h : Hdr) (dword : Bool) (a : AReg) (acq rel : OScope) (k : Ctr) (tv : BitVec 5) (rv : BitVec 4)
    (ti : BitVec 5) (ri : BitVec 4) (s : State) : Host.Outcome State Fault Refusal :=
  s.vamo h 0 .add dword a acq rel k tv rv ti ri

def execVamoMin (h : Hdr) (dword : Bool) (a : AReg) (acq rel : OScope) (k : Ctr) (tv : BitVec 5) (rv : BitVec 4)
    (ti : BitVec 5) (ri : BitVec 4) (s : State) : Host.Outcome State Fault Refusal :=
  s.vamo h 1 .min dword a acq rel k tv rv ti ri

def execVamoMax (h : Hdr) (dword : Bool) (a : AReg) (acq rel : OScope) (k : Ctr) (tv : BitVec 5) (rv : BitVec 4)
    (ti : BitVec 5) (ri : BitVec 4) (s : State) : Host.Outcome State Fault Refusal :=
  s.vamo h 2 .max dword a acq rel k tv rv ti ri

def execVamoAnd (h : Hdr) (dword : Bool) (a : AReg) (acq rel : OScope) (k : Ctr) (tv : BitVec 5) (rv : BitVec 4)
    (ti : BitVec 5) (ri : BitVec 4) (s : State) : Host.Outcome State Fault Refusal :=
  s.vamo h 3 .band dword a acq rel k tv rv ti ri

def execVamoOr (h : Hdr) (dword : Bool) (a : AReg) (acq rel : OScope) (k : Ctr) (tv : BitVec 5) (rv : BitVec 4)
    (ti : BitVec 5) (ri : BitVec 4) (s : State) : Host.Outcome State Fault Refusal :=
  s.vamo h 4 .bor dword a acq rel k tv rv ti ri

def execVamoXor (h : Hdr) (dword : Bool) (a : AReg) (acq rel : OScope) (k : Ctr) (tv : BitVec 5) (rv : BitVec 4)
    (ti : BitVec 5) (ri : BitVec 4) (s : State) : Host.Outcome State Fault Refusal :=
  s.vamo h 5 .bxor dword a acq rel k tv rv ti ri

def execVamoXchg (h : Hdr) (dword : Bool) (a : AReg) (acq rel : OScope) (k : Ctr) (tv : BitVec 5) (rv : BitVec 4)
    (ti : BitVec 5) (ri : BitVec 4) (s : State) : Host.Outcome State Fault Refusal :=
  s.vamo h 6 .xchg dword a acq rel k tv rv ti ri

def execVamoCas (h : Hdr) (dword : Bool) (a : AReg) (acq rel : OScope) (k : Ctr) (tv : BitVec 5) (rv : BitVec 4)
    (ti : BitVec 5) (ri : BitVec 4) (s : State) : Host.Outcome State Fault Refusal :=
  s.vamo h 7 .cas dword a acq rel k tv rv ti ri

end Sys2Proof.Machine
end

