-- ==== Sys2Proof/Machine/Packets.lean ====
section
/-! DEFINITION. Launch packets and kernel headers: how they are read and checked, the instances of a launch, and how a part
is admitted and starts (R12 to R25, R392, R393). -/

namespace Sys2Proof.Machine

open Sys2Proof

/-! ## The packet (R392 Table 8) -/

/-- A launch packet's fields. -/
structure Packet where
  kaddr : Nat
  asid : Nat
  pclass : Nat
  group : Nat
  defdie : Nat
  irq : Bool
  nds : Nat
  dslist : Nat
  deadline : Word64
  start : Word64
  evt : Nat
  fault : Nat
  key : BitVec 128
  pos : BitVec 32
  gp : List Word64
  /-- every reserved field is zero -/
  clean : Bool
  deriving DecidableEq, Repr

def packetOf (bs : List Byte) : Packet where
  kaddr := fld bs 0 8
  asid := fld bs 8 1
  pclass := fld bs 9 1 % 8
  group := fld bs 0x0A 2
  defdie := fld bs 0x0C 1 % 4
  irq := fld bs 0x0D 1 % 2 = 1
  nds := fld bs 0x0E 2
  dslist := fld bs 0x10 8
  deadline := w64 (fld bs 0x18 8)
  start := w64 (fld bs 0x20 8)
  evt := fld bs 0x28 8
  fault := fld bs 0x30 8
  key := BitVec.ofNat 128 (fld bs 0x38 16)
  pos := BitVec.ofNat 32 (fld bs 0x48 4)
  gp := (List.range 32).map fun n => w64 (fld bs (0x100 + 8 * n) 8)
  clean := fld bs 8 1 < 64 && fld bs 9 1 < 8 && fld bs 0x0C 1 < 4 && fld bs 0x0D 1 < 2 &&
    (slice bs 0x4C 180).all fun b => b = 0

/-! ## What the units of a die are answered by other modules (R143, R235) -/

def State.getJob (s : State) (die j : Nat) : Option Job := Tbl.get? (s.getDie die).jobs j

def State.setJob (s : State) (die j : Nat) (v : Job) : State :=
  let d := s.getDie die
  s.setDie die { d with jobs := Tbl.set d.jobs j v }

/-- Bytes that other modules have answered a job, or why they did not. -/
def State.jobAnswer (s : State) (die job : Nat) : Option RemoteAnswer :=
  match s.getJob die job with
  | some j =>
    if j.failed then (match j.word with
      | some v => some (.denied 0 0 (v.toNat % 256) (v.toNat / 256))
      | none => some (.lost 0 0))
    else some (.bytes 0 0 j.cells)
  | none => none

/-- Another module is asked once for bytes, or with n = 0 for the translation of their page, under a job that does nothing
else. -/
def State.jobAsk (s : State) (die job asid m off n : Nat) : State :=
  let j := (s.getJob die job).getD ⟨9, 0, 0, 0, asid, 0, 64, false, false, false, true, [], [], 0, none⟩
  let key := (m * 2 ^ 43 + off, n)
  if n = 0 then s.askPage asid m off
  else if j.asked.contains key then s
  else (s.setJob die job { j with asked := j.asked ++ [key] }).emit (.remoteRead m asid (jobCore die) job off n false)

/-- The answers of a job are not kept. -/
def State.dropJob (s : State) (die job : Nat) : State :=
  let d := s.getDie die
  s.setDie die { d with jobs := Tbl.erase d.jobs job }

/-! ## Checks of a packet (R393) -/

/-- A unit at a die translates an address for an access of a space (R55): why it cannot. -/
def State.reach (s : State) (asid : Nat) (need : Need) (va : Nat) : Option EFail :=
  match s.agentXlat (unitAgent asid) need va with | .ok _ => none | .error e => some e

/-- The same where only a translation is asked for: what the page then allows does not count (R393, R422). -/
def State.untranslated (s : State) (asid va : Nat) : Option EFail :=
  match s.reach asid .write va with
  | some (.fault .perm _ _) => none
  | r => r

/-- The first of several failures; one that has to wait comes before any other. -/
def firstFail (l : List (Option EFail)) : Option EFail :=
  match l.findSome? fun e => match e with | some e => if e.waits then some e else none | none => none with
  | some e => some e
  | none => l.findSome? id

/-- Module and die of a die-slot entry. -/
def slotOfEntry (e : Nat) : Nat × Nat := (natBits e 0 12, natBits e 14 2)

/-- Module and die of each die-slot in DIES coordinate order; none where the list sets a reserved bit or names a module that
cannot be reached (R393). -/
def State.dieSlots (s : State) (p : Packet) (ans : Option RemoteAnswer) : Except EFail (Option (List (Nat × Nat))) :=
  if p.dslist = 0 then .ok (some [(s.modId.toNat, p.defdie)])
  else
    (s.vread (unitAgent p.asid) ans p.dslist (2 * p.nds)).map fun bs =>
      let es := (List.range p.nds).map fun i => fld bs (2 * i) 2
      if es.all fun e => natBits e 12 2 = 0 && (natBits e 0 12 = s.modId.toNat || s.mgmt.reachable.contains (natBits e 0 12)) then
        some (es.map slotOfEntry)
      else none

/-- The packet's own fields are ones the device takes (R393). -/
def State.packetFields (s : State) (p : Packet) : Bool :=
  p.clean && (s.getSpace p.asid).en && decide (p.kaddr % 128 = 0) && decide (p.evt % 8 = 0) && decide (p.fault % 64 = 0) &&
    decide (1 ≤ p.nds ∧ p.nds ≤ 16384) && (p.dslist != 0 || p.nds = 1)

/-- Why its addresses cannot be used: EVT and FAULT are the origin's (R393). -/
def State.packetReach (s : State) (p : Packet) (own : Bool) : Option EFail :=
  firstFail [s.untranslated p.asid p.kaddr, if own && p.evt != 0 then s.untranslated p.asid p.evt else none,
    if own && p.fault != 0 then s.untranslated p.asid p.fault else none]

/-! ## The kernel header (R12 to R15) -/

/-- A kernel header's fields. -/
structure Header where
  sig : Nat
  ver : Nat
  nlvl : Nat
  flags : BitVec 8
  soff : List Nat
  slen : List Nat
  ntile : Nat
  rings : BitVec 8
  pinb : Nat
  lvls : List Nat
  clean : Bool
  deriving DecidableEq, Repr

def headerOf (bs : List Byte) : Header where
  sig := fld bs 0 4
  ver := fld bs 4 2
  nlvl := fld bs 6 1
  flags := BitVec.ofNat 8 (fld bs 7 1)
  soff := (List.range 4).map fun i => fld bs (0x08 + 4 * i) 4
  slen := (List.range 4).map fun i => fld bs (0x18 + 4 * i) 4
  ntile := fld bs 0x28 1
  rings := BitVec.ofNat 8 (fld bs 0x29 1)
  pinb := fld bs 0x2C 4
  lvls := (List.range 8).map fun i => fld bs (0x30 + 8 * i) 8
  clean := fld bs 7 1 < 16 && fld bs 0x2A 2 = 0 && ((slice bs 0x70 16).all fun b => b = 0)

/-- A loop table entry (R13 Table 2) with its trip count resolved (R15). -/
def levelOf (gp : List Word64) (e : Nat) : Level where
  kind := natBits e 62 2
  lazy := natBits e 60 2 = 1
  pre := natBits e 58 1 = 1
  grain := if natBits e 48 10 = 0 then 1 else natBits e 48 10
  width := natBits e 32 16
  trip := if natBits e 59 1 = 1 then lo32 (gp.getD (natBits e 0 5) 0) else natBits e 0 32

/-- A loop table entry uses no reserved encoding and no width or policy its kind forbids (R13, R14). -/
def levelOk (e : Nat) : Bool :=
  natBits e 62 2 < 3 && natBits e 60 2 < 2 &&
    (if natBits e 62 2 = 0 then natBits e 32 16 = 0 && natBits e 60 2 = 0 else natBits e 32 16 != 0)

def Header.levels (h : Header) (gp : List Word64) : List Level := (h.lvls.take h.nlvl).map (levelOf gp)

/-- The product of the widths of one kind of level: 1 CORES, 2 DIES. -/
def widthProd (ls : List Level) (kind : Nat) : Nat := (ls.filter fun l => l.kind = kind).foldl (fun n l => n * l.width) 1

/-- Under WHOLECLU every DIES level stands before every CORES level (R17). -/
def diesFirst (ls : List Level) : Bool :=
  match ls with
  | [] => true
  | l :: rest => (l.kind != 1 || rest.all fun m => m.kind != 2) && diesFirst rest

/-- A section of words [off, off + len) of the image at kaddr lies in the address space (R14). -/
def sectionIn (kaddr off len : Nat) : Bool := len = 0 || (decide (32 ≤ off) && decide (kaddr + 4 * (off + len) ≤ 2 ^ 56))

/-- Why some page of the image's sections cannot be fetched from (R14). -/
def State.sectionsReach (s : State) (asid kaddr : Nat) (h : Header) : Option EFail :=
  firstFail ((h.soff.zip h.slen).map fun e =>
    if e.2 = 0 || !sectionIn kaddr e.1 e.2 then none
    else firstFail ((parts (kaddr + 4 * e.1) (4 * e.2)).map fun p => s.reach asid .fetch p.1))

/-- TILECAP of a die-slot; another module's as that module tells it: one of 32, 28 down to 4 (R19), which the model leaves free
(log entry 59). -/
def State.capOf (s : State) (d : Nat × Nat) : Nat :=
  if d.1 = s.modId.toNat then (s.getDie d.2).tilecap else 4 + 4 * s.freeBelow (2 ^ 94 + 4 * d.1 + d.2) 8

/-- The refusal of a header, if any (R14, R17). -/
def State.headerCheck (s : State) (p : Packet) (h : Header) (slots : List (Nat × Nat)) : Option Code :=
  let ls := h.levels p.gp
  let whole := h.flags.getLsbD 3
  if h.sig != 0x4F56_4B31 || h.ver != 1 || !(decide (1 ≤ h.nlvl ∧ h.nlvl ≤ 8)) || !h.clean || !((h.lvls.take h.nlvl).all levelOk) ||
      !((h.soff.zip h.slen).all fun e => sectionIn p.kaddr e.1 e.2) || (s.sectionsReach p.asid p.kaddr h).isSome || h.pinb % 128 != 0 ||
      decide (128 < widthProd ls 1) || widthProd ls 2 != slots.length ||
      (whole && (widthProd ls 1 % 8 != 0 || !diesFirst ls)) then some .badHeader
  else if slots.any fun d => decide (s.capOf d < h.ntile) then some .tilecap
  else if 0xF_0000 < h.pinb then some .lmcap
  else none

/-! ## Instances (R16, R17) -/

/-- Coordinates along every level of instance k of the cores of die-slot p, the levels given innermost first. -/
def coordsGo (ls : List Level) (p k : Nat) : List Nat :=
  match ls with
  | [] => []
  | l :: rest =>
    match l.kind with
    | 1 => k % l.width :: coordsGo rest p (k / l.width)
    | 2 => p % l.width :: coordsGo rest (p / l.width) k
    | _ => 0 :: coordsGo rest p k

def coordsOf (ls : List Level) (p k : Nat) : List Nat := (coordsGo ls.reverse p k).reverse

/-- INST_ID in mixed radix over the spatial levels (R17). -/
def instIdOf (ls : List Level) (cs : List Nat) : Nat :=
  (ls.zip cs).foldl (fun n e => if e.1.kind = 0 then n else n * e.1.width + e.2) 0

/-- INST_ID and coordinates of each instance of die-slot p, in ascending INST_ID within the die-slot's own order. -/
def instancesOf (ls : List Level) (p : Nat) : List (Nat × List Nat) :=
  (List.range (widthProd ls 1)).map fun k => let cs := coordsOf ls p k; (instIdOf ls cs, cs)

/-- The level state an instance starts with (R18, R19). -/
def lvlStart (l : Level) (c : Nat) : LvlState :=
  if l.kind = 0 then ⟨0, l.trip, 0, 0, false, 0, none⟩
  else ⟨c * l.trip / l.width, (c + 1) * l.trip / l.width, c * l.trip / l.width, c, false, 0, none⟩

/-! ## Taking a launch in (R14, R15, R393) -/

/-- The launch that a packet p, its header and its die-slots describe. -/
def launchOf (a : Arrival) (p : Packet) (h : Header) (ps : List Part) : Launch where
  packet := match a.pctx with | some x => x.2 | none => a.pa
  origin := a.origin
  kaddr := p.kaddr
  asid := p.asid
  pclass := p.pclass
  group := p.group
  deadline := p.deadline
  start := p.start
  evt := w64 p.evt
  fault := w64 p.fault
  irq := p.irq
  key := p.key
  pos := p.pos
  gp := p.gp
  flags := h.flags
  soff := h.soff
  ntile := h.ntile
  rings := h.rings
  pinb := h.pinb
  levels := h.levels p.gp
  home := a.home
  parts := ps
  faults := 0
  abort := none
  done := none
  pctx := a.pctx.map (·.1)
  out := 0
  suspendedInsts := []

def Header.none : Header := ⟨0, 0, 0, 0, [], [], 0, 0, 0, [], true⟩

/-- The job under which a packet's checks are answered by other modules. -/
def arriveJob (id : Nat) : Nat := 2 ^ 30 + id

/-- A refused packet: only the word at EVT is written (R393). -/
def State.refusePacket (s : State) (id : Nat) (a : Arrival) : State :=
  let l := launchOf a (packetOf a.bytes) Header.none []
  ((s.setLaunch id { l with irq := false, fault := 0 }).completeLaunch id Code.badPacket.num).dropJob a.home (arriveJob id)

/-- The parts of a launch taken in here: all of them, or of a forwarded one the part that this die-slot runs. -/
def partsOf (slots : List (Nat × Nat)) (fwd : Option Nat) : List Part :=
  slots.mapIdx fun i d => ⟨d.1, d.2, if fwd = none ∨ fwd = some i then .pending else .ended, false, [], i⟩

/-- A launch whose packet and header have been read is taken in, or refused; die-slots of other modules are sent theirs,
and a pre-emption that has reached it (R14, R393, R402). -/
def State.enter (s : State) (id : Nat) (a : Arrival) (h : Header) (slots : List (Nat × Nat)) : State :=
  let p := packetOf a.bytes
  let l := launchOf a p h (partsOf slots (a.fwd.map (·.2)))
  match s.headerCheck p h slots with
  | some code => (s.setLaunch id { l with parts := [] }).completeLaunch id code.num
  | none =>
    if l.levels.any fun v => v.kind != 0 && v.trip = 0 then (s.setLaunch id { l with parts := [] }).completeLaunch id 1
    else if a.fwd.isSome then s.setLaunch id l
    else slots.foldl (fun t d =>
      if d.1 = t.modId.toNat then t
      else
        let t := t.emit (.remoteLaunch d.1 d.2 id)
        match a.pctx with | some x => t.emit (.remotePreempt d.1 d.2 id x.1 x.2) | none => t) (s.setLaunch id l)

/-- A packet's checks wait for another module, or refuse it. -/
def State.arriveFails (s : State) (id : Nat) (a : Arrival) (e : EFail) : State :=
  match e with
  | .pend m off n =>
    ({ s with arriving := Tbl.set s.arriving id a }).jobAsk a.home (arriveJob id) (packetOf a.bytes).asid m off n
  | .held => s
  | .fault .. => s.refusePacket id a

/-- A packet of 512 bytes under launch number id is read and checked (R14, R392, R393). -/
def State.arrive (s : State) (id : Nat) (a : Arrival) : State :=
  let p := packetOf a.bytes
  let ans := s.jobAnswer a.home (arriveJob id)
  let s := { s with arriving := Tbl.erase s.arriving id }
  if !s.packetFields p then s.refusePacket id a
  else
    match s.packetReach p a.fwd.isNone with
    | some e => s.arriveFails id a e
    | none =>
      match (match a.fwd with | some f => Except.ok (some f.1) | none => s.dieSlots p ans) with
      | .error e => s.arriveFails id a e
      | .ok none => s.refusePacket id a
      | .ok (some slots) =>
        match s.vread (unitAgent p.asid) ans p.kaddr 128 with
        | .error e => s.arriveFails id a e
        | .ok hb =>
          let h := headerOf hb
          match s.sectionsReach p.asid p.kaddr h with
          | some (.pend m off n) => s.arriveFails id a (.pend m off n)
          | _ => (s.enter id a h slots).dropJob a.home (arriveJob id)

/-- A packet taken in under the next launch number. -/
def State.submit (s : State) (pa : Nat) (o : Origin) (home : Nat) (bs : List Byte) : State :=
  ({ s with nextLaunch := s.nextLaunch + 1 }).arrive s.nextLaunch ⟨pa, o, home, bs, none, none⟩

/-- Packets of a die whose checks wait for other modules are looked at again. -/
def State.arriveAll (s : State) (die : Nat) : State :=
  s.arriving.foldl (fun t e => if e.2.home = die then t.arrive e.1 e.2 else t) s

/-! ## Admission (R22, R23) -/

/-- Cores of a die that run nothing, in order. -/
def State.freeCores (s : State) (die : Nat) (taken : List Nat) : List Nat :=
  ((List.range 128).map fun i => die * 128 + i).filter fun c => (s.getCore c).inst.isNone && !taken.contains c

/-- Cores reserved on a die for parts that are held. -/
def State.reserved (s : State) : List Nat :=
  (s.launches.map fun l => (l.2.parts.map fun p =>
    if p.module = s.modId.toNat ∧ p.stage = Stage.held then p.cores.map (·.1) else []).flatten).flatten

/-- A rotation of a list by a free amount: the device's choice of cores (R17). -/
def rotate {α : Type} (l : List α) (n : Nat) : List α := l.drop n ++ l.take n

/-- Clusters of a die whose eight cores are all free. -/
def wholeClusters (free : List Nat) : List (List Nat) :=
  let ks := (free.map (· / 8)).eraseDups
  (ks.map fun k => free.filter fun c => c / 8 = k).filter fun g => g.length = 8

/-- A core for each instance of a part, if there are enough at once. -/
def State.placePart (s : State) (l : Launch) (p : Part) : Option (List (Nat × Nat)) :=
  let is := (instancesOf l.levels p.coord).map (·.1)
  let free := s.freeCores p.die s.reserved
  if l.flags.getLsbD 3 then
    let ks := wholeClusters free
    let ks := rotate ks (s.freeBelow (2 ^ 89) ks.length)
    if ks.length * 8 < is.length then none
    else
      let cs := ks.flatten
      let sorted := is.mergeSort
      some (cs.zip sorted)
  else
    let cs := rotate free (s.freeBelow (2 ^ 89) free.length)
    if cs.length < is.length then none else some (cs.zip is)

/-- A sequencer's first state in an instance (R210, R357). -/
def State.seqStart (s : State) (l : Launch) (core i : Nat) : Seqr :=
  Seqr.start (BitVec.ofNat 54 (l.kaddr / 4 + l.soff.getD i 0)) (s.getSpace l.asid).tvec (isService core)

/-- The instance's own record at start. -/
def instStart (id : Nat) (l : Launch) (part inst : Nat) (cs : List Nat) : Inst where
  launch := id
  part := part
  inst := inst
  asid := l.asid
  flags := l.flags
  ntile := l.ntile
  rings := l.rings
  levels := l.levels
  lvl := (l.levels.zip cs).map fun e => lvlStart e.1 e.2
  key := l.key
  rpos := l.pos
  ridx := 0
  group := l.group
  curTask := none
  preempt := none

/-- Banks, and every counter of a core, at instance start (R56, R210); its unpinned lines stay, its instruction cache and
the scratch window's L1 lines do not. -/
def State.startCore (s : State) (id : Nat) (l : Launch) (part core inst : Nat) (cs : List Nat) : State :=
  let c := s.getCore core
  let s := s.setCore core { Core.idle with
    inst := some (instStart id l part inst cs),
    seqC := s.seqStart l core 0, seqL := s.seqStart l core 1, seqX := s.seqStart l core 2, seqS := s.seqStart l core 3,
    lm := c.lm, l1 := Tbl.keep c.l1 fun k _ => k < scrLineKey 0 0,
    wbs := c.wbs, wbq := c.wbq, sent := c.sent, nextOp := c.nextOp, bad := c.bad }
  let s := s.setCluster (coreCluster core) (s.getCluster (coreCluster core))
  (pinGo s core (linesIn 0 l.pinb)).1

/-- Every instance of a part starts, in one moment (R24). -/
def State.startPart (s : State) (id pi : Nat) : State :=
  match Tbl.get? s.launches id with
  | none => s
  | some l =>
    match l.parts[pi]? with
    | none => s
    | some p =>
      let is := instancesOf l.levels p.coord
      let late := l.start != 0 && decide (l.start.toNat < s.time.toNat)
      let s := p.cores.foldl (fun t e => t.startCore id l pi e.1 e.2 ((is.find? fun i => i.1 = e.2).map (·.2) |>.getD [])) s
      s.setLaunch id (l.updPart pi fun p => { p with stage := .running, late := late })

/-- A part is discarded because its deadline has passed: the launch is aborted EXPIRED everywhere (R25, R88). -/
def State.expirePart (s : State) (id : Nat) : State :=
  match Tbl.get? s.launches id with
  | none => s
  | some l => (s.groupCount l.group true).abortLaunch id 2

/-- Module time exceeds a launch's deadline (R25). -/
def State.pastDeadline (s : State) (l : Launch) : Bool := l.deadline != 0 && decide (l.deadline.toNat < s.time.toNat)

/-- The pending parts of a die in the order of R23: launch number and part number; those of a launch that a request stops have
left it (R402). -/
def State.pendingOn (s : State) (die : Nat) : List (Nat × Nat × Launch) :=
  (s.launches.map fun l =>
    if l.2.done.isSome || l.2.pctx.isSome then [] else
    (l.2.parts.zipIdx.filter fun p => p.1.module = s.modId.toNat && p.1.die = die && decide (p.1.stage = Stage.pending)).map
      fun p => (l.1, p.2, l.2)).flatten

/-- The head of the admission order: the highest class, then the oldest. -/
def headOf (l : List (Nat × Nat × Launch)) : Option (Nat × Nat × Launch) :=
  l.foldl (fun acc e => match acc with
    | none => some e
    | some a => if a.2.2.pclass < e.2.2.pclass then some e else some a) none

/-- A launch of a die's queue no longer waits for admission there. -/
def State.leftQueue (s : State) (die id : Nat) : Bool :=
  if (Tbl.get? s.arriving id).isSome then false else
  match Tbl.get? s.launches id with
  | some l => l.done.isSome || !(l.parts.any fun p => p.module = s.modId.toNat && p.die = die && decide (p.stage = Stage.pending))
  | none => true

/-- Launches leave a die's queue in order, each once it waits for admission no longer (R393). -/
def State.hlaunchLeave (s : State) (die : Nat) : State :=
  let d := s.getDie die
  s.setDie die { d with hlaunch := d.hlaunch.dropWhile (s.leftQueue die) }

end Sys2Proof.Machine
end

