-- ==== Sys2Proof/Machine/Former.lean ====
section
/-! DEFINITION. The batch former: bins, their freezing, shape records and evaluation launches; pops and hand-offs of the
queue (R76, R83, R98 to R101, R116). -/

namespace Sys2Proof.Machine

open Sys2Proof

/-! ## The weight-set registry (R98) -/

/-- Bytes at a physical address, where it is backed and correctable. -/
def State.physRead (s : State) (pa n : Nat) : Option (List Byte) :=
  if pageBacked pa n && !s.badRange pa n then some (s.physBytes pa n) else none

/-- The registry entry of a weight set as a bin's opening reads it; none where it cannot be read. -/
def State.readRegistry (s : State) (die w : Nat) : Option Registry :=
  (s.physRead ((s.getDie die).wsreg.toNat + 32 * w) 32).map fun e =>
    let t := fld e 0x18 8
    { valid := fld e 0x0F 1 % 2 = 1 && t != 0 && t % 64 = 0,
      kaddr := w64 (fld e 0 8),
      window := min (fld e 0x08 4) (2 ^ 20),
      rowlim := if fld e 0x0C 2 = 0 then 1 else min (fld e 0x0C 2) 1024,
      pclass := fld e 0x0E 1 % 8,
      shape := w64 (fld e 0x10 8),
      tmpl := s.physRead t 512 }

/-- The batch-former error count rises. -/
def State.bfError (s : State) (die : Nat) : State :=
  let d := s.getDie die
  s.setDie die { d with bfErr := d.bfErr + 1 }

def State.getBin (s : State) (die n : Nat) : Option Bin := Tbl.get? (s.getDie die).bins n

def State.setBin (s : State) (die n : Nat) (b : Bin) : State :=
  let d := s.getDie die
  s.setDie die { d with bins := Tbl.set d.bins n b }

def State.emptyBin (s : State) (die n : Nat) : State :=
  let d := s.getDie die
  s.setDie die { d with bins := Tbl.erase d.bins n }

/-! ## Shape records (R100, R114, R116) -/

/-- The segment length of a row: PAYLOAD[15:0], 0 read as 1. -/
def Task.segLen (t : Task) : Nat := if natBits t.payload.toNat 0 16 = 0 then 1 else natBits t.payload.toNat 0 16

/-- The entries of a record, each starting where the last ended. -/
def rowsBytes (rows : List (Word32 × Task)) (start : Nat) : List Byte :=
  match rows with
  | [] => []
  | (h, t) :: rest =>
    leBytes 4 h.toNat ++ leBytes 4 t.node.toNat ++ leBytes 8 t.payload.toNat ++ leBytes 4 start ++ leBytes 4 t.segLen ++
      List.replicate 8 0 ++ rowsBytes rest (start + t.segLen)

def shapeBytes (rows : List (Word32 × Task)) : List Byte :=
  leBytes 4 0x5348_5052 ++ leBytes 2 rows.length ++ [0, 0] ++
    leBytes 4 ((rows.map fun r => r.2.segLen).foldl (· + ·) 0) ++ List.replicate 52 0 ++ rowsBytes rows 0

/-- The first free area after the one a weight set used last, counting upwards modulo 16 (R116). -/
def State.freeArea (s : State) (die w : Nat) : Option Nat :=
  let d := s.getDie die
  let first := match Tbl.get? d.lastArea w with | some a => a + 1 | none => 0
  ((List.range 16).map fun i => (first + i) % 16).find? fun a => (Tbl.get? d.areas (16 * w + a)).isNone

/-- The launch packet built from a template (R100). -/
def buildPacket (t : List Byte) (reg : Registry) (die : Nat) (gp0 : Nat) : List Byte :=
  leBytes 8 reg.kaddr.toNat ++ slice t 8 1 ++ leBytes 1 reg.pclass ++ [0, 0] ++ leBytes 1 die ++ slice t 0x0D 1 ++
    leBytes 2 1 ++ leBytes 8 0 ++ slice t 0x18 0xE8 ++ leBytes 8 gp0 ++ slice t 0x108 0xF8

/-- Rows all end CANCELLED and the error count rises (R100). -/
def State.dropRows (s : State) (die n : Nat) (rows : List Nat) : State :=
  ((rows.foldl (fun t slot => t.endTask die slot .cancelled) s).bfError die).emptyBin die n

/-- What becomes of a bin whose record stands in its area: the rows go with their launch; a refused record ends them all and
frees the area; while parts of it at other modules have not been answered the bin stays (R100, R116). -/
def State.recordedBin (s : State) (die n : Nat) : State :=
  match s.getBin die n with
  | none => s
  | some b =>
    match b.area with
    | none => s
    | some a =>
      let d := s.getDie die
      if b.out ≠ 0 then s
      else if b.refused then (s.setDie die { d with areas := Tbl.erase d.areas (16 * b.wset + a) }).dropRows die n b.rows
      else
        let id := s.nextLaunch
        let t := s.setDie die { d with areas := Tbl.set d.areas (16 * b.wset + a) id }
        let t := b.rows.foldl (fun u sl => u.setTask die sl { u.getTask die sl with state := .row id }) t
        (t.emptyBin die n).submit 0 (.former die b.wset a b.rows) die
          (buildPacket (b.reg.tmpl.getD []) b.reg die (b.reg.shape.toNat + a * 0x8040))

/-- A frozen bin's record, once an area is free; else it stays frozen. The launch follows the record (R100, R116). -/
def State.launchBin (s : State) (die n : Nat) : State :=
  match s.getBin die n with
  | none => s
  | some b =>
    if !b.frozen then s
    else if b.area.isSome then s.recordedBin die n
    else
      let asid := match b.reg.tmpl with | some t => fld t 8 1 | none => 64
      let clean := match b.reg.tmpl with | some t => (packetOf t).clean | none => false
      if !clean || !(s.getSpace asid).en then s.dropRows die n b.rows
      else
        match s.freeArea die b.wset with
        | none => s
        | some a =>
          let base := b.reg.shape.toNat + a * 0x8040
          let bs := shapeBytes (b.rows.map fun sl => (taskHandle die sl (s.getTask die sl).gen, s.getTask die sl))
          match s.postAs (binWrites + die, n) asid base bs with
          | .error _ => s.dropRows die n b.rows
          | .ok t =>
            let d := t.getDie die
            let t := t.setDie die { d with areas := Tbl.set d.areas (16 * b.wset + a) 0, lastArea := Tbl.set d.lastArea b.wset a }
            (t.setBin die n { b with area := some a, out := (parts base bs.length).countP fun p => s.goesFar p.1 }).recordedBin die n

/-- A part of a bin's record at another module has been answered (R44, R100). -/
def State.binBack (s : State) (die n : Nat) (refused : Bool) : State :=
  match s.getBin die n with
  | some b => s.setBin die n { b with out := b.out - 1, refused := b.refused || refused }
  | none => s

/-- A frozen bin can go on: its record has been answered, or it may take an area (R116). -/
def State.binReady (s : State) (die : Nat) (b : Bin) : Bool :=
  b.frozen && if b.area.isSome then b.out = 0 else (s.freeArea die b.wset).isSome

/-- A bin freezes: rows that fail the check end; the rest go on, if any (R100). -/
def State.freeze (s : State) (die n : Nat) : State :=
  match s.getBin die n with
  | none => s
  | some b =>
    if b.frozen then s
    else
      let bad := b.rows.filterMap fun sl => (s.failsCheck (s.getTask die sl)).map fun r => (sl, r)
      let left := b.rows.filter fun sl => !(bad.any fun e => e.1 = sl)
      let s := s.setBin die n { b with rows := left, frozen := true }
      let s := bad.foldl (fun t e => t.endTask die e.1 e.2) s
      if left.isEmpty then s.emptyBin die n else s.launchBin die n

/-! ## Hand-off (R99) -/

/-- The window of a bin is over: 47 clocks last 50 ns (R7, R100). -/
def State.windowOver (s : State) (b : Bin) : Bool := decide (b.reg.window * 50 ≤ (s.time.toNat - b.opened) * 47)

/-- The open bins of a weight set whose window is over freeze before an arrival is looked at (R100). -/
def State.freezeDue (s : State) (die w : Nat) : State :=
  ((s.getDie die).bins.filter fun b => b.2.wset = w && !b.2.frozen && s.windowOver b.2).foldl (fun t b => t.freeze die b.1) s

/-- A queued EVAL task handed over; none while the hand-off stalls. -/
def State.handOff (s : State) (die slot : Nat) : Option State :=
  let t := s.getTask die slot
  let w := t.wset.toNat
  let s := s.freezeDue die w
  let d := s.getDie die
  match d.bins.find? fun b => b.2.wset = w && !b.2.frozen with
  | some (n, b) =>
    let s := (s.setBin die n { b with rows := b.rows ++ [slot] }).setTask die slot { t with state := .binned n }
    some (if b.reg.rowlim ≤ b.rows.length + 1 then s.freeze die n else s)
  | none =>
    match (List.range 16).find? fun n => (Tbl.get? d.bins n).isNone with
    | none => none
    | some n =>
      match s.readRegistry die w with
      | none => some ((s.endTask die slot .cancelled).bfError die)
      | some reg =>
        if !reg.valid then some ((s.endTask die slot .cancelled).bfError die)
        else
          let s := (s.setBin die n ⟨w, reg, [slot], s.time.toNat, false, none, 0, false⟩).setTask die slot { t with state := .binned n }
          some (if reg.rowlim ≤ 1 ∨ reg.window = 0 then s.freeze die n else s)

/-! ## Pops (R76, R83) -/

/-- The first issuable CORE task of a class in queue order: records met on the way are removed, handed over or, where they
keep their places, passed by. fuel is at least the number of records. -/
def popGo (s : State) (fuel die cls : Nat) (seen : List Nat) : State × Option (Nat × Task) :=
  match fuel with
  | 0 => (s, none)
  | k + 1 =>
    match firstTask ((s.queued die).filter fun e => !seen.contains e.1) with
    | none => (s, none)
    | some (slot, t) =>
      match s.failsCheck t with
      | some r => popGo (s.endTask die slot r) k die cls seen
      | none =>
        if t.isEval then
          match s.handOff die slot with
          | some u => popGo u k die cls seen
          | none => popGo s k die cls (slot :: seen)
        else if t.wset.toNat = cls then (s, some (slot, t))
        else popGo s k die cls (slot :: seen)

def State.pop (s : State) (die cls : Nat) : State × Option (Nat × Task) := popGo s (s.taskCount + 1) die cls []

end Sys2Proof.Machine
end

