-- ==== Sys2Proof/Machine/Kv.lean ====
section
/-! DEFINITION. Major 0x28 and the KV unit: appends, placement, roots, translation (R117 to R123, R333). -/

namespace Sys2Proof.Machine

open Sys2Proof

/-! ## Acceptance (R333) -/

def execKvapp (h : Hdr) (xc xa : XReg) (b : AReg) (acq rel : OScope) (k : Ctr) (s : State) :
    Host.Outcome State Fault Refusal :=
  let f := cmdForm h 0x28 0 [xc, xa] []
  s.issueAsync f 0x28 0 k fun _ t =>
    let sid : Word32 := (t.getX xa).setWidth 32
    let src := t.getA b
    if !t.isHome sid.toNat then .trap .illegal 0
    else if src.toNat % 16 ≠ 0 then .trap .misalign src
    else t.acceptWith f 0x28 0 k acq fun u => .done (u.addOp f 0x28 0 k acq rel (.kvapp xc sid src) false)

def execKvappNew (h : Hdr) (xc : XReg) (a : AReg) (acq rel : OScope) (k : Ctr) (s : State) :
    Host.Outcome State Fault Refusal :=
  let f := cmdForm h 0x28 1 [xc] []
  s.issueAsync f 0x28 1 k fun _ t =>
    let src := t.getA a
    if src.toNat % 64 ≠ 0 then .trap .misalign src
    else t.acceptWith f 0x28 1 k acq fun u => .done (u.addOp f 0x28 1 k acq rel (.kvnew xc src) false)

def execKvappDrop (h : Hdr) (xa : XReg) (acq rel : OScope) (k : Ctr) (s : State) : Host.Outcome State Fault Refusal :=
  let f := cmdForm h 0x28 2 [xa] []
  s.issueAsync f 0x28 2 k fun _ t =>
    let sid : Word32 := (t.getX xa).setWidth 32
    if !t.isHome sid.toNat then .trap .illegal 0
    else t.acceptWith f 0x28 2 k acq fun u => .done (u.addOp f 0x28 2 k acq rel (.kvdrop sid) false)

/-- A module number can be reached, or is this one (R44). -/
def State.reaches (s : State) (m : Nat) : Bool := m = s.modId.toNat || s.mgmt.reachable.contains m

/-- The SBT cache holds the entry of a block (R118). -/
def State.sbtHeld (s : State) (sid blk : Nat) : Option Nat :=
  match Tbl.get? s.sbt (sbtKey sid blk) with
  | some (e, _, true) => some e.toNat
  | _ => none

/-- The home module has to be asked and cannot be reached (R120). -/
def State.kvUnreached (s : State) (sid : Word32) (blk : Nat) : Bool :=
  decide (blk < 2 ^ 20) && (s.sbtHeld sid.toNat blk).isNone && !s.reaches (s.blockModule (sidHome sid.toNat))

def execKvmap (h : Hdr) (xc xa xb : XReg) (pd : PReg) (acq rel : OScope) (k : Ctr) (s : State) :
    Host.Outcome State Fault Refusal :=
  let f := cmdForm h 0x28 3 [xc, xPlus xc 1, xa, xb] [pd]
  s.issueAsync f 0x28 3 k fun _ t =>
    let sid : Word32 := (t.getX xa).setWidth 32
    let blk := lo32 (t.getX xb)
    if xc = 15 then .trap .illegal 0
    else if t.kvUnreached sid blk then .trap .page (pageVal 1 (t.getX xa))
    else t.acceptWith f 0x28 3 k acq fun u => .done (u.addOp f 0x28 3 k acq rel (.kvmap xc pd sid blk) false)

/-! ## Results -/

/-- A register of an operation's sequencer written as the operation completes (R333). -/
def State.opSetX (s : State) (core : Nat) (o : Op) (r : XReg) (v : Word64) : State :=
  let c := s.getCore core
  s.setCore core (c.setSeqr o.seq ((c.seqr o.seq).setX r v))

def State.opSetP (s : State) (core : Nat) (o : Op) (r : PReg) (b : Bool) : State :=
  let c := s.getCore core
  s.setCore core (c.setSeqr o.seq ((c.seqr o.seq).setP r (predOf b)))

/-- A KV command whose work is done completes once the writes and broadcasts it sent have been performed; one that another
module refuses fails it (R121, R361). -/
def State.kvFinish (s : State) (core op : Nat) (dst : XReg) (sid : Word32) : State :=
  match (s.getCore core).findOp op with
  | none => s
  | some o =>
    match answerWhy o.answer, o.answer with
    | some (c, r), _ => s.failOp core o c.code.toNat r (sid.setWidth 64) 0
    | none, some (.value _ _ v) => if o.out = 0 then (s.opSetX core o dst v).doneOp core op else s
    | none, _ => s

/-- A KV command has a result. -/
def State.kvEnd (s : State) (core : Nat) (o : Op) (dst : XReg) (sid : Word32) (v : Nat) : State :=
  (s.setCore core ((s.getCore core).updOp o.id fun x =>
    { x with prog := 2, answer := some (.value core o.id (w64 v)) })).kvFinish core o.id dst sid

/-! ## The pool (R119, R121) -/

/-- The first number from n on, cyclically below m, that holds p; fuel is m. -/
def firstFrom (p : Nat → Bool) (m fuel n : Nat) : Option Nat :=
  match fuel with
  | 0 => none
  | k + 1 => if p (n % m) then some (n % m) else firstFrom p m k (n + 1)

/-- A free block of this module: a free choice among those with REFCNT 0 (log entry 12), whether VALID or not (R119; DESIGN
CHOICE, log entry 70). -/
def State.freeBlock (s : State) (die salt : Nat) : Option Nat :=
  let m := (s.getDie die).sstn.toNat
  if m = 0 then none else firstFrom (fun g => s.refcnt die g = 0) m m (s.freeBelow (salt + 2 ^ 86) m)

/-- The base of a block of this module (R119). -/
def State.blockAddr (s : State) (die gbn : Nat) : Nat := fld (s.sstEntry die gbn) 0 8

def State.blockTier (s : State) (die gbn : Nat) : Nat := fld (s.sstEntry die gbn) 10 1 % 4

/-! ## Appending (R121) -/

/-- KVDRAIN of a module (R418). -/
def State.drained (s : State) (m : Nat) : Bool := (Tbl.getD s.mgmt.kvdrain (m / 64) 0).getLsbD (m % 64)

/-- The shard module whose SHTOK is least, the lowest number among equals: its place in SHMOD. A drained module counts as
full (R418). -/
def State.leastShard (s : State) (k : KvRoot) : Nat :=
  let tok (i : Nat) : Nat := if s.drained (s.blockModule (k.shmod.getD i 0 % 1024)) then 0xFFFF_FFFF else k.shtok.getD i 0
  (List.range k.shmod.length).foldl (fun best i =>
    let a := tok i
    let b := tok best
    if a < b ∨ (a = b ∧ k.shmod.getD i 0 % 1024 < k.shmod.getD best 0 % 1024) then i else best) 0

/-- The shard that holds a module. -/
def KvRoot.shardOf (k : KvRoot) (m : Nat) : Nat := (k.shmod.findIdx? fun x => x % 1024 = m).getD 0

/-- NTOK and a shard's SHTOK rise by one. -/
def KvRoot.count (k : KvRoot) (shard : Nat) : KvRoot :=
  { k with ntok := k.ntok + 1, shtok := (List.range 16).map fun i => k.shtok.getD i 0 + (if i = shard then 1 else 0) }

/-- Block b is placed: the table entry with EPOCH + 1, broadcast to the shard set (R121, R122). -/
def State.placeBlock (s : State) (who : Nat × Nat) (die : Nat) (sid : Nat) (k : KvRoot) (b : Nat) (e : Nat) :
    State × KvRoot :=
  let k := { k with epoch := k.epoch + 1 }
  ((s.sbtWrite die k b e).broadcast who sid k b (w64 e) k.epoch, k)

/-- An append whose block lies on another module: the row goes there, the answer is the block it now lies in and its TIER
(R118, R121). -/
def State.appendFar (s : State) (core die : Nat) (o : Op) (dst : XReg) (sid : Word32) (k : KvRoot) (m b : Nat) (old : Option Nat)
    (row : List Byte) (gbn : Option (BitVec 28)) (tier : BitVec 2) : State :=
  if o.prog = 0 then
    (s.setCore core ((s.getCore core).updOp o.id fun x => { x with prog := 1, answer := none, asked := [(0, m)] })).emit
      (.kvRow (s.blockModule m) core o.id (k.ntok % 64) old row o.sup)
  else
    match gbn with
    | none => s.kvEnd core o dst sid 2
    | some g =>
      let (s, k) := if old = some g.toNat then (s, k)
        else s.placeBlock (core, o.id) die sid.toNat k b (sbtMake tier.toNat m g.toNat)
      (s.putRoot die (sidRoot sid.toNat) (k.count (k.shardOf m))).kvEnd core o dst sid 0

/-- The row written into a block of this module; then the root counts it. A row of several lines becomes visible in one step,
where R123 lets a reader meet zero or the row line by line (log entry 56). -/
def State.appendHere (s : State) (core die : Nat) (o : Op) (dst : XReg) (sid : Word32) (k : KvRoot) (gbn shard : Nat)
    (row : List Byte) : State :=
  match s.vwrite (kvAgent s die o.sup) (s.blockAddr die gbn + k.ntok % 64 * k.trowb) row with
  | (t, none) => (t.putRoot die (sidRoot sid.toNat) (k.count shard)).kvEnd core o dst sid 0
  | (_, some e) => s.failOpE core o e 0

/-- An append with its row read (R121). gbn: the block another module, or a turn from outside, has chosen. -/
def State.append (s : State) (core die : Nat) (o : Op) (dst : XReg) (sid : Word32) (k : KvRoot) (row : List Byte)
    (gbn : Option (BitVec 28)) (tier : BitVec 2) : State :=
  let b := k.ntok / 64
  let who := (core, o.id)
  let mine := s.modId.toNat % 1024
  let pick : Option Nat := match gbn with
    | some g => if s.refcnt die g.toNat = 0 && decide (g.toNat < (s.getDie die).sstn.toNat) then some g.toNat else s.freeBlock die o.id
    | none => s.freeBlock die o.id
  if k.ntok % 64 ≠ 0 then
    let e := s.sbtRead die k b
    let m := sbtModule e
    let g := sbtGbn e
    if m != mine then s.appendFar core die o dst sid k m b (some g) row gbn tier
    else if s.refcnt die g ≤ 1 then s.appendHere core die o dst sid k g (k.shardOf m) row
    else
      match pick with
      | none => s.kvEnd core o dst sid 2
      | some n =>
        match s.vread (kvAgent s die o.sup) none (s.blockAddr die g) (64 * k.trowb) with
        | .error e => s.failOpE core o e 0
        | .ok bs =>
          match s.vwrite (kvAgent s die o.sup) (s.blockAddr die n) bs with
          | (_, some e) => s.failOpE core o e 0
          | (t, none) =>
            let t := (t.setRefcnt die n 1).setRefcnt die g (t.refcnt die g - 1)
            let (t, k) := t.placeBlock who die sid.toNat k b (sbtMake (t.blockTier die n) m n)
            t.appendHere core die o dst sid k n (k.shardOf m) row
  else
    let shard := s.leastShard k
    let m := k.shmod.getD shard 0 % 1024
    if m != mine then s.appendFar core die o dst sid k m b none row gbn tier
    else
      match pick with
      | none => s.kvEnd core o dst sid 2
      | some n =>
        match s.vwrite (kvAgent s die o.sup) (s.blockAddr die n) (List.replicate (64 * k.trowb) 0) with
        | (_, some e) => s.failOpE core o e 0
        | (t, none) =>
          let t := t.setRefcnt die n 1
          let (t, k) := t.placeBlock who die sid.toNat k b (sbtMake (t.blockTier die n) m n)
          t.appendHere core die o dst sid k n shard row

/-! ## Roots (R117, R333) -/

/-- A template's root, or none where it is invalid (R333 Table 8). -/
def State.kvTemplate (s : State) (bs : List Byte) : Option KvRoot :=
  let nblk := fld bs 12 4
  let trowb := fld bs 24 8
  let n := fld bs 19 1
  let mods := (List.range n).map fun i => fld bs (32 + 2 * i) 2 % 1024
  if 1 ≤ nblk ∧ nblk ≤ 2 ^ 20 ∧ trowb ≠ 0 ∧ trowb % 16 = 0 ∧ 1 ≤ n ∧ n ≤ 16 ∧ (mods.all fun m => s.reaches (s.blockModule m)) then
    some ⟨w64 (fld bs 0 8), 0, nblk, 0, true, true, mods, List.replicate 16 0, 0, trowb⟩
  else none

/-- `kvapp.new`: a free root, by free choice (log entry 12); the entries at BTBASE stay as memory has them (DESIGN CHOICE, log
entry 70). -/
def State.kvNew (s : State) (core die : Nat) (o : Op) (dst : XReg) (src : Word64) : State :=
  match s.vread (s.opAgent core o) o.answer src.toNat 128 with
  | .error e => s.failOpE core o e 0
  | .ok bs =>
    match s.kvTemplate bs with
    | none => s.kvEnd core o dst 0 0xFFFF_FFFE
    | some k =>
      match firstFrom (fun r => !s.rootLive r) 0x7FFF 0x7FFF (s.freeBelow (o.id + 2 ^ 87) 0x7FFF) with
      | none => s.kvEnd core o dst 0 0xFFFF_FFFF
      | some r => (s.putRoot die r k).kvEnd core o dst 0 (s.sidOf r)

/-- `kvapp.drop`. -/
def State.kvDrop (s : State) (core die : Nat) (o : Op) (sid : Nat) : State :=
  let r := sidRoot sid
  match s.getRoot r with
  | some k =>
    if k.live && k.hold then ((s.putRoot die r { k with hold := false }).rootFree die r).doneOp core o.id
    else s.doneOp core o.id
  | none => s.doneOp core o.id

/-- A row of a root is on its way to another module: the next append to the root waits for it (R121). -/
def State.appending (s : State) (sid : Word32) : Bool :=
  s.cores.any fun c => c.2.ops.any fun o => match o.kind with | .kvapp _ i _ => i = sid && o.prog = 1 && !o.done | _ => false

/-- The KV unit performs an append, a new root or a drop (R121, R333); for an append, with the block that a module of
the shard set has allocated. -/
def execKvPlace (core op : Nat) (block : Option (BitVec 28 × BitVec 2)) (s : State) : Host.Outcome State Fault Refusal :=
  let die := coreDie core
  let gbn := block.map (·.1)
  let tier := (block.map (·.2)).getD 0
  match (s.getCore core).findOp op with
  | none => .next s
  | some o =>
    if o.done then .next s
    else
      match o.kind with
      | .kvapp dst sid src =>
        if o.prog = 2 then .next (s.kvFinish core op dst sid)
        else
          match (if o.prog = 1 then answerWhy o.answer else none) with
          | some (c, r) => .next (s.failOp core o c.code.toNat r (sid.setWidth 64) 0)
          | none =>
            match s.getRoot (sidRoot sid.toNat) with
            | none => .next (s.kvEnd core o dst sid 3)
            | some k =>
              if !k.live then .next (s.kvEnd core o dst sid 3)
              else if k.ntok = 64 * k.nblk then .next (s.kvEnd core o dst sid 1)
              else if o.prog = 1 then
                let b := k.ntok / 64
                let e := s.sbtRead die k b
                let old := if k.ntok % 64 = 0 then none else some (sbtGbn e)
                let m := match o.asked with | (_, m) :: _ => m | [] => 0
                .next (s.appendFar core die o dst sid k m b old [] gbn tier)
              else if s.appending sid then .next s
              else
                match s.vread (s.opAgent core o) o.answer src.toNat k.trowb with
                | .error e => .next (s.failOpE core o e 0)
                | .ok row => .next (s.append core die o dst sid k row gbn tier)
      | .kvnew dst src => .next (s.kvNew core die o dst src)
      | .kvdrop sid => .next (s.kvDrop core die o sid.toNat)
      | _ => .next s

/-- A placement that waits for another module's answer; the unit itself does nothing more for it. -/
def State.kvWaits (s : State) (core op : Nat) : Bool :=
  match (s.getCore core).findOp op with | some o => o.prog = 1 && (answerWhy o.answer).isNone | none => false

/-! ## Translation (R120, R122) -/

/-- A broadcast reaches this module, which acknowledges it (R121, R122). -/
def execKvBroadcast (sid : BitVec 32) (blk : Nat) (entry : BitVec 64) (epoch : BitVec 32) (s : State) :
    Host.Outcome State Fault Refusal := .next ((s.sbtApply sid.toNat blk entry epoch).emit (.remoteAnswer true []))

/-- The translations that wait for this entry go on with it, or with a newer one of the cache (R120, R122). -/
def State.sbtCame (s : State) (sid : Word32) (blk : Nat) (entry : Word64) : State :=
  let e := match s.sbtHeld sid.toNat blk with | some e => w64 e | none => entry
  { s with cores := Tbl.mapVals s.cores fun n c =>
      { c with ops := c.ops.map fun (o : Op) =>
          match o.kind with
          | .kvmap _ _ i b =>
            if i = sid && b = blk && o.prog = 1 && !o.done then { o with answer := some (.value n o.id e) } else o
          | _ => o } }

/-- An entry fetched from the home module arrives (R120, R122). -/
def execSbtFetch (sid : BitVec 32) (blk : Nat) (entry : BitVec 64) (epoch : BitVec 32) (s : State) :
    Host.Outcome State Fault Refusal := .next ((s.sbtApply sid.toNat blk entry epoch).sbtCame sid blk entry)

/-- kvmap ends unmapped. -/
def State.unmapped (s : State) (core : Nat) (o : Op) (dst : XReg) (pd : PReg) : State :=
  (((s.opSetX core o dst 0).opSetX core o (xPlus dst 1) 0).opSetP core o pd false).doneOp core o.id

/-- kvmap ends mapped: the global-window address and TIER (R42, R120). -/
def State.mapped (s : State) (core : Nat) (o : Op) (dst : XReg) (pd : PReg) (m : Nat) (addr : Word64) (tier : Nat) : State :=
  let a : Word64 := w64 (2 ^ 55 + m * 2 ^ 43 + addr.toNat % 2 ^ 43)
  (((s.opSetX core o dst a).opSetX core o (xPlus dst 1) (w64 tier)).opSetP core o pd true).doneOp core o.id

/-- An entry leaves the SBT cache (R118). -/
def State.sbtEvict (s : State) (sid blk : Nat) : State :=
  { s with sbt := Tbl.mapVals s.sbt fun k e => if k = sbtKey sid blk then (e.1, e.2.1, false) else e }

/-- The home module's own entry of a block, which its cache then holds. -/
def State.sbtHome (s : State) (die sid blk : Nat) : State × Nat :=
  match s.getRoot (sidRoot sid) with
  | some k =>
    if k.live && decide (blk < k.nblk) then
      let e := s.sbtRead die k blk
      (s.sbtApply sid blk (w64 e) k.epoch, e)
    else (s, 0)
  | none => (s, 0)

/-- The second stage of kvmap: the block's owner is asked, or answers here (R120). -/
def State.kvOwner (s : State) (core die : Nat) (o : Op) (dst : XReg) (pd : PReg) (sid : Word32) (e : Nat) : State :=
  if !sbtValid e then s.unmapped core o dst pd
  else
    let m := s.blockModule (sbtModule e)
    if m = s.modId.toNat then
      let b := s.sstEntry die (sbtGbn e)
      if fld b 11 1 % 2 = 1 then s.mapped core o dst pd m (w64 (fld b 0 8)) (fld b 10 1 % 4) else s.unmapped core o dst pd
    else if !s.reaches m then s.failOp core o 3 1 (sid.setWidth 64) 0
    else
      (s.setCore core ((s.getCore core).updOp o.id fun x => { x with prog := 2, asked := [(0, m)], answer := none })).emit
        (.sstAsk m core o.id (sbtGbn e))

/-- One step of kvmap (R120); valid, addr and tier: the owner's second-stage answer, when another module owns the block. An
entry of the cache may have been evicted by now (R118). -/
def execSstLookup (core op : Nat) (addr : BitVec 64) (tier : BitVec 2) (valid : Bool) (s : State) :
    Host.Outcome State Fault Refusal :=
  let die := coreDie core
  match (s.getCore core).findOp op with
  | none => .next s
  | some o =>
    if o.done then .next s
    else
      match o.kind with
      | .kvmap dst pd sid blk =>
        let n := sid.toNat
        match answerWhy o.answer with
        | some (c, r) => .next (s.failOp core o c.code.toNat r (sid.setWidth 64) 0)
        | none =>
          if o.prog = 2 then
            let m := match o.asked with | (_, m) :: _ => m | [] => 0
            .next (if valid then s.mapped core o dst pd m addr tier.toNat else s.unmapped core o dst pd)
          else if o.prog = 1 then
            match o.answer with
            | some (.value _ _ e) => .next (s.kvOwner core die o dst pd sid e.toNat)
            | _ => .next s
          else if 2 ^ 20 ≤ blk then .next (s.unmapped core o dst pd)
          else
            let s := if s.freeBool (sbtKey n blk + 2 ^ 88) then s.sbtEvict n blk else s
            match s.sbtHeld n blk with
            | some e => .next (s.kvOwner core die o dst pd sid e)
            | none =>
              if s.isHome n then
                let (t, e) := s.sbtHome die n blk
                .next (t.kvOwner core die o dst pd sid e)
              else if !s.reaches (s.blockModule (sidHome n)) then .next (s.failOp core o 3 1 (sid.setWidth 64) 0)
              else
                .next ((s.setCore core ((s.getCore core).updOp op fun x => { x with prog := 1 })).emit
                  (.kvFetch (s.blockModule (sidHome n)) core op sid blk))
      | _ => .next s

end Sys2Proof.Machine
end

