-- ==== Sys2Proof/Machine/Task.lean ====
section
/-! DEFINITION. Major 0x29: tasks, cancellation, cancel groups (R70 to R88, R335 to R341). -/

namespace Sys2Proof.Machine

open Sys2Proof

/-! ## What sync commands share -/

def State.acquireAt (s : State) (acq : OScope) : State :=
  match acq with | none => s | some sc => s.acquire s.core s.seq sc

/-- A sync command that is a release: it waits for its covered accesses, then does its work. -/
def State.releasing (s : State) (rel : OScope) (go : State → State) : Res :=
  match s.acceptRel rel with
  | .error r => r
  | .ok t => .done (go t)

/-- What another module has answered a request of the running sequencer: its number tells requests apart. -/
inductive Reply where
  | value (v : Word64)
  | lost
  /-- it has met uncorrectable data there -/
  | bad
  | none (r : Res)

/-- A request to another module that the running sequencer waits for at issue. -/
def State.sendAsk (s : State) (key : Word64) (m : Nat → Nat → Msg) : State :=
  let c := s.cur
  let o : Op := ⟨c.nextOp, s.seq, none, s.sq.pc, 0, 0, 0, s.sq.sup, none, none, .probe key, 0, false, none, [], 0, [], [], none⟩
  (s.setCur { c with ops := c.ops ++ [o], nextOp := c.nextOp + 1 }).emit (m s.core c.nextOp)

def State.ask (s : State) (key : Word64) (m : Nat → Nat → Msg) : Reply :=
  match s.cur.ops.find? fun o => o.isProbe s.seq key with
  | some o =>
    match o.answer with
    | some (.value _ _ v) => .value v
    | some (.ack _ _) => .value 1
    | some (.lost _ _) => .lost
    | some (.denied _ _ _ _) => .bad
    | _ => .none .wait
  | none => .none (.hold fun t => t.sendAsk key m)

/-- A request whose answer the instruction has used. -/
def State.dropAsk (s : State) (key : Word64) : State :=
  s.setCur { s.cur with ops := s.cur.ops.filter fun o => !o.isProbe s.seq key }

/-! ## Records (R70, R335) -/

/-- The task record in x(n) to x(n + 3), not yet in a state. -/
def State.recordAt (s : State) (n : XReg) : Task :=
  let w (i : Nat) : Nat := (s.getX (xPlus n i)).toNat
  { Task.start with
    pri := BitVec.ofNat 32 (natBits (w 0) 0 32),
    node := BitVec.ofNat 32 (natBits (w 0) 32 32),
    join := BitVec.ofNat 32 (natBits (w 1) 0 32),
    group := natBits (w 1) 32 16,
    wset := BitVec.ofNat 16 (natBits (w 1) 48 16),
    deadline := BitVec.ofNat 48 (natBits (w 2) 0 48),
    kk := BitVec.ofNat 16 (natBits (w 2) 48 16),
    payload := w64 (w 3) }

/-- The four registers of a record. -/
def Task.words (t : Task) : List Word64 :=
  [w64 (t.pri.toNat + 2 ^ 32 * t.node.toNat), w64 (t.join.toNat + 2 ^ 32 * (t.group % 2 ^ 16) + 2 ^ 48 * t.wset.toNat),
    w64 (t.deadline.toNat + 2 ^ 48 * t.kk.toNat), t.payload]

/-- x(n) upwards take words. -/
def State.setXs (s : State) (n : XReg) (ws : List Word64) : State :=
  match ws with
  | [] => s
  | w :: rest => State.setXs (s.setX n w) (xPlus n 1) rest

/-- A NaN in FP32. -/
def priNan (p : Word32) : Bool := (p &&& 0x7F80_0000) = 0x7F80_0000 && (p &&& 0x007F_FFFF) != 0

def regs4 (n : XReg) : List XReg := [n, xPlus n 1, xPlus n 2, xPlus n 3]

/-! ## Insertion (R73, R75, R79, R336) -/

/-- A free slot of a die's queue, by free choice (log entry 12). -/
def State.freeSlot (s : State) (die : Nat) : Option Nat :=
  firstFrom (fun sl => (s.getTask die sl).state = .free) (2 ^ 18) (2 ^ 18) (s.freeBelow (2 ^ 90) (2 ^ 18))

/-- The KV root of a record can take one reference more. -/
def State.kvRefOk (s : State) (t : Task) : Bool :=
  let r := natBits t.kk.toNat 0 15
  r = 0x7FFF || match s.getRoot r with | some k => k.live && decide (k.ref < 65535) | none => false

/-- The cairn of a record, where it lies here, can take one reference more. -/
def State.trefOk (s : State) (h : Word32) : Bool :=
  nodeNull h || !s.nodeHere h || decide (s.nodeFld h 34 2 < 65535)

/-- The record put into its slot, its KV root reference taken; a QUEUED one enters the queue. -/
def State.insert (s : State) (die slot : Nat) (t : Task) : State :=
  let gen := (s.getTask die slot).gen
  let r := natBits t.kk.toNat 0 15
  let s := if r = 0x7FFF then s else s.rootTake die r
  if t.state = TaskState.waiting then s.setTask die slot { t with gen := gen }
  else
    let (s, n) := s.takeSeqno die
    let d := s.getDie die
    let s := s.setDie die { d with badTasks := d.badTasks.filter fun n => n != slot }
    (s.setTask die slot { t with gen := gen, seqno := n }).wakeDie die

def trefKey (h : Word32) : Word64 := w64 (2 ^ 60 + h.toNat)

/-- `tspawn` and `tcont` past their issue checks. -/
def State.spawn (s : State) (die : Nat) (t : Task) (xc : XReg) (pd : PReg) (rel : OScope) : Res :=
  let key := trefKey t.node
  let fail (u : State) : Res := .done ((u.setX xc 0xFFFF_FFFF).setFlag pd false)
  let taken := match s.ask key (fun _ _ => .msix 0) with | .value 1 => true | _ => false
  let give (u : State) : State := if taken then (u.dropAsk key).tref t.node false else u.dropAsk key
  match s.freeSlot die with
  | none => fail (give s)
  | some slot =>
    let win (u : State) : State :=
      ((u.insert die slot t).setX xc ((taskHandle die slot (u.getTask die slot).gen).setWidth 64)).setFlag pd true
    if !s.kvRefOk t || !s.trefOk t.node then fail (give s)
    else if nodeNull t.node || s.nodeHere t.node then s.releasing rel fun u => win (u.tref t.node true)
    else if !s.nodeReachable t.node then fail (give s)
    else
      match s.ask key fun c o => .remoteTref (s.blockModule (nodeModule t.node)) true t.node c o with
      | .none r => r
      | .value 1 => s.releasing rel fun u => win (u.dropAsk key)
      | _ => fail (s.dropAsk key)

def execTspawn (h : Hdr) (xc xa : XReg) (pd : PReg) (die : Option XReg) (rel : OScope) (s : State) :
    Host.Outcome State Fault Refusal :=
  let f := cmdForm h 0x29 0 (xc :: regs4 xa ++ die.toList) [pd]
  s.issue f fun t =>
    let d := match die with | some r => (t.getX r).toNat | none => t.die
    let task := t.recordAt xa
    if 4 ≤ d then .trap .illegal 0
    else if priNan task.pri then .trap .nanPriority (task.pri.setWidth 64)
    else t.spawn d { task with state := .queued } xc pd rel

def execTcont (h : Hdr) (xc xa xb : XReg) (pd : PReg) (rel : OScope) (s : State) : Host.Outcome State Fault Refusal :=
  let f := cmdForm h 0x29 4 (xc :: xb :: regs4 xa) [pd]
  s.issue f fun t =>
    let n := (t.getX xb).toNat
    let task := t.recordAt xa
    if n = 0 ∨ 65535 < n then .trap .illegal 0
    else if priNan task.pri then .trap .nanPriority (task.pri.setWidth 64)
    else t.spawn t.die { task with state := .waiting, count := n } xc pd rel

/-! ## tpop, trepri (R76, R77, R337) -/

/-- The current task of the running instance, if it has one. -/
def State.curTask (s : State) : Option Word32 := match s.inst with | some i => i.curTask | none => none

def State.setCurTask (s : State) (h : Option Word32) : State :=
  s.setCur { s.cur with inst := s.cur.inst.map fun i => { i with curTask := h } }

/-- The current task ends as `tdone` ends it; the flag: it reports COMPLETED (R338). -/
def State.closeTask (s : State) : State × Bool :=
  match s.curTask with
  | none => (s, false)
  | some h =>
    let s := s.setCurTask none
    match s.named h with
    | some t =>
      if t.state = TaskState.running s.core then
        let r := s.liveReport t.group
        (s.endTask (handleDie h) (handleSlot h) r, r = .completed)
      else (s, false)
    | none => (s, false)

/-- The join summary of R79. -/
def Task.summary (t : Task) : Nat := t.cancelled % 2 ^ 16 * 2 ^ 16 + t.expired % 2 ^ 16

def execTpop (h : Hdr) (xc xa : XReg) (pd : PReg) (acq : OScope) (s : State) : Host.Outcome State Fault Refusal :=
  let f := cmdForm h 0x29 1 (xa :: xPlus xc 4 :: regs4 xc) [pd]
  s.issue f fun t =>
    if !(match t.inst with | some i => i.flags.getLsbD 0 | none => false) then .trap .illegal 0
    else
      let cls := natBits (t.getX xa).toNat 0 16
      let (t, _) := t.closeTask
      match t.pop t.die cls with
      | (t, none) => .done (t.setFlag pd false)
      | (t, some (slot, task)) =>
        if (t.getDie t.die).badTasks.contains slot then .trapBy (fun u => u.countUe (32 * u.die + 5) 0) .uncorr 0 else
        let hd := taskHandle t.die slot task.gen
        let t := (t.setTask t.die slot { task with state := .running t.core }).setCurTask (some hd)
        let t := t.setXs xc (task.words ++ [w64 (task.summary + 2 ^ 32 * hd.toNat)])
        .done ((t.acquireAt acq).setFlag pd true)

def execTrepri (h : Hdr) (xa xb : XReg) (pd : PReg) (s : State) : Host.Outcome State Fault Refusal :=
  s.issue (cmdForm h 0x29 2 [xa, xb] [pd]) fun t =>
    let hd : Word32 := (t.getX xa).setWidth 32
    let p : Word32 := (t.getX xb).setWidth 32
    let die := handleDie hd
    if priNan p then .trap .nanPriority (p.setWidth 64)
    else
      match t.named hd with
      | none => .done (t.setFlag pd false)
      | some task =>
        match task.state with
        | .queued =>
          let (t, n) := t.takeSeqno die
          .done ((t.setTask die (handleSlot hd) { task with pri := p, seqno := n }).setFlag pd true)
        | .waiting => .done ((t.setTask die (handleSlot hd) { task with pri := p }).setFlag pd true)
        | _ => .done (t.setFlag pd false)

/-! ## tdone, cpoint (R338, R339) -/

def execTdone (h : Hdr) (pd : PReg) (row : Option XReg) (rel : OScope) (s : State) : Host.Outcome State Fault Refusal :=
  s.issue (cmdForm h 0x29 5 row.toList [pd]) fun t =>
    match t.acceptRel rel with
    | .error r => r
    | .ok t =>
      match row with
      | none => let (t, ok) := t.closeTask; .done (t.setFlag pd ok)
      | some xa =>
        let hd : Word32 := (t.getX xa).setWidth 32
        match t.named hd, t.inst with
        | some task, some i =>
          if task.state = TaskState.row i.launch then
            let r := t.liveReport task.group
            .done ((t.endTask (handleDie hd) (handleSlot hd) r).setFlag pd (r = .completed))
          else .done (t.setFlag pd false)
        | _, _ => .done (t.setFlag pd false)

def execCpoint (h : Hdr) (pd : PReg) (s : State) : Host.Outcome State Fault Refusal :=
  s.issue (cmdForm h 0x29 6 [] [pd]) fun t =>
    if t.alive t.cmdGroup then .done (t.setFlag pd true)
    else .done (((t.endCurTask t.core).setCurTask none).setFlag pd false)

/-! ## tcancel (R82, R340) -/

/-- A command of a dead group completes CANCELLED and cancels nothing (R84); its predicate is written at acceptance all the
same (R340; log entry 52). -/
def execTcancel (h : Hdr) (xa : XReg) (pd : PReg) (module : Option XReg) (k : Ctr) (s : State) :
    Host.Outcome State Fault Refusal :=
  let f := cmdForm h 0x29 3 (xa :: module.toList) [pd]
  s.issueAsync f 0x29 3 k fun _ t =>
    let g := (t.getX xa).toNat
    let m := match module with | some r => (t.getX r).toNat | none => t.modId.toNat
    if 2 ^ 16 ≤ g ∨ 2 ^ 12 ≤ m then .trap .illegal 0
    else if !t.reaches m then .trap .page (pageVal 1 (w64 m))
    else if g = 0 then .done ((t.addOp f 0x29 3 k none none (.tcancel g m) true).setFlag pd false)
    else if !t.alive t.cmdGroup then .done ((t.addOp f 0x29 3 k none none (.tcancel g m) true).setFlag pd true)
    else
      let op := t.cur.nextOp
      let t := (t.addOp f 0x29 3 k none none (.tcancel g m) false).setFlag pd true
      .done (if m = t.modId.toNat then t else t.emit (.remoteCancel m g t.core op))

/-- A group marked dead: its key slots are retired and erased, ropes look at their siblings again; of a dead or free group, and
of group 0, nothing (R81, R82, R86, R105). -/
def State.cancelGroup (s : State) (g : Nat) (who : Option (Nat × Nat × Nat × PcWord)) : State :=
  if g = 0 || !s.alive g then s else ((s.killGroup g).retireKeys [g]).ropesResolve who

/-- The launch, MAJ, instance and address of an operation's instruction (R422). -/
def State.opIssuer (s : State) (core : Nat) (o : Op) : Option (Nat × Nat × Nat × PcWord) :=
  match (s.getCore core).inst with
  | some i => some (i.launch, o.maj, i.inst, o.pc)
  | none => none

/-- No retired key slot still holds its material (R86). -/
def State.keysErased (s : State) : Bool := s.keys.all fun k => k.2.loaded || k.2.key.isNone

/-- Every die of the target shows the group dead, and key slots that were bound to it hold no material any more (R86); a
target that was lost fails the command (R82, R361). -/
def execTcancelComplete (core op : Nat) (s : State) : Host.Outcome State Fault Refusal :=
  match (s.getCore core).findOp op with
  | none => .next s
  | some o =>
    if o.done then .next s
    else
      match o.kind with
      | .tcancel g m =>
        if m = s.modId.toNat then
          if o.prog = 0 then
            let s := s.cancelGroup g (s.opIssuer core o)
            .next (s.setCore core ((s.getCore core).updOp op fun x => { x with prog := 1 }))
          else if s.keysErased then .next (s.doneOp core op)
          else .next s
        else
          match o.answer with
          | some (.ack _ _) => .next (s.doneOp core op)
          | some (.lost _ _) => .next (s.failOp core o 13 3 (w64 (m + 2 ^ 16 * g)) 0)
          | _ => .next s
      | _ => .next s

/-! ## gnew (R81, R102, R341) -/

/-- A free group number, by free choice (log entry 12). -/
def State.freeGroup (s : State) : Option Nat :=
  firstFrom (fun g => (s.getGroup g).isNone) (2 ^ 16) (2 ^ 16) (s.freeBelow (2 ^ 91) (2 ^ 16))

/-- A child of a live parent of depth below 16 is made (R81): the new state and the group. -/
def State.newGroup (s : State) (parent : Nat) (kind : GroupKind) (sib : Nat) (rope : Option Rope) : Option (State × Nat) :=
  match s.getGroup parent, s.freeGroup with
  | some p, some g =>
    if s.alive parent && decide (p.depth < 16) then
      some ({ s with groups := Tbl.set s.groups g ⟨parent, p.depth + 1, true, kind, 0, 0, sib, 0, 0, 0, rope⟩ }, g)
    else none
  | _, _ => none

/-- The result of `gnew` for a new group, or its failure. -/
def State.gnewEnd (s : State) (xc : XReg) (pd : PReg) (r : Option (State × Nat)) : Res :=
  match r with
  | some (t, g) => .done ((t.setX xc (w64 g)).setFlag pd true)
  | none => .done ((s.setX xc 0xFFFF_FFFF).setFlag pd false)

/-- The rope a configuration block describes, if it is valid (R102 Table 8, R341). -/
def ropeOf (bs : List Byte) (asid : Nat) : Option Rope :=
  let size := fld bs 0 2
  let q := fld bs 2 2
  if size = 0 ∨ size < q ∨ 2 ≤ fld bs 4 4 ∨ fld bs 16 16 ≠ 0 ∨ fld bs 8 8 % 64 ≠ 0 then none
  else
    some {
      size := size, quorum := if q = 0 then size / 2 + 1 else q, plurality := fld bs 4 4 = 1, result := w64 (fld bs 8 8),
      asid := asid, made := 0, slots := [], others := 0, abst := 0, posts := 0, posted := [], resolved := [],
      decided := none, ended := false, settled := false, canc := 0, cancelledGroups := [], dtime := 0, win := 0,
      wincnt := 0, status := 0, ctokens := 0, cclocks := 0, ctasks := 0, decider := none }

def execGnewPlain (h : Hdr) (xc xa : XReg) (pd : PReg) (s : State) : Host.Outcome State Fault Refusal :=
  s.issue (cmdForm h 0x29 7 [xc, xa] [pd]) fun t =>
    let p := (t.getX xa).toNat
    if 2 ^ 16 ≤ p then .trap .illegal 0 else t.gnewEnd xc pd (t.newGroup p .plain 0 none)

def execGnewRope (h : Hdr) (xc xa : XReg) (pd : PReg) (xb : XReg) (s : State) : Host.Outcome State Fault Refusal :=
  s.issue (cmdForm h 0x29 7 [xc, xa, xb] [pd]) fun t =>
    let p := (t.getX xa).toNat
    if 2 ^ 16 ≤ p then .trap .illegal 0
    else if (t.getX xb).toNat / 2 ^ 56 = 0 ∧ (t.getX xb).toNat % 32 ≠ 0 then .trap .misalign (t.getX xb)
    else
      match t.syncRead 1 (t.getX xb) 32 with
      | .error r => r
      | .ok (u, bs) =>
        u.gnewEnd xc pd ((ropeOf bs u.asid).bind fun r => u.newGroup p .rope 0 (some r))

def execGnewSib (h : Hdr) (xc xa : XReg) (pd : PReg) (s : State) : Host.Outcome State Fault Refusal :=
  s.issue (cmdForm h 0x29 7 [xc, xa] [pd]) fun t =>
    let p := (t.getX xa).toNat
    if 2 ^ 16 ≤ p then .trap .illegal 0
    else
      t.gnewEnd xc pd <|
        match t.getGroup p with
        | some e =>
          match e.rope with
          | some r =>
            if e.kind != .rope || r.made = r.size || r.decided.isSome then none
            else (t.newGroup p .sib r.made none).map fun n => (n.1.setRope p { r with made := r.made + 1 }, n.2)
          | none => none
        | none => none

/-- The two words of `gnew.q` (R341). -/
def State.groupWords (s : State) (g : Nat) : Word64 × Word64 :=
  match s.getGroup g with
  | none => (w64 (2 ^ 24), 0)
  | some e =>
    (w64 (e.parent % 2 ^ 16 + 2 ^ 16 * (e.depth % 32) + (if e.alive then 2 ^ 21 else 0) +
        2 ^ 22 * (match e.kind with | .plain => 0 | .rope => 1 | .sib => 2) +
        (if e.kind = .sib then 2 ^ 32 * (e.sib % 2 ^ 16) else 0)),
      w64 (e.cancelled.toNat + 2 ^ 32 * e.expired.toNat))

def execGnewQ (h : Hdr) (xc xa : XReg) (pd : PReg) (s : State) : Host.Outcome State Fault Refusal :=
  s.issue (cmdForm h 0x29 7 [xc, xPlus xc 1, xa] [pd]) fun t =>
    let g := (t.getX xa).toNat
    if 2 ^ 16 ≤ g then .trap .illegal 0
    else
      let w := t.groupWords g
      .done (((t.setX xc w.1).setX (xPlus xc 1) w.2).setFlag pd (t.getGroup g).isSome)

end Sys2Proof.Machine
end

