-- ==== Sys2Proof/Machine/Ballot.lean ====
section
/-! DEFINITION. Major 0x2B: the ballot of a rope (R102 to R106, R346). -/

namespace Sys2Proof.Machine

open Sys2Proof

/-- The first sibling group met from a group upwards, and its rope (R346). -/
def sibAbove (s : State) (fuel g : Nat) : Option (Nat × Group) :=
  match s.getGroup g with
  | none => none
  | some e =>
    if e.kind = .sib then some (g, e)
    else if g = 0 then none
    else match fuel with | 0 => none | k + 1 => sibAbove s k e.parent

/-- A hash counted in its slot, in a new one, or as other: the slots, its count, and whether it is other (R103). -/
def countHash (slots : List HashSlot) (h : Word64) : List HashSlot × Nat × Bool :=
  match slots.find? fun e => e.hash = h with
  | some e => (slots.map fun x => if x.hash = h then { x with count := x.count + 1 } else x, e.count + 1, false)
  | none => if slots.length < 16 then (slots ++ [⟨h, 1⟩], 1, false) else (slots, 0, true)

/-- The state word of R103. -/
def stateWord (decided dup dead other : Bool) (count resolved quorum : Nat) : Word64 :=
  w64 ((if decided then 2 ^ 63 else 0) + (if dup then 2 ^ 62 else 0) + (if dead then 2 ^ 61 else 0) +
    (if other then 2 ^ 60 else 0) + 2 ^ 32 * (count % 2 ^ 16) + 2 ^ 16 * (resolved % 2 ^ 16) + quorum % 2 ^ 16)

/-- The siblings of a rope not yet resolved: group and sibling number (R104, R105). -/
def State.openSibs (s : State) (g : Nat) (r : Rope) : List (Nat × Nat) :=
  (s.sibs g).filter fun x => !r.resolved.contains x.2 && s.alive x.1

/-- The rope is decided for a hash: every sibling not yet resolved is cancelled and resolved, the block written (R104). Its
counters hold all the work under those siblings' groups, that before the decision too (R106; DESIGN CHOICE, log entry 69). -/
def State.decideRope (s : State) (g : Nat) (r : Rope) (h : Word64) (count : Nat) (who : Option (Nat × Nat × Nat × PcWord)) :
    State × Rope :=
  let losers := s.openSibs g r
  let r := { r with
    decided := some h, dtime := s.time, win := h, wincnt := count, status := 1, canc := losers.length,
    cancelledGroups := losers.map (·.1), ctokens := s.workUnder (losers.map (·.1)) (·.tokens),
    cclocks := s.workUnder (losers.map (·.1)) (·.clocks), ctasks := s.workUnder (losers.map (·.1)) (·.ctasks),
    resolved := losers.foldl (fun l x => addOnce l x.2) r.resolved, decider := who }
  let s := losers.foldl (fun t x => t.killGroup x.1) (s.setRope g r)
  ((s.retireKeys (losers.map (·.1))).ropeWrite g r, r)

/-- A post, or an abstention, served for a sibling group of a rope: the new state and the state word (R103). -/
def State.post (s : State) (sib : Nat) (e : Group) (h : Option Word64) (who : Option (Nat × Nat × Nat × PcWord)) :
    State × Word64 :=
  match s.getGroup e.parent with
  | some p =>
    match p.rope with
    | some r =>
      let dead := (s.sibs e.parent).filterMap fun x => if s.alive x.1 then none else some x.2
      let r := { r with resolved := dead.foldl addOnce r.resolved }
      let dup := r.posted.contains e.sib
      let gone := !s.alive sib
      if dup || gone then (s.setRope e.parent r, stateWord r.decided.isSome dup gone false 0 r.resolved.length r.quorum)
      else
        let r := { r with posted := r.posted ++ [e.sib], resolved := addOnce r.resolved e.sib }
        match h with
        | none =>
          let r := { r with abst := r.abst + 1 }
          let s := (s.setRope e.parent r).ropeResolve e.parent who
          (s, stateWord r.decided.isSome false false false 0 r.resolved.length r.quorum)
        | some h =>
          let (slots, count, other) := countHash r.slots h
          let r := { r with slots := slots, posts := r.posts + 1, others := if other then r.others + 1 else r.others }
          if r.decided.isNone && !other && count = r.quorum then
            let (s, r) := s.decideRope e.parent r h count who
            (s.ropesResolve who, stateWord true false false false count r.resolved.length r.quorum)
          else
            let s := (s.setRope e.parent r).ropeResolve e.parent who
            (s, stateWord r.decided.isSome false false other count r.resolved.length r.quorum)
    | none => (s, 0)
  | none => (s, 0)

def execBallot (h : Hdr) (abst : Bool) (xc xa : XReg) (rel : OScope) (s : State) : Host.Outcome State Fault Refusal :=
  let f := cmdForm h 0x2B 0 (if abst then [xc] else [xc, xa]) []
  s.issue f fun t =>
    match sibAbove t 16 t.cmdGroup with
    | none => .trap .illegal 0
    | some (g, e) =>
      let who := match t.inst with | some i => some (i.launch, 0x2B, i.inst, t.pcOf f) | none => none
      t.releasing rel fun u =>
        let (v, w) := u.post g e (if abst then none else some (u.getX xa)) who
        v.setX xc w

end Sys2Proof.Machine
end

