-- ==== Sys2Proof/Machine/Boundary.lean ====
section
/-! DEFINITION. What a sequencer does between instructions: it stops for pre-emption, takes an asynchronous cause, fetches
and decodes (R40, R197, R201, R269, R355, R358, R359). -/

namespace Sys2Proof.Machine

open Sys2Proof

/-! ## Asynchronous causes -/

/-- TIMER has fallen due for a sequencer (R358). -/
def State.timerDue (s : State) (q : Seqr) : Bool := q.timen && decide (q.timecmp.toNat ≤ s.time.toNat)

/-- The asynchronous cause a sequencer takes at its boundary: UNCORR, then ENGINE, then TIMER, the last two held under
INTRAP (R359). -/
def State.pendingCause (s : State) (core : Nat) (q : SeqId) : Option TrapInfo :=
  let c := s.getCore core
  let r := c.seqr q
  match r.uncorr with
  | some u =>
    let (c, why) := u.why.codes
    some ⟨c, if c = .page then pageVal why u.addr else u.addr, u.pc, u.mask, true, u.sdone⟩
  | none =>
    if r.intrap then none
    else if q = .control && c.engPend then some ⟨.engine, BitVec.ofNat 64 c.efq.length, r.pc, 0, false, false⟩
    else if s.timerDue r then some ⟨.timer, r.timecmp, r.pc, 0, false, false⟩
    else none

/-- A cause that waits whether or not INTRAP holds it: it wakes idle (R356). -/
def State.causeWaits (s : State) (core : Nat) (q : SeqId) : Bool :=
  let c := s.getCore core
  let r := c.seqr q
  r.uncorr.isSome || (q = .control && c.engPend) || s.timerDue r

/-- The cause is taken and no longer pending (R359, R360). -/
def State.takeCause (s : State) (core : Nat) (q : SeqId) (t : TrapInfo) : State :=
  let c := s.getCore core
  let r := c.seqr q
  let r := if t.cause = .engine ∨ t.cause = .timer then r else { r with uncorr := none }
  let c := if t.cause = .engine then { c with engPend := false } else c
  (s.setCore core (c.setSeqr q r)).takeTrap core q t

/-- A sequencer of an instance that has not ended. -/
def State.live (s : State) (core : Nat) (q : SeqId) : Bool :=
  let c := s.getCore core
  c.inst.isSome && !(c.seqr q).ended

/-- A sequencer takes the cause named, if that is the one its boundary takes. -/
def State.takeAt (s : State) (core : Nat) (q : SeqId) (c : Cause) : State :=
  if s.live core q then
    match s.pendingCause core q with
    | some t => if t.cause = c ∨ (c = .uncorr ∧ (t.cause = .page ∨ t.cause = .perm)) then s.takeCause core q t else s
    | none => s
  else s

/-! ## Fetch (R197) -/

/-- The instruction cache's key of a word. -/
def icKey (x : Xl) : Nat :=
  match x.place with
  | .dev pa => pa / 4
  | .scratch off => 2 ^ 72 + off / 4
  | .remote m off => 2 ^ 62 + (m * 2 ^ 43 + off) / 4

/-- The line of a word leaves the instruction cache. -/
def Core.icDrop (c : Core) (key : Nat) : Core :=
  { c with
    icache := Tbl.keep c.icache fun k _ => k / 32 != key / 32,
    bad := c.bad.filter fun b => match b with | .ic k => k / 32 != key / 32 | _ => true }

/-- What fetching a word answers. -/
inductive Fetch1 where
  | ok (s : State) (w : Word32)
  | stop (s : State) (e : Stop)

/-- A fetch that meets uncorrectable data: its line is not kept (R197). -/
def State.fetchBad (s : State) (addr : Word64) (x : Xl) : Fetch1 := .stop (s.setCur (s.cur.icDrop (icKey x))) (.trap .uncorr addr)

/-- A word fetched from below enters the instruction cache, and with it the words of its line that it does not hold and that
can be read; w gives them by their number in the line (R197). -/
def State.fetchIn (s : State) (x : Xl) (w : Nat → Option Word32) : Fetch1 :=
  let key := icKey x
  let base := key / 32 * 32
  match w (key % 32) with
  | some v =>
    let c := s.cur
    let ic := (List.range 32).foldl (fun t j =>
      match w j with
      | some u => if base + j = key || (Tbl.get? t (base + j)).isNone then Tbl.set t (base + j) u else t
      | none => t) c.icache
    .ok (s.setCur { c with icache := ic, bad := c.bad.filter fun b => b != .ic key }) v
  | none => .stop s .wait

/-- A word fetched below the instruction cache, with its line; another module's line is asked for. -/
def State.fetchBelow (s : State) (addr : Word64) (x : Xl) : Fetch1 :=
  match x.place with
  | .remote m off =>
    match s.cur.ops.find? fun o => o.isProbe s.seq (addr + 1) with
    | none => .stop (s.sendFetch (addr + 1) m (off / 128 * 128)) .wait
    | some o =>
      let t := s.setCur { s.cur with ops := s.cur.ops.filter fun o => !o.isProbe s.seq (addr + 1) }
      match answerWhy o.answer, o.answer with
      | some (.uncorr, _), _ => t.fetchBad addr x
      | some (c, r), _ => .stop t (stopOf c r addr)
      | none, some _ =>
        let base := addr.toNat / 128 * 128
        t.fetchIn x fun j => (answerBytes o.answer (base + 4 * j) 4).map (ofBytes 32)
      | none, none => .stop s .wait
  | .dev pa =>
    if s.badRange pa 4 then s.fetchBad addr x
    else
      let base := pa / 128 * 128
      let line := s.keyBytes x.key base 128
      s.fetchIn x fun j => if s.badRange (base + 4 * j) 4 then none else some (ofBytes 32 (slice line (4 * j) 4))
  | .scratch _ => .stop s (.trap .perm addr)

/-- The word at a word address, through the core's instruction cache: a held word may answer, or may have left the cache, so
that it is read below. -/
def State.fetchWord (s : State) (pc : PcWord) : Fetch1 :=
  let addr : Word64 := pc.setWidth 64 <<< 2
  match s.check (some s.core) s.asid s.sq.sup .fetch false 4 addr with
  | .error (.ask asid m off) => .stop (s.askPage asid m off) .wait
  | .error e => .stop s e
  | .ok x =>
    let s := s.touch s.asid addr.toNat
    let asking := s.cur.ops.any fun o => o.isProbe s.seq (addr + 1)
    match Tbl.get? s.cur.icache (icKey x) with
    | some w =>
      if asking || s.freeBool (icKey x + 2 ^ 82) then s.fetchBelow addr x
      else if s.cur.bad.contains (.ic (icKey x)) then s.fetchBad addr x
      else .ok s w
    | none => s.fetchBelow addr x

/-- The decoded instruction at a sequencer's PC, or why there is none (R199, R201). -/
inductive Fetched where
  | instr (s : State) (i : Instr)
  | trap (s : State) (c : Cause) (v : Word64)
  | wait (s : State)
  deriving Repr

def Stop.fetched (s : State) : Stop → Fetched
  | .trap c v => .trap s c v
  | .wait => .wait s
  | .ask asid m off => .wait (s.askPage asid m off)

def State.fetch (s : State) : Fetched :=
  match s.fetchWord s.sq.pc with
  | .stop t e => e.fetched t
  | .ok s w0 =>
    let decoded (t : State) (e : Word32) : Fetched :=
      match decodeWords s.seq w0 e with
      | .ok i => .instr t i
      | .error _ => .trap t .illegal 0
    if hasExt w0 then
      match s.fetchWord (s.sq.pc + 1) with
      | .stop t e => e.fetched t
      | .ok t e => decoded t e
    else decoded s 0

/-! ## Where a sequencer stops for pre-emption (R355) -/

/-- A sequencer of the core has stopped. -/
def Core.anyStopped (c : Core) : Bool := c.seqC.stopped || c.seqL.stopped || c.seqX.stopped || c.seqS.stopped

/-- What a sequencer does when its turn comes, up to the instruction it is about to execute. -/
inductive Ahead where
  /-- this state is reached and nothing is executed -/
  | still (s : State)
  | run (s : State) (i : Instr)
  deriving Repr

/-- The operation of an instruction that has stopped part-way is still at work. -/
def Core.atWork (c : Core) (id : Nat) : Bool := match c.findOp id with | some o => !o.done | none => false

/-- The instruction at PC, or the trap its fetch or decoding raises. -/
def State.aheadFetch (s : State) : Ahead :=
  match s.fetch with
  | .instr s i => .run s i
  | .trap s c v => .still ((s.countTrap c v).trapHere c v)
  | .wait s => .still s

/-- A boundary where nothing of the last instruction is left over. -/
def State.aheadNext (s : State) : Ahead :=
  match s.pendingCause s.core s.seq with
  | some t =>
    match s.sq.sleep with
    | .idle till => .still (s.setSq { s.sq with sleep := .idleDone (if idlePassed s.time till then 0 else 2) })
    | .idleDone _ => s.aheadFetch
    | _ => .still (s.takeCause s.core s.seq t)
  | none => s.aheadFetch

/-- An instruction stopped part-way takes its trap once what precedes the fault has performed, unless that has failed (R47,
R285, R359). -/
def State.ahead (s : State) : Ahead :=
  if !s.running then .still s
  else if s.sq.stopped then .still s
  else
    match s.sq.partTrap with
    | some (id, t) =>
      if s.sq.uncorr.isSome then s.aheadNext
      else if s.cur.atWork id then .still s
      else .still (s.takeTrap s.core s.seq t)
    | none =>
      if s.preempting && s.cur.anyStopped then .still (s.setSq { s.sq with stopped := true }) else s.aheadNext

/-! ## A place for one instruction (used by withFetchWord) -/

/-- The sequencer an instruction word can run on, by its major and its subcode's place. -/
def wordSeq (w0 : Word32) : SeqId :=
  let maj := (w0.extractLsb' 16 6).toNat
  let sub := match maj with | 0x26 | 0x2C => (w0.extractLsb' 0 4).toNat | _ => 0
  match permitted maj sub with
  | q :: _ => q
  | [] => .control

/-- Where the placed instruction lies: byte address in its space, and physical. -/
def placeVa : Nat := 0x3000

def placePa : Nat := 0x13000

/-- A launch of one instance on core 0 of die 0, all of whose parts run. -/
def placeLaunch : Launch where
  packet := 0
  origin := .host
  kaddr := 0
  asid := 0
  pclass := 0
  group := 0
  deadline := 0
  start := 0
  evt := 0
  fault := 0
  irq := false
  key := 0
  pos := 0
  gp := []
  flags := 7
  soff := [0, 0, 0, 0]
  ntile := 32
  rings := 0xFF
  pinb := 0
  levels := []
  home := 0
  parts := [⟨0, 0, .running, false, [(0, 0)], 0⟩]
  faults := 0
  abort := none
  done := none
  pctx := none
  out := 0
  suspendedInsts := []

def placeInst : Inst where
  launch := 1
  part := 0
  inst := 0
  asid := 0
  flags := 7
  ntile := 32
  rings := 0xFF
  levels := []
  lvl := []
  key := 0
  rpos := 0
  ridx := 0
  group := 0
  curTask := none
  preempt := none

/-- A space with one page of 64 KiB that can be read, written and executed, whose tables stand at physical 0x10000, and an
instance on core 0 whose sequencer q stands at the bytes placed (log entry 10). -/
def State.place (s : State) (q : SeqId) (bytes : List Byte) : State :=
  let m := Mem.writeL s.mem 0x10000 (leBytes 8 (0x11000 + 1))
  let m := Mem.writeL m 0x11000 (leBytes 8 (0x12000 + 1))
  let m := Mem.writeL m 0x12000 (leBytes 8 (0x14000 + 1))
  let m := Mem.writeL m 0x14000 (leBytes 8 (0x15000 + 1))
  let m := Mem.writeL m 0x15000 (leBytes 8 (0x10000 + 0x21F))
  let m := Mem.writeL m placePa bytes
  let start := Seqr.start 0 0 false
  let c : Core := { Core.idle with
    inst := some placeInst,
    seqC := start, seqL := start, seqX := start, seqS := start }
  let c := c.setSeqr q { start with pc := BitVec.ofNat 54 (placeVa / 4) }
  { s with
    mem := m,
    turns := [.seq 0 q],
    spaces := Tbl.set s.spaces 0 ⟨0x10000, 0, true⟩,
    keys := Tbl.set s.keys 0 { (s.getKey 0) with loaded := true, key := some 0 },
    launches := Tbl.set s.launches 1 placeLaunch,
    cores := Tbl.set s.cores 0 c }

end Sys2Proof.Machine
end

