-- ==== Sys2Proof/Machine/Flow.lean ====
section
/-! DEFINITION. Majors 0x08 and 0x0C: branches, calls, loops, the literal pool (R212, R248 to R252). -/

namespace Sys2Proof.Machine

open Sys2Proof

def flowForm (h : Hdr) (two : Bool) (sub : Nat) (xs : List XReg) : Form := scalar h two 0x08 sub xs []

/-- PC set by a control transfer. -/
def State.jump (s : State) (pc : PcWord) : State := s.setSq { s.sq with pc := pc }

def State.brTo {w : Nat} (s : State) (h : Hdr) (two : Bool) (off : BitVec w) : Host.Outcome State Fault Refusal :=
  let f := flowForm h two 0 []
  s.issue f fun t => .done (t.jump (branchTarget (t.pcOf f) off))

def execBr (h : Hdr) (off : BitVec 13) (s : State) : Host.Outcome State Fault Refusal := s.brTo h false off

def execBrExt (h : Hdr) (off : BitVec 41) (s : State) : Host.Outcome State Fault Refusal := s.brTo h true off

/-- `call` (R249): a full stack is ILLEGAL. -/
def State.callTo {w : Nat} (s : State) (h : Hdr) (two : Bool) (off : BitVec w) : Host.Outcome State Fault Refusal :=
  let f := flowForm h two 1 []
  s.issue f fun t =>
    if 16 ≤ t.sq.rstack.length then .trap .illegal 0
    else .done ((t.setSq { t.sq with rstack := t.sq.pc :: t.sq.rstack }).jump (branchTarget (t.pcOf f) off))

def execCall (h : Hdr) (off : BitVec 13) (s : State) : Host.Outcome State Fault Refusal := s.callTo h false off

def execCallExt (h : Hdr) (off : BitVec 41) (s : State) : Host.Outcome State Fault Refusal := s.callTo h true off

/-- The queue from the sequencer before (R27). -/
def State.inQueue (s : State) : List Word64 := (s.cur.edge s.seq.prev).queue

/-- Its oldest value removed. -/
def State.popQueue (s : State) : State :=
  let e := s.cur.edge s.seq.prev
  s.setCur (s.cur.setEdge s.seq.prev { e with queue := e.queue.tail })

/-- `brq` (R250): pops whatever the guard. -/
def State.brqTo {w : Nat} (s : State) (h : Hdr) (two pol : Bool) (off : BitVec w) : Host.Outcome State Fault Refusal :=
  let f := { flowForm h two 2 [] with guarded := false }
  s.issue f fun t =>
    match t.inQueue with
    | [] => .wait
    | v :: _ =>
      let u := t.popQueue
      .done (if t.g0 h && (v != 0) == pol then u.jump (branchTarget (t.pcOf f) off) else u)

def execBrq (h : Hdr) (pol : Bool) (off : BitVec 12) (s : State) : Host.Outcome State Fault Refusal :=
  s.brqTo h false pol off

def execBrqExt (h : Hdr) (pol : Bool) (off : BitVec 40) (s : State) : Host.Outcome State Fault Refusal :=
  s.brqTo h true pol off

/-- `loop` (R251). -/
def State.loopTo {w : Nat} (s : State) (h : Hdr) (two : Bool) (xc : XReg) (off : BitVec w) :
    Host.Outcome State Fault Refusal :=
  let f := flowForm h two 3 [xc]
  s.issue f fun t =>
    let n := t.getX xc
    if n = 0 then .done t
    else
      let u := t.setX xc (n - 1)
      .done (if n - 1 = 0 then u else u.jump (branchTarget (t.pcOf f) off))

def execLoop (h : Hdr) (xc : XReg) (off : BitVec 9) (s : State) : Host.Outcome State Fault Refusal :=
  s.loopTo h false xc off

def execLoopExt (h : Hdr) (xc : XReg) (off : BitVec 37) (s : State) : Host.Outcome State Fault Refusal :=
  s.loopTo h true xc off

/-- `jr` (R249). -/
def execJr (h : Hdr) (xa : XReg) (s : State) : Host.Outcome State Fault Refusal :=
  s.issue (flowForm h false 4 [xa]) fun t =>
    let v := t.getX xa
    if v.toNat % 4 ≠ 0 then .trap .misalign v
    else if v.toNat / 2 ^ 56 ≠ 0 then .trap .page (pageVal 4 v)
    else .done (t.jump (v.extractLsb' 2 54))

/-- `ret` (R20, R249): with an empty return stack the sequencer ends. -/
def execRet (h : Hdr) (s : State) : Host.Outcome State Fault Refusal :=
  s.issue (flowForm h false 5 []) fun t =>
    match t.sq.rstack with
    | pc :: rest => .done ((t.setSq { t.sq with rstack := rest }).jump pc)
    | [] => .done (t.setSq { t.sq with ended := true })

def execNop (h : Hdr) (s : State) : Host.Outcome State Fault Refusal := s.issue (flowForm h false 6 []) fun t => .done t

/-- `pool` (R212): PC := PC + 1 + N. -/
def execPool (h : Hdr) (n : BitVec 13) (s : State) : Host.Outcome State Fault Refusal :=
  s.issue (flowForm h false 7 []) fun t => .done (t.jump (t.sq.pc + n.setWidth 54))

/-! ## Literal loads (R212, R248) -/

/-- What fetching a word leaves behind. -/
def Fetch1.left : Fetch1 → State
  | .ok s _ => s
  | .stop s _ => s

/-- A word read as an instruction is fetched, then the rest of the body; or what stops the instruction. -/
def Fetch1.thenRes (r : Fetch1) (g : State → State) (f : State → Word32 → Res) : Res :=
  match r with
  | .ok t w => f t w
  | .stop _ (.trap c v) => .trapBy g c v
  | .stop _ _ => .hold g

/-- `ldl.w`: the word sign-extended; `ldl.d`: two words, an odd offset from the image base is MISALIGN. -/
def State.ldl {w : Nat} (s : State) (h : Hdr) (two dword : Bool) (xd : XReg) (off : BitVec w) :
    Host.Outcome State Fault Refusal :=
  let f := scalar h two 0x0C 0 [xd] []
  s.issue f fun t =>
    let at_ := branchTarget (t.pcOf f) off
    if dword && at_.getLsbD 0 then .trap .misalign (at_.setWidth 64 <<< 2)
    else
      (t.fetchWord at_).thenRes (fun u => (u.fetchWord at_).left) fun t lo =>
        if dword then
          (t.fetchWord (at_ + 1)).thenRes (fun u => (u.fetchWord (at_ + 1)).left) fun t hi => .done (t.setX xd (hi ++ lo))
        else .done (t.setX xd (lo.signExtend 64))

def execLdlW (h : Hdr) (xd : XReg) (off : BitVec 11) (s : State) : Host.Outcome State Fault Refusal :=
  s.ldl h false false xd off

def execLdlWExt (h : Hdr) (xd : XReg) (off : BitVec 39) (s : State) : Host.Outcome State Fault Refusal :=
  s.ldl h true false xd off

def execLdlD (h : Hdr) (xd : XReg) (off : BitVec 11) (s : State) : Host.Outcome State Fault Refusal :=
  s.ldl h false true xd off

def execLdlDExt (h : Hdr) (xd : XReg) (off : BitVec 39) (s : State) : Host.Outcome State Fault Refusal :=
  s.ldl h true true xd off

end Sys2Proof.Machine
end

