-- ==== Sys2Proof/Machine/Couple.lean ====
section
/-! DEFINITION. Majors 0x09 and 0x0A: tokens, value queues, dependence counters, work ranges (R253 to R258, R32). -/

namespace Sys2Proof.Machine

open Sys2Proof

def coupleForm (h : Hdr) (sub : Nat) (xs : List XReg) : Form := { scalar h false 0x09 sub xs [] with guarded := false }

def execTkwB (h : Hdr) (n : BitVec 8) (s : State) : Host.Outcome State Fault Refusal :=
  s.issue { coupleForm h 0 [] with wB := n.toNat } fun t => .done t

def execTkwA (h : Hdr) (n : BitVec 8) (s : State) : Host.Outcome State Fault Refusal :=
  s.issue { coupleForm h 1 [] with wA := n.toNat } fun t => .done t

def execTksB (h : Hdr) (n : BitVec 8) (s : State) : Host.Outcome State Fault Refusal :=
  s.issue { coupleForm h 2 [] with sB := n.toNat } fun t => .done t

def execTksA (h : Hdr) (n : BitVec 8) (s : State) : Host.Outcome State Fault Refusal :=
  s.issue { coupleForm h 3 [] with sA := n.toNat } fun t => .done t

/-- `qpush` (R30, R254): a false guard appends 0; values to a sequencer that has ended are discarded (R20). -/
def execQpush (h : Hdr) (xa : XReg) (s : State) : Host.Outcome State Fault Refusal :=
  s.issue { coupleForm h 4 [xa] with drains := true } fun t =>
    let e := t.cur.edge t.seq
    if (t.cur.seqr t.seq.next).ended then .done t
    else if 8 ≤ e.queue.length then .wait
    else
      let v := if t.g0 h then t.getX xa else 0
      .done (t.setCur (t.cur.setEdge t.seq { e with queue := e.queue ++ [v] }))

/-- `qpop` (R30, R254): a false guard discards the value. -/
def execQpop (h : Hdr) (xd : XReg) (s : State) : Host.Outcome State Fault Refusal :=
  s.issue (coupleForm h 5 [xd]) fun t =>
    match t.inQueue with
    | [] => .wait
    | v :: _ => .done (if t.g0 h then t.popQueue.setX xd v else t.popQueue)

/-- `kwait` (R256). -/
def execKwait (h : Hdr) (k : BitVec 3) (n : BitVec 8) (s : State) : Host.Outcome State Fault Refusal :=
  s.issue (scalar h false 0x09 6 [] []) fun t => if t.cur.ctr t.seq k.toNat ≤ n.toNat then .done t else .wait

/-! ## Work ranges -/

/-- Level j of the instance and its state, for j below NLVL. -/
def State.level (s : State) (j : Nat) : Option (Level × LvlState) :=
  match s.inst with
  | some i =>
    match i.levels[j]?, i.lvl[j]? with
    | some l, some st => some (l, st)
    | _, _ => none
  | none => none

/-- The state of level j of a core's instance replaced. -/
def Core.setLvl (c : Core) (j : Nat) (l : LvlState) : Core :=
  match c.inst with
  | some i => { c with inst := some { i with lvl := i.lvl.set j l } }
  | none => c

def grainOf (l : Level) : Nat := if l.grain = 0 then 1 else l.grain

/-- The chunk [start, end) returned: xD and pA (R257). -/
def State.putChunk (s : State) (xd : XReg) (pa : PReg) (lo hi : Nat) : State :=
  if lo < hi then (s.setX xd (w64 (lo + hi * 2 ^ 32))).setFlag pa true else (s.setX xd 0).setFlag pa false

/-- `rnext` on a level (R32, R257): a thief asks the instance at the next coordinate and stalls until it is answered; of several
sequencers that wait for the same answer, control is served first, then load, execute, store. -/
def State.rnext (s : State) (xd : XReg) (pa : PReg) (j : Nat) : Res :=
  match s.level j with
  | none => .done (s.putChunk xd pa 0 0)
  | some (l, st) =>
    if s.mustYield fun w => w = .range j then .waitOn (.range j)
    else if st.next < st.limit then
      let hi := min (st.next + grainOf l) st.limit
      .done ((s.setCur (s.cur.setLvl j { st with next := hi })).putChunk xd pa st.next hi)
    else if !l.lazy || st.finished then .done (s.putChunk xd pa 0 0)
    else if l.width ≤ 1 then .done ((s.setCur (s.cur.setLvl j { st with finished := true })).putChunk xd pa 0 0)
    else if st.asking = 0 then .hold fun t => t.setCur (t.cur.setLvl j { st with asking := 1 })
    else .waitOn (.range j)

/-- The level has PRE set (R13, R355). -/
def State.preLevel (s : State) (j : Nat) : Bool := match s.level j with | some (l, _) => l.pre | none => false

def execRnext (h : Hdr) (xd : XReg) (pa : PReg) (j : BitVec 3) (s : State) : Host.Outcome State Fault Refusal :=
  s.issue { scalar h false 0x0A 0 [xd] [pa] with stops := s.preLevel j.toNat } fun t => t.rnext xd pa j.toNat

/-- `lvl` (R258): a level at or above NLVL reads 0. -/
def State.readLevel (s : State) (h : Hdr) (sub : Nat) (xd : XReg) (j : BitVec 3) (f : Level → LvlState → Nat) :
    Host.Outcome State Fault Refusal :=
  s.issue (scalar h false 0x0A sub [xd] []) fun t =>
    .done (t.setX xd (match t.level j.toNat with | some (l, st) => w64 (f l st) | none => 0))

def execLvlBase (h : Hdr) (xd : XReg) (j : BitVec 3) (s : State) : Host.Outcome State Fault Refusal :=
  s.readLevel h 1 xd j fun _ st => st.base

def execLvlLimit (h : Hdr) (xd : XReg) (j : BitVec 3) (s : State) : Host.Outcome State Fault Refusal :=
  s.readLevel h 2 xd j fun _ st => st.limit

def execLvlTrip (h : Hdr) (xd : XReg) (j : BitVec 3) (s : State) : Host.Outcome State Fault Refusal :=
  s.readLevel h 3 xd j fun l _ => l.trip

def execLvlCoord (h : Hdr) (xd : XReg) (j : BitVec 3) (s : State) : Host.Outcome State Fault Refusal :=
  s.readLevel h 4 xd j fun _ st => st.coord

end Sys2Proof.Machine
end

