-- ==== Sys2Proof/Machine/Sampler.lean ====
section
/-! DEFINITION. What a sampler request computes: its checks, its stages, its draw (R129 to R136). -/

namespace Sys2Proof.Machine

open Sys2Proof

/-- 32-bit words of bytes. -/
def words32 (bs : List Byte) (n : Nat) : List Nat := (List.range n).map fun i => fld bs (4 * i) 4

def isFinite32 (v : Nat) : Bool := v / 2 ^ 23 % 256 != 255

def gtZero32 (v : Nat) : Bool := (f32.dec 0).lt (f32.dec v)

/-- Bytes of a stage control block that must be 0 (R129): all but the listed ranges. -/
def zeroBut (bs : List Byte) (rs : List (Nat × Nat)) : Bool :=
  (List.range 64).all fun i => (rs.any fun r => decide (r.1 ≤ i ∧ i < r.1 + r.2)) || bs.getD i 0 = 0

/-- A stage control block passes the checks of R130 on its own. -/
def scbOk (b : List Byte) : Bool :=
  let fl := fld b 1 1
  match fld b 0 1 with
  | 1 => zeroBut b [(0, 1), (4, 4)] && isFinite32 (fld b 4 4) && gtZero32 (fld b 4 4)
  | 2 =>
    zeroBut b [(0, 2), (4, 12)] && decide (fl ≤ 1) &&
      (if fl = 1 then decide (1 ≤ fld b 4 4) && decide (fld b 4 4 ≤ 65536) else fld b 4 4 = 0)
  | 3 => zeroBut b [(0, 2), (8, 8)] && decide (fl ≤ 1)
  | 4 =>
    zeroBut b [(0, 2), (4, 20)] && decide (fl ≤ 3) && isFinite32 (fld b 4 4) && gtZero32 (fld b 4 4) &&
      isFinite32 (fld b 8 4) && isFinite32 (fld b 12 4)
  | 5 =>
    zeroBut b [(0, 1), (4, 12)] && !isNan32 (fld b 8 4) && !isNan32 (fld b 12 4) &&
      !((f32.dec (fld b 12 4)).lt (f32.dec 0)) && !((f32.dec 0x3F80_0000).lt (f32.dec (fld b 12 4)))
  | 6 => zeroBut b [(0, 2), (4, 8), (16, 16)] && decide (fl ≤ 7)
  | _ => false

/-- The chain ends with its one DRAW and every block passes (R129, R130). -/
def chainOk (bs : List (List Byte)) : Bool :=
  bs.all scbOk && (match bs.getLast? with | some b => fld b 0 1 = 6 | none => false) &&
    bs.dropLast.all fun b => fld b 0 1 != 6

/-- A token while a request runs. -/
structure Tok8 where
  t : Nat
  z : Nat
  alive : Bool
  deriving DecidableEq, Repr

/-- Tokens whose value is a NaN or -inf die; NaNs are counted (R131). -/
def dropTokens (ts : List Tok8) (nans : Nat) : List Tok8 × Nat :=
  (ts.map fun x => if x.alive && (isNan32 x.z || x.z = 0xFF80_0000) then { x with alive := false } else x,
    nans + (ts.filter fun x => x.alive && isNan32 x.z).length)

/-- The sorted order of the living tokens: token and value (R132). -/
def sortedAlive (ts : List Tok8) : List (Nat × Nat) :=
  (sortPairs ((ts.filter (·.alive)).map fun x => (x.z, x.t))).map fun p => (p.2, p.1)

/-- Weights along the sorted order (R132). -/
def weights (l : List (Nat × Nat)) : List Nat :=
  match l with
  | [] => []
  | (_, top) :: _ =>
    if top = 0x7F80_0000 then l.map fun p => if p.2 = 0x7F80_0000 then 0x3F80_0000 else 0
    else l.map fun p => (exp32 (f32.sub p.2 top).1).1

/-- The sum of weights in order. -/
def weightSum (e : List Nat) : Nat := e.foldl (fun s x => (f32.add s x).1) 0

def quotient32 (a b : Nat) : Nat := (f32.op ((f32.dec a).div (f32.dec b))).1

def killTokens (ts : List Tok8) (dead : List Nat) : List Tok8 :=
  ts.map fun x => if dead.contains x.t then { x with alive := false } else x

/-- Top-p over the sorted order: the tokens that die (R134). -/
def topP (p : Nat) (l : List (Nat × Nat)) (first : Bool) (c : Nat) : List Nat :=
  match l with
  | [] => []
  | (t, q) :: rest =>
    if !first && !((f32.dec c).lt (f32.dec p)) then t :: topP p rest false c
    else topP p rest false (f32.add c q).1

/-- FILTER (R134). -/
def filterStage (k p mp : Nat) (ts : List Tok8) : List Tok8 :=
  let l := sortedAlive ts
  if l.isEmpty then ts
  else
    let ts := if k = 0 then ts else killTokens ts ((l.drop k).map (·.1))
    let l := sortedAlive ts
    let e := weights l
    let s := weightSum e
    let ps := List.zip (l.map (·.1)) (e.map fun x => quotient32 x s)
    let ts := if (f32.dec p).lt (f32.dec 0x3F80_0000) then killTokens ts (topP p ps true 0) else ts
    if mp % 2 ^ 31 = 0 then ts
    else
      let thr := (f32.mul mp ((ps.map (·.2)).headD 0)).1
      killTokens ts ((ps.filter fun x => (f32.dec x.2).lt (f32.dec thr)).map (·.1))

/-- PENALTY on one value with history count c (R133). -/
def penalty (rep pres freq c z : Nat) : Nat :=
  if c = 0 then z
  else
    let z := if gtZero32 z then quotient32 z rep else (f32.mul z rep).1
    let fc := (f32.op ((f32.dec freq).mul (FVal.ofInt c))).1
    (f32.sub (f32.sub z fc).1 pres).1

/-- Bit t of a bitmap. -/
def bitOf (bs : List Byte) (t : Nat) : Bool := (bs.getD (t / 8) 0).getLsbD (t % 8)

/-- Sparse biases in list order (R133). -/
def sparseBias (ps : List (Nat × Nat)) (ts : List Tok8) : List Tok8 :=
  ps.foldl (fun l p => l.map fun x => if x.t = p.1 && x.alive then { x with z := (f32.add x.z p.2).1 } else x) ts

/-- A stage with its data read; the tokens before the drop of R131. -/
def runStage (b data : List Byte) (ts : List Tok8) : List Tok8 :=
  let live (f : Tok8 → Tok8) : List Tok8 := ts.map fun x => if x.alive then f x else x
  let fl := fld b 1 1
  match fld b 0 1 with
  | 1 => live fun x => { x with z := quotient32 x.z (fld b 4 4) }
  | 2 =>
    if fl = 1 then sparseBias ((List.range (fld b 4 4)).map fun i => (fld data (8 * i) 4, fld data (8 * i + 4) 4)) ts
    else live fun x => { x with z := (f32.add x.z (fld data (4 * x.t) 4)).1 }
  | 3 => live fun x => { x with alive := bitOf data x.t != (fl = 1) }
  | 4 => live fun x =>
      let c := if natBits fl 0 1 = 1 then fld data (2 * x.t) 2 else if bitOf data x.t then 1 else 0
      { x with z := penalty (fld b 4 4) (fld b 8 4) (fld b 12 4) c x.z }
  | 5 => filterStage (fld b 4 4) (fld b 8 4) (fld b 12 4) ts
  | _ => ts

/-- The address and number of bytes of the data a stage reads. -/
def stageData (b : List Byte) (voc : Nat) : Nat × Nat :=
  let fl := fld b 1 1
  match fld b 0 1 with
  | 2 => (fld b 8 8, if fl = 1 then 8 * fld b 4 4 else 4 * voc)
  | 3 => (fld b 8 8, ceilDiv voc 8)
  | 4 => (fld b 16 8, if natBits fl 0 1 = 1 then 2 * voc else ceilDiv voc 8)
  | _ => (0, 0)

/-- The token whose running weight first exceeds x, the last one otherwise: its place in the order (R135). -/
def pickGo (x : Nat) (e : List Nat) (i acc : Nat) : Nat :=
  match e with
  | [] => 0
  | [_] => i
  | w :: rest =>
    let acc := (f32.add acc w).1
    if (f32.dec x).lt (f32.dec acc) then i else pickGo x rest (i + 1) acc

/-- The end of a request: status, and what DRAW writes (R135, R136). -/
structure Drawn where
  status : Nat
  token : Nat
  prob : Nat
  surv : Nat
  /-- the SCB's counter and WRAPPED after the draw, when it drew -/
  counter : Option (Nat × Nat × Bool)
  deriving DecidableEq, Repr

/-- DRAW (R135, R136) on the living tokens with its control block. -/
def drawStage (b : List Byte) (ts : List Tok8) : Drawn :=
  let l := sortedAlive ts
  let e := weights l
  let s := weightSum e
  let fl := fld b 1 1
  let chosen (i : Nat) (c : Option (Nat × Nat × Bool)) : Drawn :=
    ⟨1, (l.getD i (0, 0)).1, quotient32 (e.getD i 0) s, l.length, c⟩
  if l.isEmpty then ⟨9, 0xFFFF_FFFF, 0, 0, none⟩
  else if natBits fl 0 1 = 0 then chosen 0 none
  else
    let idx : BitVec 16 := BitVec.ofNat 16 (fld b 4 2)
    let pos : Word32 := BitVec.ofNat 32 (fld b 8 4)
    let (pos', idx', wrap) := nextDraw pos idx
    if wrap && natBits fl 1 1 = 0 then ⟨32, 0xFFFF_FFFF, 0, 0, none⟩
    else
      let r := gen32 (ofBytes 128 (slice b 16 16)) pos idx (BitVec.ofNat 16 (fld b 6 2))
      let x := (f32.op ((FVal.fin false (r.toNat / 256) (-24)).mul (f32.dec s))).1
      chosen (pickGo x e 0 0) (some (idx'.toNat, pos'.toNat, wrap || natBits fl 2 1 = 1))

end Sys2Proof.Machine
end

