-- ==== Sys2Proof/Machine/Engines.lean ====
section
/-! DEFINITION. Major 0x27 and the sampler and beam engines: commands, request boundaries, requests (R84, R88, R125 to R130,
R137, R332). A request runs in one step (log entry 13). -/

namespace Sys2Proof.Machine

open Sys2Proof

/-! ## A command of either engine, given by a core or by a graph -/

/-- What an engine knows of the command it serves. -/
structure EngCmd where
  list : Nat
  n : Nat
  next : Nat
  group : Nat
  agent : Agent
  answer : Option RemoteAnswer
  /-- requests for bytes of other modules, and unacknowledged writes to them -/
  asked : List (Nat × Nat)
  out : Nat
  /-- it completes only once its writes have been acknowledged (R231) -/
  release : Bool
  deriving DecidableEq, Repr

def State.engCmd (s : State) (die : Nat) (r : EngRef) : Option EngCmd :=
  match r with
  | .op core op =>
    match (s.getCore core).findOp op with
    | some o =>
      match o.kind with
      | .sample l n => some ⟨l.toNat, n, o.prog, o.group, s.opAgent core o, o.answer, o.asked, o.out, o.rel.isSome⟩
      | .beam l n => some ⟨l.toNat, n, o.prog, o.group, s.opAgent core o, o.answer, o.asked, o.out, o.rel.isSome⟩
      | _ => none
    | none => none
  | .job j =>
    match s.getJob die j with
    | some b => some ⟨b.list.toNat, b.n, b.next, b.group, ⟨none, b.asid, false, some (jobCore die, j), false⟩,
      s.jobAnswer die j, b.asked, b.out, true⟩
    | none => none

/-- The requests up to number n are done with; what another module answered for them is not used again (R128). -/
def State.engNext (s : State) (die : Nat) (r : EngRef) (n : Nat) (cancelled : Bool) : State :=
  match r with
  | .op core op => s.setCore core ((s.getCore core).updOp op fun o =>
      { o with prog := n, asked := [], answer := if (answerWhy o.answer).isSome then o.answer else none })
  | .job j =>
    match s.getJob die j with
    | some b =>
      let word := if b.failed then b.word else none
      s.setJob die j { b with next := n, asked := [], cells := [], word := word, cancelled := b.cancelled || cancelled }
    | none => s

/-- A failure of the command (R130, R361, R362); bytes of another module are asked for once. -/
def State.engFail (s : State) (die : Nat) (r : EngRef) (e : EFail) : State :=
  match r with
  | .op core op =>
    match (s.getCore core).findOp op with
    | some o => s.failOpE core o e o.prog
    | none => s
  | .job j =>
    match s.getJob die j with
    | none => s
    | some b =>
      match e with
      | .pend m off n =>
        let key := (m * 2 ^ 43 + off, n)
        if n = 0 then s.askPage b.asid m off
        else if b.asked.contains key then s
        else (s.setJob die j { b with asked := b.asked ++ [key] }).emit (.remoteRead m b.asid (jobCore die) j off n false)
      | .held => s
      | .fault c reason a =>
        (s.slotFault die b.slot ⟨c.code.toNat, reason, 0, .control, 0, false, 0, 0, 0, a, b.next, b.group⟩).setJob die j
          { b with done := true, failed := true }

/-- The command completes, its list served or cut at a cancellation point, once what it has to wait for has been acknowledged
(R84, R231); a write that another module refused
fails it. -/
def State.engDone (s : State) (die : Nat) (r : EngRef) : State :=
  match s.engCmd die r with
  | none => s
  | some c =>
    match answerWhy c.answer with
    | some (cause, reason) => s.engFail die r (.fault cause reason (w64 c.list))
    | none =>
      if c.release && c.out ≠ 0 then s
      else
        match r with
        | .op core op => s.doneOp core op
        | .job j => match s.getJob die j with | some b => s.setJob die j { b with done := true } | none => s

/-! ## Writing results -/

/-- Fields written at offsets of a record; the first that cannot be written is named. -/
def State.putFields (s : State) (g : Agent) (base : Nat) (fs : List (Nat × List Byte)) : State × Option EFail :=
  match fs with
  | [] => (s, none)
  | (o, bs) :: rest =>
    match s.vwrite g (base + o) bs with
    | (t, none) => State.putFields t g base rest
    | (t, some e) => (t, some e)

/-- Status written into each of the requests from number i on (R84, R128). -/
def State.cancelRest (s : State) (c : EngCmd) (off v fuel i : Nat) : State × Option EFail :=
  match fuel with
  | 0 => (s, none)
  | k + 1 =>
    match s.vwrite c.agent (c.list + 64 * i + off) (leBytes 2 v) with
    | (t, none) => State.cancelRest t c off v k (i + 1)
    | (t, some e) => (t, some e)

/-- A request's results written; the command goes on, fails, or ends with its last request. -/
def State.engSettle (s : State) (die : Nat) (r : EngRef) (c : EngCmd) (w : State × Option EFail) : State :=
  match w with
  | (t, some e) => if e.waits then s.engFail die r e else t.engFail die r e
  | (t, none) =>
    let t := t.engNext die r (c.next + 1) false
    if c.next + 1 = c.n then t.engDone die r else t

/-! ## Sampler requests (R128 to R137) -/

/-- Stages in order with their data; none where a read fails. -/
def State.runChain (s : State) (c : EngCmd) (voc : Nat) (bs : List (List Byte)) (ts : List Tok8) (nans : Nat) :
    Except EFail (List Tok8 × Nat) :=
  match bs with
  | [] => .ok (ts, nans)
  | b :: rest =>
    let (a, n) := stageData b voc
    match (if n = 0 then .ok [] else s.vread c.agent c.answer a n) with
    | .error e => .error e
    | .ok data =>
      let (ts, nans) := dropTokens (runStage b data ts) nans
      State.runChain s c voc rest ts nans

/-- The history updates of a chosen token: address, counts, token (R137). -/
def historyOf (bs : List (List Byte)) (tok : Nat) : List (Nat × Bool × Nat) :=
  bs.filterMap fun b =>
    let fl := fld b 1 1
    if fld b 0 1 = 4 ∧ natBits fl 1 1 = 1 then
      let counts := natBits fl 0 1 = 1
      some (fld b 16 8 + (if counts then 2 * tok else tok / 8), counts, tok)
    else none

/-- A history's byte or count after a token. -/
def historyNew (counts : Bool) (tok old : Nat) : Nat := if counts then satU (old + 1) 16 else old ||| 2 ^ (tok % 8)

def State.setAct (s : State) (die : Nat) (a : Option SampAct) : State := s.setDie die { s.getDie die with act := a }

/-- The word that an atomic at another module has answered a command. -/
def State.engWord (s : State) (die : Nat) (r : EngRef) : Option Word64 :=
  match r with
  | .op core op => match (s.getCore core).findOp op with
    | some o => match o.answer with | some (.value _ _ v) => some v | _ => none
    | none => none
  | .job j => match s.getJob die j with | some b => b.word | none => none

/-- A command's atomic goes to another module; an earlier answer is dropped. -/
def State.engAmo (s : State) (die : Nat) (r : EngRef) (g : Agent) (m off : Nat) (op : AmoOp) (b c : Word64) : State :=
  match r with
  | .op core o => (s.setCore core ((s.getCore core).updOp o fun x => { x with answer := none })).emit
      (.remoteAmo m g.asid core o off op false b c g.sup)
  | .job j =>
    match s.getJob die j with
    | some x => (s.setJob die j { x with word := none }).emit (.remoteAmo m g.asid (jobCore die) j off op false b c g.sup)
    | none => s

/-- A command's atomic on a count at another module; an earlier answer is dropped. -/
def State.engCount (s : State) (die : Nat) (r : EngRef) (g : Agent) (m off : Nat) : State :=
  match r with
  | .op core o => (s.setCore core ((s.getCore core).updOp o fun x => { x with answer := none })).emit
      (.remoteCount m g.asid core o off g.sup)
  | .job j =>
    match s.getJob die j with
    | some x => (s.setJob die j { x with word := none }).emit (.remoteCount m g.asid (jobCore die) j off g.sup)
    | none => s

/-- A history of another module is updated by an atomic there: a bit by `or` in its word, a count by one of its own (R137). off:
of the byte or count. -/
def State.historyFar (s : State) (die : Nat) (r : EngRef) (g : Agent) (a : SampAct) (h : Nat × Bool × Nat)
    (rest : List (Nat × Bool × Nat)) (m off : Nat) : State :=
  if !a.sent then
    (if h.2.1 then s.engCount die r g m off
      else s.engAmo die r g m (off / 4 * 4) .bor (w64 (2 ^ (8 * (off % 4) + h.2.2 % 8))) 0).setAct die (some { a with sent := true })
  else
    match s.engWord die r with
    | some _ => s.setAct die (some { a with hist := rest, sent := false })
    | none => s

/-- A byte of a history at its place of execution here. -/
def State.historyByte (s : State) (g : Agent) (x : Xl) : Option Byte :=
  match x.place with
  | .scratch off => ((s.getCore (g.core.getD 0)).scrRead off 1).bind (·[0]?)
  | .dev pa => if s.badRange pa 1 then none else (s.keyBytes x.key pa 1)[0]?
  | .remote _ _ => none

/-- The line of a place outside the scratch window is written back and leaves a core's LM (R65). -/
def State.lmDropPlace (s : State) (core asid : Nat) (x : Xl) : State :=
  match x.place with | .dev _ => s.lmDrop core (lmKey asid x) | _ => s

/-- It is written; the granules of the scratch window stay as they are (R57). -/
def State.historyPut (s : State) (g : Agent) (x : Xl) (v : Byte) : Option State :=
  match x.place with
  | .scratch off => s.storeScr (g.core.getD 0) off [v] false
  | .dev pa => s.storeKeyed x.key pa [v]
  | .remote _ _ => none

/-- One update of a history at its place of execution (R65, R137). The bytes of a count may lie on two pages. -/
def State.historyStep (s : State) (die : Nat) (r : EngRef) (c : EngCmd) (a : SampAct) (h : Nat × Bool × Nat)
    (rest : List (Nat × Bool × Nat)) : State × Option EFail :=
  let n := if h.2.1 then 2 else 1
  match (List.range n).mapM fun i => s.agentXlat c.agent .amo (h.1 + i) with
  | .error e => (s, some e)
  | .ok xs =>
    match xs.head?.map (fun (x : Xl) => x.place), answerWhy c.answer with
    | some (.remote _ _), some (cc, why) => (s, some (.fault cc why (w64 h.1)))
    | some (.remote m off), none => (s.historyFar die r c.agent a h rest m off, none)
    | _, _ =>
      let s := match c.agent.core with | some core => xs.foldl (fun (t : State) x => t.lmDropPlace core c.agent.asid x) s | none => s
      let done := (xs.mapM fun x => s.historyByte c.agent x).bind fun bs =>
        (xs.zip (leBytes n (historyNew h.2.1 h.2.2 (leNat bs)))).foldlM (fun (t : State) e => t.historyPut c.agent e.1 e.2) s
      match done with
      | some u => (u.setAct die (some { a with hist := rest }), none)
      | none => (s, some (.fault .uncorr 0 (w64 h.1)))

/-- A request that has drawn goes on: its history updates, then its results. -/
def State.actStep (s : State) (die : Nat) (r : EngRef) (c : EngCmd) (a : SampAct) : State :=
  match a.hist with
  | h :: rest =>
    match s.historyStep die r c a h rest with
    | (t, none) => t
    | (_, some e) => if e.waits then s.engFail die r e else (s.engFail die r e).setAct die none
  | [] =>
    match s.putFields c.agent a.base a.fields with
    | (t, some e) => if e.waits then s.engFail die r e else (t.engFail die r e).setAct die none
    | (t, none) => (s.engSettle die r c (t, none)).setAct die none

/-- What a finished draw writes: the counter, and then histories and results. A token drawn counts for its group (R106). -/
def State.putDrawn (s : State) (die : Nat) (c : EngCmd) (base chain : Nat) (bs : List (List Byte)) (nans : Nat) (d : Drawn) :
    State × Option EFail :=
  if d.status = 32 then
    (s.setAct die (some ⟨base, [(0x16, leBytes 2 32), (0x20, leBytes 4 d.token)], [], false⟩), none)
  else
    let last := bs.length - 1
    let ctr := match d.counter with
      | some (idx, pos, wrapped) =>
        let fl := fld (bs.getD last []) 1 1
        s.putFields c.agent (chain + 64 * last)
          [(4, leBytes 2 idx), (8, leBytes 4 pos), (1, leBytes 1 (fl % 4 + (if wrapped then 4 else 0)))]
      | none => (s, none)
    match ctr with
    | (t, some e) => (t, some e)
    | (t, none) =>
      let t := if d.status = 1 then t.ropeWork c.group 1 0 0 else t
      (t.setAct die (some ⟨base, [(0x20, leBytes 4 d.token), (0x24, leBytes 4 d.prob), (0x28, leBytes 4 nans),
        (0x2C, leBytes 4 d.surv), (0x16, leBytes 2 d.status)], if d.status = 1 then historyOf bs d.token else [], false⟩), none)

/-- A sampler request at base, begun at this module time: deadline, checks, stages, draw (R130 to R136). -/
def State.sampleOne (s : State) (die : Nat) (c : EngCmd) (base : Nat) (began : Word64) : State × Option EFail :=
  match s.vread c.agent c.answer base 64 with
  | .error e => (s, some e)
  | .ok rq =>
    let bad := s.putFields c.agent base [(0x16, leBytes 2 16)]
    let reserved := fld rq 0x15 1 ≠ 0 ∨ fld rq 0x1E 2 ≠ 0 ∨ fld rq 0x30 16 ≠ 0
    if passed began (BitVec.ofNat 48 (fld rq 0x18 6)) then
      (s.groupCount c.group true).putFields c.agent base [(0x16, leBytes 2 2)]
    else
      let chain := fld rq 8 8
      let voc := fld rq 0x10 4
      let ns := fld rq 0x14 1
      if chain % 64 ≠ 0 ∨ voc = 0 ∨ 2 ^ 20 < voc ∨ ns = 0 ∨ 16 < ns ∨ reserved then bad
      else
        match s.vread c.agent c.answer chain (64 * ns) with
        | .error e => (s, some e)
        | .ok cb =>
          let bs := (List.range ns).map fun i => slice cb (64 * i) 64
          if !chainOk bs then bad
          else
            match s.vread c.agent c.answer (fld rq 0 8) (4 * voc) with
            | .error e => (s, some e)
            | .ok lg =>
              let ts := (List.range voc).map fun t => (⟨t, fld lg (4 * t) 4, true⟩ : Tok8)
              let (ts, nans) := dropTokens ts 0
              match s.runChain c voc bs.dropLast ts nans with
              | .error e => (s, some e)
              | .ok (ts, nans) => s.putDrawn die c base chain bs nans (drawStage (bs.getLastD []) ts)

/-! ## Beam requests (R125 to R127) -/

/-- Roots that a reorder writes: all live at this module (R127). -/
def State.rootsOk (s : State) (l : List Nat) : Bool :=
  l.all fun sid => s.isHome sid && sid / 2 ^ 25 = 0 && s.rootLive (sidRoot sid)

/-- The placed entries of a root. -/
def State.rootEntries (s : State) (die : Nat) (k : KvRoot) : List Nat :=
  (List.range (ceilDiv k.ntok 64)).map fun b => s.sbtRead die k b

/-- Where the answers for a root of another module and for a block's REFCNT stand among the bytes answered. -/
def rootCells (sid : Nat) : Nat := 2 ^ 80 + sid * 2 ^ 24

def countCells (m gbn : Nat) : Nat := 2 ^ 81 + (m * 2 ^ 28 + gbn) * 16

/-- What a reorder has to wait for, as the message that asks for it and the key under which it is asked. -/
abbrev KvAsk := (Nat × Nat) × (Nat → Nat → Msg)

/-- A root as a reorder reads it (R127). -/
structure SrcRoot where
  ntok : Nat
  shtok : List Nat
  entries : List Nat
  deriving DecidableEq, Repr

/-- A source root: live here, or as its home module has answered; none where it is not live. -/
def State.sourceRoot (s : State) (die : Nat) (c : EngCmd) (sid : Nat) : Except KvAsk (Option SrcRoot) :=
  if sid / 2 ^ 25 ≠ 0 then .ok none
  else if s.isHome sid then
    .ok (match s.getRoot (sidRoot sid) with
      | some k => if k.live then some ⟨k.ntok, k.shtok, s.rootEntries die k⟩ else none
      | none => none)
  else
    match answerBytes c.answer (rootCells sid) 128 with
    | none => .error ((rootCells sid, 128), fun co op => .kvRoot (s.blockModule (sidHome sid)) co op (BitVec.ofNat 32 sid))
    | some bs =>
      if fld bs 0x12 1 % 2 = 0 then .ok none
      else
        let ntok := fld bs 8 4
        match answerBytes c.answer (rootCells sid + 128) (8 * ceilDiv ntok 64) with
        | none => .error ((rootCells sid, 128), fun co op => .kvRoot (s.blockModule (sidHome sid)) co op (BitVec.ofNat 32 sid))
        | some es => .ok (some ⟨ntok, (List.range 16).map fun i => fld bs (0x40 + 4 * i) 4,
            (List.range (ceilDiv ntok 64)).map fun b => fld es (8 * b) 8⟩)

def State.sourceRoots (s : State) (die : Nat) (c : EngCmd) (l : List Nat) : Except KvAsk (List (Option SrcRoot)) :=
  l.mapM (s.sourceRoot die c)

/-- REFCNT of the block an entry names, from its owner. -/
def State.countOf (s : State) (die : Nat) (c : EngCmd) (e : Nat) : Except KvAsk Nat :=
  if sbtModule e = s.modId.toNat % 1024 then .ok (s.refcnt die (sbtGbn e))
  else
    match answerBytes c.answer (countCells (sbtModule e) (sbtGbn e)) 16 with
    | some bs => .ok (fld bs 8 2)
    | none => .error ((countCells (sbtModule e) (sbtGbn e), 16), fun co op => .kvCount (s.blockModule (sbtModule e)) co op (sbtGbn e))

/-- A block, by owner and number. -/
def blockOf (e : Nat) : Nat := sbtModule e * 2 ^ 28 + sbtGbn e

/-- The counts of the blocks that placed entries name. -/
def State.countsOf (s : State) (die : Nat) (c : EngCmd) (es : List Nat) : Except KvAsk (Tbl Nat) :=
  es.foldlM (fun t e => if sbtValid e && (Tbl.get? t (blockOf e)).isNone then
      (s.countOf die c e).map fun n => Tbl.set t (blockOf e) n else .ok t) []

/-- REFCNTs move by one for the placed entries of a table. -/
def moveCounts (t : Tbl Nat) (es : List Nat) (up : Bool) : Tbl Nat :=
  es.foldl (fun t e => if sbtValid e then
    Tbl.set t (blockOf e) (if up then Tbl.getD t (blockOf e) 0 + 1 else Tbl.getD t (blockOf e) 0 - 1) else t) t

/-- The counts stay within 65,535 while the outputs are worked off in order: each raises those of the entries copied and drops
those of its destination's former ones (R127). held: the destinations' entries. -/
def countsFit (outs : List (Nat × List Nat)) (t : Tbl Nat) (held : Tbl (List Nat)) : Bool :=
  match outs with
  | [] => true
  | (dst, es) :: rest =>
    let t := moveCounts t es true
    (t.all fun e => decide (e.2 ≤ 65535)) &&
      countsFit rest (moveCounts t (Tbl.getD held dst []) false) (Tbl.set held dst es)

/-- A destination root takes a source's tokens and entries (R127); each entry is a table update (R122). -/
def State.reorderOne (s : State) (who : Nat × Nat) (die dst : Nat) (src : SrcRoot) : State :=
  match s.getRoot (sidRoot dst) with
  | none => s
  | some k =>
    let old := s.rootEntries die k
    let s := src.entries.foldl (fun t e => t.blockRef who die e true) s
    let s := old.foldl (fun t e => t.blockRef who die e false) s
    let n := max src.entries.length old.length
    let (s, k) := (List.range n).foldl
      (fun (acc : State × KvRoot) b => acc.1.placeBlock who die dst acc.2 b (src.entries.getD b 0)) (s, k)
    s.putRoot die (sidRoot dst) { k with ntok := src.ntok, shtok := src.shtok }

/-- The outputs in order, each a destination and the source it takes; what it changes at other modules is awaited as its writes
are (R231). -/
def State.reorder (s : State) (who : Nat × Nat) (die : Nat) (outs : List (Nat × SrcRoot)) : State :=
  outs.foldl (fun t x => t.reorderOne who die x.1 x.2) s

/-- The outputs of a request: rows of (value, index), NaNs counted (R126). -/
def beamPick (scores logits : List Nat) (voc nb k : Nat) : List RPair × Nat × Nat :=
  let all := ((List.range nb).map fun b => (List.range voc).map fun t =>
    ((f32.add (scores.getD b 0) (logits.getD (b * voc + t) 0)).1, b * 2 ^ 20 + t)).flatten
  let good := all.filter fun p => !isNan32 p.1
  (topK good k, good.length, all.length - good.length)

/-- A question to another module's KV unit, asked once. -/
def State.kvAsk (s : State) (die : Nat) (r : EngRef) (a : KvAsk) : State :=
  match r with
  | .op core op =>
    match (s.getCore core).findOp op with
    | some o =>
      if o.asked.contains a.1 then s
      else (s.setCore core ((s.getCore core).updOp op fun x => { x with asked := x.asked ++ [a.1] })).emit (a.2 core op)
    | none => s
  | .job j =>
    match s.getJob die j with
    | some b =>
      if b.asked.contains a.1 then s
      else (s.setJob die j { b with asked := b.asked ++ [a.1] }).emit (a.2 (jobCore die) j)
    | none => s

/-- How far a request has come: it has written its results, or fails; or it waits in this state. -/
inductive Served where
  | wrote (w : State × Option EFail)
  | waits (s : State)

/-- What a request does after its selection. A destination with fewer blocks than the source has placed makes the request
BADREQ: the manual does not say (log entry 58), and so does a source or destination that is not live (DESIGN CHOICE, log
entry 70). -/
def State.beamWrite (s : State) (die : Nat) (r : EngRef) (c : EngCmd) (base : Nat) (rq : List Byte) (outs : List RPair)
    (good nans : Nat) : Served :=
  let k := fld rq 0x2D 1
  let status := 1 + (if good < k then 8 else 0) + 256 * min k good
  let bad : Served := .wrote (s.putFields c.agent base [(0x36, leBytes 2 16)])
  let write (t : State) : Served :=
    match t.vwrite c.agent (fld rq 0x10 8) ((outs.map fun p => leBytes 8 (pairWord p)).flatten) with
    | (u, some e) => .wrote (u, some e)
    | (u, none) => .wrote (u.putFields c.agent base [(0x38, leBytes 8 nans), (0x36, leBytes 2 status)])
  if natBits (fld rq 0x2E 2) 0 1 = 0 then write s
  else
    match s.vread c.agent c.answer (fld rq 0x18 8) (4 * fld rq 0x2C 1), s.vread c.agent c.answer (fld rq 0x20 8) (4 * k) with
    | .ok rs, .ok ds =>
      let dstIds := words32 ds k
      if !s.rootsOk dstIds then bad
      else
        match answerWhy c.answer with
        | some (cc, why) => .wrote (s, some (.fault cc why (w64 base)))
        | none =>
          match s.sourceRoots die c (words32 rs (fld rq 0x2C 1)) with
          | .error a => .waits (s.kvAsk die r a)
          | .ok srcs =>
            if srcs.any (·.isNone) then bad
            else
              let moves := (List.zip dstIds outs).filterMap fun x =>
                if x.2.2 = 0xFFFF_FFFF then none else (srcs.getD (x.2.2 / 2 ^ 20) none).map fun y => (x.1, y)
              let held (d : Nat) : List Nat := match s.getRoot (sidRoot d) with | some k => s.rootEntries die k | none => []
              let fits := moves.all fun x => match s.getRoot (sidRoot x.1) with
                | some d => decide (x.2.entries.length ≤ d.nblk)
                | none => true
              match s.countsOf die c ((moves.map fun x => x.2.entries ++ held x.1).flatten) with
              | .error a => .waits (s.kvAsk die r a)
              | .ok counts =>
                if !fits || !countsFit (moves.map fun x => (x.1, x.2.entries)) counts (dstIds.foldl (fun t d => Tbl.set t d (held d)) [])
                then bad
                else write (s.reorder (c.agent.who.getD nobody) die moves)
    | .error e, _ => .wrote (s, some e)
    | _, .error e => .wrote (s, some e)

/-- A beam request at base, begun at this module time (R88, R125, R126). -/
def State.beamOne (s : State) (die : Nat) (r : EngRef) (c : EngCmd) (base : Nat) (began : Word64) : Served :=
  match s.vread c.agent c.answer base 64 with
  | .error e => .wrote (s, some e)
  | .ok rq =>
    if passed began (BitVec.ofNat 48 (fld rq 0x30 6)) then
      .wrote ((s.groupCount c.group true).putFields c.agent base [(0x36, leBytes 2 2)])
    else
      let voc := fld rq 0x28 4
      let nb := fld rq 0x2C 1
      let k := fld rq 0x2D 1
      if voc = 0 ∨ 2 ^ 20 < voc ∨ nb = 0 ∨ 64 < nb ∨ k = 0 ∨ 64 < k ∨ nb * voc < k ∨ 1 < fld rq 0x2E 2 then
        .wrote (s.putFields c.agent base [(0x36, leBytes 2 16)])
      else
        match s.vread c.agent c.answer (fld rq 0 8) (4 * nb * voc), s.vread c.agent c.answer (fld rq 8 8) (4 * nb) with
        | .ok lg, .ok sc =>
          let (outs, good, nans) := beamPick (words32 sc nb) (words32 lg (nb * voc)) voc nb k
          s.beamWrite die r c base rq outs good nans
        | .error e, _ => .wrote (s, some e)
        | _, .error e => .wrote (s, some e)

/-! ## Serving the queues -/

/-- When the engine began the next request of a command; none while that one has not begun. -/
def State.begunAt (s : State) (die engine : Nat) (r : EngRef) (next : Nat) : Option Word64 :=
  (Tbl.get? (s.getDie die).begun engine).bind fun b => if b.1 = r ∧ b.2.1 = next then some b.2.2 else none

/-- One request boundary of a command: cancelled where its group is dead, else one request begins (R84, R88, R128). Whatever the
last request wrote to other modules has been acknowledged first; a write that was refused fails the command. A request that has
begun and waits for another module goes on as of the time it began. -/
def State.serve (s : State) (die : Nat) (r : EngRef) (statusOff : Nat) (one : State → EngCmd → Nat → Word64 → State) : State :=
  match s.engCmd die r with
  | none => s
  | some c =>
    let refused := if c.asked.isEmpty then answerWhy c.answer else none
    let base := c.list + 64 * c.next
    match refused, s.begunAt die statusOff r c.next with
    | some (cc, why), _ => s.engFail die r (.fault cc why (w64 base))
    | none, some t => one s c base t
    | none, none =>
      if c.n ≤ c.next then s.engDone die r
      else if c.out ≠ 0 then s
      else if !s.alive c.group then
        match s.cancelRest c statusOff 4 (c.n - c.next) c.next with
        | (t, some e) => if e.waits then s.engFail die r e else t.engFail die r e
        | (t, none) => (t.engNext die r c.n true).engDone die r
      else
        let d := s.getDie die
        one (s.setDie die { d with begun := Tbl.set d.begun statusOff (r, c.next, s.time) }) c base s.time

/-- A command is over: its operation has completed or gone, or its job is done. -/
def State.engOver (s : State) (die : Nat) (r : EngRef) : Bool :=
  match r with
  | .op core op => match (s.getCore core).findOp op with | some o => o.done | none => true
  | .job j => match s.getJob die j with | some b => b.done | none => true

/-- Every write of a command to another module has been acknowledged. -/
def State.engFlown (s : State) (die : Nat) (r : EngRef) : Bool :=
  match r with
  | .op core op => (Tbl.get? (s.getCore core).sent op).isNone && s.acked core op
  | .job j => match s.getJob die j with | some b => b.out = 0 | none => true

/-- One turn of the sampler for a command: the request in progress goes on, or the next one starts (R128). What a
draw leaves to write is written in the turns that follow, before the next request starts. -/
def State.sampleTurn (s : State) (die : Nat) (r : EngRef) : State :=
  match (s.getDie die).act, s.engCmd die r with
  | some a, some c => s.actStep die r c a
  | _, _ =>
    s.serve die r 0x16 fun u c base t0 =>
      match u.sampleOne die c base t0 with
      | (t, none) =>
        match (t.getDie die).act with
        | some _ => t
        | none => u.engSettle die r c (t, none)
      | w => u.engSettle die r c w

/-- The sampler serves its oldest command; the next one starts once the writes of this one have performed (R128). -/
def execSamplerRequest (die : Nat) (s : State) : Host.Outcome State Fault Refusal :=
  match (s.getDie die).sampler with
  | [] => .next s
  | r :: rest =>
    let t := if s.engOver die r then s else s.sampleTurn die r
    .next (if t.engOver die r && t.engFlown die r then t.setDie die { t.getDie die with sampler := rest, act := none } else t)

/-- One turn of the beam engine for a command. -/
def State.beamTurn (s : State) (die : Nat) (r : EngRef) : State :=
  s.serve die r 0x36 fun u c base t0 =>
    match u.beamOne die r c base t0 with
    | .wrote w => u.engSettle die r c w
    | .waits t => t

/-- The beam engine serves its oldest command (R125). -/
def execBeamRequest (die : Nat) (s : State) : Host.Outcome State Fault Refusal :=
  match (s.getDie die).beam with
  | [] => .next s
  | r :: rest =>
    let t := if s.engOver die r then s else s.beamTurn die r
    .next (if t.engOver die r then t.setDie die { t.getDie die with beam := rest } else t)

/-! ## Acceptance (R332) -/

/-- A command of either engine: its checks, CANCELLED in a dead group, an empty list, or the queue. With REL a cancelled one
completes once what it wrote has performed (R84, R231). -/
def State.engAccept (s : State) (h : Hdr) (sub : Nat) (xa xb : XReg) (acq rel : OScope) (k : Ctr) (kind : Word64 → Nat → OpKind)
    (off : Nat) (enqueue : Die → EngRef → Die) : Host.Outcome State Fault Refusal :=
  let f := cmdForm h 0x27 sub [xa, xb] []
  s.issueAsync f 0x27 sub k fun _ t =>
    let l := t.getX xa
    let n := (t.getX xb).toNat
    if l.toNat % 64 ≠ 0 then .trap .misalign l
    else if n / 2 ^ 16 ≠ 0 then .trap .illegal 0
    else if !t.alive t.cmdGroup then
      let id := t.cur.nextOp
      let u := t.addOp f 0x27 sub k none rel (kind l n) false
      match u.cur.findOp id with
      | none => .done u
      | some o =>
        match u.cancelRest ⟨l.toNat, n, 0, o.group, u.opAgent u.core o, none, [], 0, rel.isSome⟩ off 4 n 0 with
        | (_, some (.pend m off _)) => .hold fun w => w.askPage w.asid m off
        | (_, some .held) => .wait
        | (v, some (.fault cc r a)) => .done (v.failOp v.core o cc.code.toNat r a 0)
        | (v, none) =>
          if rel.isNone || v.acked v.core id then .done (v.doneOp v.core id)
          else
            let v := v.setCur (v.cur.updOp id fun o => { o with prog := n })
            .done (v.setDie v.die (enqueue (v.getDie v.die) (.op v.core id)))
    else
      match t.acceptCmd acq with
      | .error r => r
      | .ok t =>
        if n = 0 then .done (t.addOp f 0x27 sub k acq rel (kind l 0) true)
        else
          let id := t.cur.nextOp
          let u := t.addOp f 0x27 sub k acq rel (kind l n) false
          .done (u.setDie u.die (enqueue (u.getDie u.die) (.op u.core id)))

def execSample (h : Hdr) (xa xb : XReg) (acq rel : OScope) (k : Ctr) (s : State) : Host.Outcome State Fault Refusal :=
  s.engAccept h 0 xa xb acq rel k .sample 0x16 fun d r => { d with sampler := d.sampler ++ [r] }

def execBeamsel (h : Hdr) (xa xb : XReg) (acq rel : OScope) (k : Ctr) (s : State) : Host.Outcome State Fault Refusal :=
  s.engAccept h 1 xa xb acq rel k .beam 0x36 fun d r => { d with beam := d.beam ++ [r] }

end Sys2Proof.Machine
end

