-- ==== Sys2Proof/Machine/GraphOps.lean ====
section
/-! DEFINITION. Major 0x2D: graph parameters and replays, host rings, time (R141, R147 to R149, R349 to R351, R396, R398). -/

namespace Sys2Proof.Machine

open Sys2Proof

/-! ## Host memory -/

/-- Bytes written into host memory: what lies in the far tier among them is written there (R64, R236). -/
def State.putHost (s : State) (ha : Nat) (bs : List Byte) : State :=
  let fb := s.farbase.toNat
  let k := min bs.length (fb - ha)
  let t := if k = 0 then s else { s with host := Mem.writeL s.host ha (bs.take k) }
  t.putPlain (farBase + (ha + k - fb)) (bs.drop k)

/-! ## Host rings (R147 to R149, R398) -/

def HRing.n (r : HRing) : Nat := natBits r.hrcfg.toNat 0 5
def HRing.enabled (r : HRing) : Bool := r.hrcfg.getLsbD 5
def HRing.asid (r : HRing) : Nat := natBits r.hrcfg.toNat 6 6
def HRing.cnt (r : HRing) : Nat := natBits r.hrcfg.toNat 16 16
def HRing.tus (r : HRing) : Nat := natBits r.hrcfg.toNat 32 16
def HRing.vec (r : HRing) : Nat := natBits r.hrcfg.toNat 48 11

def HRing.full (r : HRing) : Bool := (r.pcnt - r.ccnt).toNat = 2 ^ r.n

def State.getHring (s : State) (die n : Nat) : HRing := Tbl.getD (s.getDie die).hrings n HRing.start

def State.setHring (s : State) (die n : Nat) (r : HRing) : State :=
  let d := s.getDie die
  s.setDie die { d with hrings := Tbl.set d.hrings n r }

/-- One record appended: its bytes, the pass bit, PCNT; pending counts it (R147). -/
def State.ringRecord (s : State) (die n : Nat) (bs : List Byte) : State :=
  let r := s.getHring die n
  let slot := r.pcnt.toNat % 2 ^ r.n
  let word := r.pcnt.toNat % 2 ^ 31 + natBits r.pcnt.toNat r.n 1 * 2 ^ 31
  (s.putHost (r.hrbase.toNat + 32 * slot) (slice bs 0 28 ++ leBytes 4 word)).setHring die n
    { r with pcnt := r.pcnt + 1, pend := r.pend + 1, oldest := if r.pend = 0 then s.time.toNat else r.oldest }

/-- PCNT's copy in host memory (R147). -/
def State.ringCopy (s : State) (die n : Nat) : State :=
  let r := s.getHring die n
  s.putHost r.hrpcopy.toNat (leBytes 4 r.pcnt.toNat ++ [0, 0, 0, 0])

/-- Interrupts that fell due, after the copy that covers their records (R149). -/
def State.ringIrqs (s : State) (vec k : Nat) : State :=
  match k with
  | 0 => s
  | j + 1 => State.ringIrqs (s.irq vec) vec j

/-- pending is 0 again: an interrupt is due. -/
def State.ringDue (s : State) (die n : Nat) : State :=
  s.setHring die n { s.getHring die n with pend := 0, oldest := 0 }

/-- How an append ends or stands. -/
inductive Appended where
  /-- all records appended or dropped -/
  | all
  /-- it waits on the full ring: the next source and the records left -/
  | waits (src left : Nat)
  | fails (e : EFail) (src left : Nat)
  deriving DecidableEq, Repr

/-- The copy and the interrupts due for the records appended so far; at the end of an append with FLUSH, one more. -/
def State.ringShow (s : State) (die n due : Nat) (flush : Bool) : State :=
  let vec := (s.getHring die n).vec
  let s := (s.ringCopy die n).ringIrqs vec due
  if flush && (s.getHring die n).pend != 0 then (s.ringDue die n).irq vec else s

/-- Records appended one after another, left of them, from an address on. FLUSH acts at the end, not where the append has
yet to wait (R149). -/
def State.ringGo (s : State) (g : Agent) (ans : Option RemoteAnswer) (die n : Nat) (flush drop : Bool) (left src due : Nat) :
    State × Appended :=
  match left with
  | 0 => (s.ringShow die n due flush, .all)
  | k + 1 =>
    let r := s.getHring die n
    if r.full then
      if drop then
        ((s.setHring die n { r with drop := satU (r.drop + k + 1) 32 }).ringShow die n due flush, .all)
      else (s.ringShow die n due false, .waits src (k + 1))
    else
      match s.vread g ans src 32 with
      | .error e => (s.ringShow die n due (flush && !e.waits), .fails e src (k + 1))
      | .ok bs =>
        let s := s.ringRecord die n bs
        let r := s.getHring die n
        if r.cnt != 0 && r.pend = r.cnt then State.ringGo (s.ringDue die n) g ans die n flush drop k (src + 32) (due + 1)
        else State.ringGo s g ans die n flush drop k (src + 32) due

/-- An `hring` command appends what it can: it completes, waits, fails, or waits for another module's bytes. -/
def State.hringOp (s : State) (core : Nat) (o : Op) : State :=
  match o.kind with
  | .hring ring src left flush drop =>
    let die := coreDie core
    match s.ringGo (s.opAgent core o) o.answer die ring flush drop left src.toNat 0 with
    | (t, .all) => t.doneOp core o.id
    | (t, .waits a k) => t.setCore core ((t.getCore core).updOp o.id fun x =>
        { x with kind := .hring ring (w64 a) k flush drop, prog := x.prog + (left - k) })
    | (t, .fails e a k) =>
      (t.setCore core ((t.getCore core).updOp o.id fun x =>
        { x with kind := .hring ring (w64 a) k flush drop, prog := x.prog + (left - k) })).failOpE core o e (o.prog + (left - k))
  | _ => s

/-- An append of a core that waits goes on (R350). -/
def State.ringAgain (s : State) (core op : Nat) : State :=
  match (s.getCore core).findOp op with
  | some o => match o.kind with | .hring .. => if o.done then s else s.hringOp core o | _ => s
  | none => s

/-- A core's appends that wait for bytes go on. -/
def State.coreRings (s : State) (core : Nat) : State :=
  (s.getCore core).ops.foldl (fun t o => t.ringAgain core o.id) s

/-- Appends that wait for the translation of a page go on. -/
def State.ringsAgain (s : State) : State := s.cores.foldl (fun t c => t.coreRings c.1) s

def execHring (h : Hdr) (flush drop : Bool) (xa xb : XReg) (rel : OScope) (k : Ctr) (s : State) :
    Host.Outcome State Fault Refusal :=
  let f := cmdForm h 0x2D 1 [xa, xb] []
  s.issueAsync f 0x2D 1 k fun _ t =>
    let src := t.getX xa
    let b := (t.getX xb).toNat
    let ring := natBits b 0 6
    let n := natBits b 16 5
    let r := t.getHring t.die ring
    if n = 0 ∨ 16 < n ∨ natBits b 6 10 ≠ 0 ∨ natBits b 21 43 ≠ 0 then .trap .illegal 0
    else if src.toNat % 32 ≠ 0 then .trap .misalign src
    else if !r.enabled || r.asid != t.asid then .trap .perm src
    else
      t.acceptWith f 0x2D 1 k none fun u =>
        let op := u.cur.nextOp
        let u := u.addOp f 0x2D 1 k none rel (.hring ring src n flush drop) false
        match u.cur.findOp op with
        | some o => .done (u.hringOp u.core o)
        | none => .done u

/-! ## Graph slots as programs reach them (R141, R349, R396) -/

def State.getSlot (s : State) (die n : Nat) : GSlot := Tbl.getD (s.getDie die).slots n GSlot.start

def State.setSlot (s : State) (die n : Nat) (g : GSlot) : State :=
  let d := s.getDie die
  s.setDie die { d with slots := Tbl.set d.slots n g }

def GSlot.asid (g : GSlot) : Nat := natBits g.gcfg.toNat 0 6
def GSlot.group (g : GSlot) : Nat := natBits g.gcfg.toNat 16 16
def GSlot.vec (g : GSlot) : Nat := natBits g.gcfg.toNat 32 11
def GSlot.irqEnd (g : GSlot) : Bool := g.gcfg.getLsbD 48
def GSlot.bound (g : GSlot) : Bool := g.gcfg.getLsbD 49

/-- A run starts at node 0 (R141). -/
def GSlot.begin (g : GSlot) : GSlot :=
  { g with iter := 0, phase := .ready 0, evt := 0, stopfail := false, nowait := [], failing := false }

/-- A replay write (R141, R396). -/
def State.replay (s : State) (die n : Nat) : State :=
  let g := s.getSlot die n
  if !g.bound || !(s.getSpace g.asid).en || g.gnodes = 0 then s.setSlot die n { g with errs := satU (g.errs + 1) 8 }
  else if g.phase = .idle then s.setSlot die n g.begin
  else s.setSlot die n { g with pending := satU (g.pending + 1) 8 }

/-- The checks of a slot operand (R349). -/
def State.slotStop (s : State) (v : Word64) : Option (Cause × Word64) :=
  if v.toNat / 64 ≠ 0 then some (.illegal, 0)
  else
    let g := s.getSlot s.die v.toNat
    if !g.bound || g.asid != s.asid then some (.perm, v) else none

def execGparm (h : Hdr) (xa xb : XReg) (n : BitVec 5) (rel : OScope) (s : State) : Host.Outcome State Fault Refusal :=
  s.issue (cmdForm h 0x2D 0 [xa, xb] []) fun t =>
    match t.slotStop (t.getX xb) with
    | some (c, v) => .trap c v
    | none =>
      t.releasing rel fun u =>
        let i := (u.getX xb).toNat
        let g := u.getSlot u.die i
        u.setSlot u.die i { g with gp := Tbl.set g.gp n.toNat (u.getX xa) }

def execGparmReplay (h : Hdr) (xb : XReg) (rel : OScope) (s : State) : Host.Outcome State Fault Refusal :=
  s.issue (cmdForm h 0x2D 0 [xb] []) fun t =>
    match t.slotStop (t.getX xb) with
    | some (c, v) => .trap c v
    | none => t.releasing rel fun u => u.replay u.die (u.getX xb).toNat

def execTime (h : Hdr) (xc : XReg) (s : State) : Host.Outcome State Fault Refusal :=
  s.issue (cmdForm h 0x2D 2 [xc] []) fun t => .done (t.setX xc t.time)

end Sys2Proof.Machine
end

