-- ==== Sys2Proof/Machine/LdSt.lean ====
section
/-! DEFINITION. Majors 0x0D to 0x0F: scalar and tile-row loads and stores, as they issue (R267 to R271). -/

namespace Sys2Proof.Machine

open Sys2Proof

def ldBytes : LdSize → Nat
  | .b | .bu => 1 | .h | .hu => 2 | .w | .wu => 4 | .d => 8

def stBytes : StSize → Nat
  | .b => 1 | .h => 2 | .w => 4 | .d => 8

/-- The loaded bytes as a register value (R267). -/
def ldExtend (sz : LdSize) (bs : List Byte) : Word64 :=
  match sz with
  | .b => (ofBytes 8 bs).signExtend 64
  | .h => (ofBytes 16 bs).signExtend 64
  | .w => (ofBytes 32 bs).signExtend 64
  | _ => ofBytes 64 bs

/-- The ranges of the scratch window that the pieces of a `.fe` load touch. -/
def scrRanges (via : List (Nat × Nat × Xl)) : List (Nat × Nat) :=
  via.filterMap fun v => match v.2.2.place with | .scratch o => some (o, v.2.1) | _ => none

/-- A `.fe` load whose granules are all full: its bytes; `.fc` empties the granules (R58). -/
def State.feTake (s : State) (fe : FEq) (rs : List (Nat × Nat)) : State × List (List Byte) :=
  let bs := rs.map fun o => (List.range o.2).map fun i => s.cur.scrByte (o.1 + i)
  (s.setCur (if fe = .fc then rs.foldl (fun c o => c.setFullR o.1 o.2 false) s.cur else s.cur), bs)

/-- A word that a `.fe` load reads is uncorrectable (R69). -/
def Core.scrBad (c : Core) (rs : List (Nat × Nat)) : Bool := rs.any fun r => (c.scrRead r.1 r.2).isNone

/-- A wait for granules to be full. -/
def Waiting.forGranules (w : Waiting) : Bool := match w with | .full _ => true | _ => false

/-- The last operation taken in has read uncorrectable data: it issues all the same, and is told of it when it would return
(R269). -/
def State.markBad (s : State) : State :=
  s.setCur (s.cur.updOp (s.cur.nextOp - 1) fun o => { o with answer := some (.denied s.core o.id 12 0) })

/-- How a `.fe` load waits and takes its granules: until all are full, and until the `.fe` loads served before it have gone
(R58, R264). go takes the bytes, bad the parts that cannot be read, whose granules stay as they are (R69). -/
def State.feIssue (s : State) (fe : FEq) (via : List (Nat × Nat × Xl)) (go : State → List (List Byte) → State)
    (bad : State → List (Nat × Nat × Xl) → State) : Res :=
  let rs := scrRanges via
  if s.cur.copyHeld via || !s.mayAccess via (fe = .fc) none then .wait
  else if !s.cur.rangesFull rs || s.mustYield Waiting.forGranules then .waitOn (.full rs)
  else if s.cur.scrBad rs then .done (bad s (via.filter fun v => s.cur.scrBad (scrRanges [v]))).markBad
  else
    let (t, bs) := s.feTake fe rs
    .done (go t bs)

/-- `ld` (R267). -/
def State.load (s : State) (h : Hdr) (two : Bool) (xd : XReg) (a : AReg) (sz : LdSize) (fe : FEq) (k : Ctr) (off : Word64) :
    Host.Outcome State Fault Refusal :=
  let f := scalar h two 0x0D 0 [xd] []
  s.issueAsync f 0x0D 0 k fun _ t =>
    let addr := t.getA a + off
    match t.scalarVia .read (fe != .none) (ldBytes sz) addr with
    | .error e => e.res
    | .ok via =>
      let t := t.touchVia via
      if fe = .none then .done (t.putOp f 0x0D 0 k none none (.load xd addr sz none) via false)
      else t.feIssue fe via (fun t bs => t.putOp f 0x0D 0 k none none (.load xd addr sz (some (ldExtend sz bs.flatten))) via false)
        fun t via => t.putOp f 0x0D 0 k none none (.load xd addr sz none) via false

def execLd (h : Hdr) (xd : XReg) (a : AReg) (sz : LdSize) (fe : FEq) (k : Ctr) (s : State) :
    Host.Outcome State Fault Refusal := s.load h false xd a sz fe k 0

def execLdOffset (h : Hdr) (xd : XReg) (a : AReg) (sz : LdSize) (fe : FEq) (k : Ctr) (off : BitVec 28) (s : State) :
    Host.Outcome State Fault Refusal := s.load h true xd a sz fe k (immB off)

/-- `st` (R268). -/
def State.store (s : State) (h : Hdr) (two : Bool) (xs : XReg) (a : AReg) (sz : StSize) (k : Ctr) (off : Word64) :
    Host.Outcome State Fault Refusal :=
  let f := scalar h two 0x0E 0 [xs] []
  s.issueAsync f 0x0E 0 k fun _ t =>
    let addr := t.getA a + off
    match t.scalarVia .write false (stBytes sz) addr with
    | .error e => e.res
    | .ok via => .done ((t.touchVia via).putOp f 0x0E 0 k none none (.store addr (stBytes sz) (t.getX xs)) via false)

def execSt (h : Hdr) (xs : XReg) (a : AReg) (sz : StSize) (k : Ctr) (s : State) : Host.Outcome State Fault Refusal :=
  s.store h false xs a sz k 0

def execStOffset (h : Hdr) (xs : XReg) (a : AReg) (sz : StSize) (k : Ctr) (off : BitVec 28) (s : State) :
    Host.Outcome State Fault Refusal := s.store h true xs a sz k (immB off)

/-! ## Tile rows -/

/-- Unit u of a tile-row access has a guarded-true byte (R270). -/
def unitTouched (g : Pred) (u : Nat) : Bool := (List.range 16).any fun i => g.getLsbD (u % 16 * 16 + i)

/-- The units an attempt moves: touched, and not performed before a replay (R271). -/
def unitsOf (g : Pred) (nr : Nat) (skip : Pred) : List Nat :=
  (List.range (16 * (nr + 1))).filter fun u => unitTouched g u && !skip.getLsbD u

/-- The element mask of parts of an access at addr. -/
def maskOf (addr : Nat) (via : List (Nat × Nat × Xl)) : Pred :=
  via.foldl (fun m v => setBit m ((v.1 - addr) / 16) true) 0

def tmemForm (h : Hdr) (t : BitVec 5) (row nr : BitVec 4) (isStore : Bool) : Form where
  h := h
  two := true
  seqs := permitted 0x0F 0
  tiles := [t.toNat]
  rr := if isStore then rowsOf t.toNat row.toNat (nr.toNat + 1) else []
  rw := if isStore then [] else rowsOf t.toNat row.toNat (nr.toNat + 1)
  guarded := false

/-- The rows that pieces of an access bring, as rows 0 on (R271). -/
def rowsFromPieces (addr nr : Nat) (via : List (Nat × Nat × Xl)) (bs : List (List Byte)) : List Row :=
  let c := Core.idle.putPieces 0 0 (BitVec.allOnes 256) addr ((via.map (·.1)).zip bs)
  (List.range (nr + 1)).map fun r => c.row 0 r

/-- A tile-row access that stops at a unit: what precedes it, if anything, performs as an operation of its own, and the trap
follows (R47, R271). -/
def State.rowsStop (s : State) (f : Form) (sub : Nat) (kind : OpKind) (addr : Word64) (via : List (Nat × Nat × Xl)) (c : Cause)
    (v : Word64) : Res :=
  if via.isEmpty then .trap c v
  else .part ((s.touchVia via).putOp f 0x0F sub none none none kind via false) s.cur.nextOp (maskOf addr.toNat via) c v

def execLdt (h : Hdr) (t : BitVec 5) (row nr : BitVec 4) (a : AReg) (off : BitVec 20) (fe : FEq) (k : Ctr) (s : State) :
    Host.Outcome State Fault Refusal :=
  let f := tmemForm h t row nr false
  s.issueAsync f 0x0F 0 k fun skip u =>
    let addr := u.getA a + (off.signExtend 64 <<< 4)
    let g := u.guard h
    let kind (val : Option (List Row)) : OpKind := .ldt t.toNat row.toNat nr.toNat addr g val skip
    match u.unitsGo .read (fe != .none) addr g (unitsOf g nr.toNat skip) [] with
    | (_, some .wait) => .wait
    | (_, some (.ask a m o)) => (Stop.ask a m o).res
    | (via, some (.trap c v)) => if fe = .none then u.rowsStop f 0 (kind none) addr via c v else .trap c v
    | (via, none) =>
      let u := u.touchVia via
      if fe = .none then .done (u.putOp f 0x0F 0 k none none (kind none) via false)
      else u.feIssue fe via
        (fun u bs => u.putOp f 0x0F 0 k none none (kind (some (rowsFromPieces addr.toNat nr.toNat via bs))) via false)
        fun u via => u.putOp f 0x0F 0 k none none (kind none) via false

def execStt (h : Hdr) (t : BitVec 5) (row nr : BitVec 4) (a : AReg) (off : BitVec 20) (k : Ctr) (s : State) :
    Host.Outcome State Fault Refusal :=
  let f := tmemForm h t row nr true
  s.issueAsync f 0x0F 1 k fun skip u =>
    let addr := u.getA a + (off.signExtend 64 <<< 4)
    let g := u.guard h
    let kind : OpKind := .stt t.toNat row.toNat nr.toNat addr g skip
    match u.unitsGo .write false addr g (unitsOf g nr.toNat skip) [] with
    | (_, some .wait) => .wait
    | (_, some (.ask a m o)) => (Stop.ask a m o).res
    | (via, some (.trap c v)) => u.rowsStop f 1 kind addr via c v
    | (via, none) => .done ((u.touchVia via).putOp f 0x0F 1 k none none kind via false)

end Sys2Proof.Machine
end

