-- ==== Sys2Proof/Machine/SyncOps.lean ====
section
/-! DEFINITION. Major 0x15: fences, wait4 and byte-count barriers (R227, R233, R234, R286 to R288). -/

namespace Sys2Proof.Machine

open Sys2Proof

def syncForm (h : Hdr) (sub : Nat) (xs : List XReg) : Form := scalar h false 0x15 sub xs []

/-- `fence` (R227): taken in at once. -/
def execFence (h : Hdr) (sc : Scope) (k : BitVec 3) (cv : Cover) (s : State) : Host.Outcome State Fault Refusal :=
  let f := syncForm h 0 []
  s.issueAsync f 0x15 0 (some k) fun _ t => .done (t.addOp f 0x15 0 (some k) none none (.fence sc cv) false)

/-- A fence of the sequencer has not completed. -/
def Core.fencePending (c : Core) (q : SeqId) : Bool :=
  c.ops.any fun o => o.seq = q && !o.done && (match o.kind with | .fence .. => true | _ => false)

def execFwait (h : Hdr) (s : State) : Host.Outcome State Fault Refusal :=
  s.issue (syncForm h 1 []) fun t => if t.cur.fencePending t.seq then .wait else .done t

/-! ## wait4 -/

/-- The 16-byte entries of an arming block: word address and expected value. -/
def armEntries (n : Nat) (bs : List Byte) : List (Word64 × Word64) :=
  (List.range n).map fun j => (ofBytes 64 (slice bs (16 * j) 8), ofBytes 64 (slice bs (16 * j + 8) 8))

/-- Every armed word checked before anything is armed (R287). -/
def State.armCheck (s : State) (es : List (Word64 × Word64)) : Except Stop (List (Word64 × Word64 × Xl)) :=
  match es with
  | [] => .ok []
  | (a, v) :: rest =>
    match s.check (some s.core) s.asid s.sq.sup .read false 8 a with
    | .error e => .error e
    | .ok x =>
      match State.armCheck s rest with
      | .ok l => .ok ((a, v, x) :: l)
      | .error e => .error e

/-- The words read: the lowest index that differs, if any, or what the instruction waits for. -/
inductive Fired where
  | none
  | some (j : Nat)
  | stop (r : Res)

def State.fired (s : State) (j : Nat) (es : List (Word64 × Word64 × Xl)) : Fired :=
  match es with
  | [] => .none
  | (a, v, x) :: rest =>
    match s.peek a x with
    | .fail .page 1 => .some 7
    | .fail c r => .stop (failRes c r a)
    | .ask g => .stop (.hold g)
    | .ok w => if w != v then .some j else State.fired s (j + 1) rest

/-- `wait4` (R233, R287): it sleeps until a word differs or a case of R233 ends it. -/
def execWait4 (h : Hdr) (xa : XReg) (n : BitVec 2) (s : State) : Host.Outcome State Fault Refusal :=
  s.issue (syncForm h 2 [xa]) fun t =>
    match s.sq.sleep with
    | .wait4 _ => .wait
    | .woken j => .done ((t.setX xa (w64 j)).setCur ((t.setX xa (w64 j)).cur.dropProbes t.seq))
    | _ =>
      match t.syncRead 64 (t.getX xa) (16 * (n.toNat + 1)) with
      | .error r => r
      | .ok (u, bs) =>
        match u.armCheck (armEntries (n.toNat + 1) bs) with
        | .error e => e.res
        | .ok es =>
          if es.any fun e => !u.mayAccess [(e.1.toNat, 8, e.2.2)] false none then .wait
          else
            match u.fired 0 es with
            | .stop r => r
            | .some j => .done ((u.setX xa (w64 j)).setCur ((u.setX xa (w64 j)).cur.dropProbes u.seq))
            | .none => .sleep (.wait4 es)

/-! ## Barrier records -/

/-- `bexp` (R234, R288): one atomic on TGT, whose new value becomes the phase target. -/
def execBexp (h : Hdr) (xa : XReg) (s : State) : Host.Outcome State Fault Refusal :=
  let f := syncForm h 3 [xa, xPlus xa 1]
  s.issue f fun t =>
    let addr := t.getX xa
    match t.scalarVia .amo false 16 addr with
    | .error e => e.res
    | .ok via =>
      let via := via.map fun v => (v.1 + 8, 8, v.2.2.shift 8)
      .done ((t.touchVia via).putOp f 0x15 3 none none none (.bexp (xPlus xa 1) (addr + 8) (t.getX (xPlus xa 1))) via false)

/-- `bwait` (R234, R288): it issues once ARR has reached its target, and acquires. -/
def execBwait (h : Hdr) (sc : Scope) (xa : XReg) (s : State) : Host.Outcome State Fault Refusal :=
  s.issue (syncForm h 4 [xa, xPlus xa 1]) fun t =>
    let addr := t.getX xa
    match t.scalarVia .read false 16 addr with
    | .error e => e.res
    | .ok via =>
      match via with
      | (_, _, x) :: _ =>
        if !t.mayAccess [(addr.toNat, 8, x)] false none then .wait
        else
          match t.peek addr x with
          | .fail c r => failRes c r addr
          | .ask g => .hold g
          | .ok arr =>
            if (arr - t.getX (xPlus xa 1)).toNat < 2 ^ 63 then
              let u := t.setCur (t.cur.dropProbes t.seq)
              .done ((u.touchVia via).acquire u.core u.seq sc)
            else .hold fun t => t.setCur (t.cur.dropProbes t.seq)
      | [] => .wait

end Sys2Proof.Machine
end

