-- ==== Sys2Proof/Machine/EvCore.lean ====
section
/-! DEFINITION. Completions of a core's own accesses, fences and transfers, wait4's checks, steals, the end of an instance
(R20, R32, R33, R47, R53, R65, R66, R69, R224 to R236, R263 to R288). -/

namespace Sys2Proof.Machine

open Sys2Proof

/-! ## Operations by number -/

/-- An operation of a core that has not completed. -/
def State.openOp (s : State) (core op : Nat) : Option Op :=
  match (s.getCore core).findOp op with
  | some o => if o.done then none else some o
  | none => none

def State.putOpAt (s : State) (core : Nat) (o : Op) : State := s.setCore core ((s.getCore core).updOp o.id fun _ => o)

/-- A sequencer of a core writes one of its x registers. -/
def State.putX (s : State) (core : Nat) (q : SeqId) (r : XReg) (v : Word64) : State :=
  let c := s.getCore core
  s.setCore core (c.setSeqr q ((c.seqr q).setX r v))

/-- A sequencer can be told of one uncorrectable access at a time. -/
def State.canTell (s : State) (core : Nat) (q : SeqId) : Bool := ((s.getCore core).seqr q).uncorr.isNone

/-- An access that consumed an uncorrectable unit, or that another module refused or lost, completes without effect: its
cause is pending at its sequencer's next boundary; after that sequencer has ended, a record goes to the launch fault area
(R44, R69, R269, R359). The signals of an instruction that has stopped part-way are still to come (R359). -/
def State.tellLate (s : State) (core : Nat) (o : Op) (addr : Word64) (mask : Pred) (why : Late) : State :=
  let c := s.getCore core
  let r := c.seqr o.seq
  let s := if why = .uncorr && (r.ended || r.uncorr.isNone) then s.countSeen (some core) (s.asidOf core) addr.toNat else s
  let c := s.getCore core
  if r.ended then
    let s := match c.inst with
      | some i => s.launchFault i.launch (o.efr i.inst why.codes.1.code.toNat why.codes.2 addr 0) none
      | none => s
    s.doneOp core o.id
  else if r.uncorr.isSome then s
  else
    let sdone := match r.partTrap with | some (id, _) => id != o.id | none => true
    (s.setCore core (c.setSeqr o.seq { r with uncorr := some ⟨addr, o.pc, mask, sdone, why⟩ })).doneOp core o.id

/-! ## Reads -/

/-- Cells of an earlier answer and of a new one. -/
def mergeCells (old : Option RemoteAnswer) (core op : Nat) (cells : List (Nat × Byte)) : RemoteAnswer :=
  let was := match old with | some (.bytes _ _ cs) => cs | _ => []
  .bytes core op (cells.foldl (fun t c => Tbl.set t c.1 c.2) was)

/-- The bytes of a piece that an outstanding read has. -/
def Op.answered (o : Op) (va n : Nat) : Option (List Byte) :=
  match o.answer with
  | some (.value _ _ v) => some (leBytes n v.toNat)
  | a => answerBytes a va n

def Op.has (o : Op) (v : Nat × Nat × Xl) : Bool := (o.answered v.1 v.2.1).isSome

/-- A piece has been read. -/
def State.addCells (s : State) (core id va : Nat) (bs : List Byte) : State :=
  s.setCore core ((s.getCore core).updOp id fun o =>
    { o with answer := some (mergeCells o.answer core id (bs.mapIdx fun i b => (va + i, b))) })

/-- Pieces read one after another up to one that fails: its address and why; a line of another module is asked for. -/
def State.readPieces (s : State) (core : Nat) (o : Op) (ps : List (Nat × Nat × Xl)) : State × Option (Nat × Late) :=
  match ps with
  | [] => (s, none)
  | (va, n, x) :: rest =>
    match s.readSeq core o.seq (s.asidOf core) x n with
    | .ok t bs => State.readPieces (t.addCells core o.id va bs) core o rest
    | .uncorr => (s, some (va, .uncorr))
    | .pend => State.readPieces (s.askLine core o.id (s.asidOf core) o.sup x) core o rest

/-- The elements of a tile-row access that have performed (R271). -/
def OpKind.moved : OpKind → Pred
  | .ldt _ _ _ _ _ _ skip | .stt _ _ _ _ _ skip => skip
  | _ => 0

/-- A read of another module's uncached page. -/
def isFar (v : Nat × Nat × Xl) : Bool := placeRemote v.2.2 && !v.2.2.cached

/-- All pieces of a load's first page have been read: the destination takes them (R47, R267, R270). -/
def State.loadLanded (s : State) (core id : Nat) : State :=
  match s.openOp core id with
  | none => s
  | some o =>
    let part := firstPart o.via
    let bs := part.map fun v => (o.answered v.1 v.2.1).getD []
    if !part.all o.has then s
    else
      match o.kind with
      | .load dst _ sz _ => (s.putX core o.seq dst (ldExtend sz bs.flatten)).doneOp core id
      | .ldt t row nr addr guard val skip =>
        let s := s.setCore core ((s.getCore core).putPieces t row guard addr.toNat ((part.map (·.1)).zip bs))
        let rest := o.via.drop part.length
        if rest.isEmpty then s.doneOp core id
        else s.putOpAt core { o with
          via := rest, answer := none, asked := [], kind := .ldt t row nr addr guard val (skip ||| maskOf addr.toNat part) }
      | _ => s

/-- Some of the pieces of a load's first page are read; those of another module's uncached page are asked for (R47, R225,
R235). -/
def State.loadStep (s : State) (core : Nat) (o : Op) : State :=
  let need := (firstPart o.via).filter fun v => !o.has v
  let addr (va : Nat) : Word64 := match o.kind with | .load _ a _ _ => a | _ => w64 va
  match answerWhy o.answer with
  | some w => s.tellLate core o (addr (match need with | v :: _ => v.1 | [] => 0)) o.kind.moved (lateOf w)
  | none =>
    let s := (need.filter isFar).foldl (fun t v =>
      match v.2.2.place with | .remote m off => t.askEng core o m off v.2.1 | _ => t) s
    match s.readPieces core o (s.somePieces (2 ^ 95) (need.filter fun v => !isFar v)) with
    | (t, some (va, why)) => t.tellLate core o (addr va) o.kind.moved why
    | (t, none) => t.loadLanded core o.id

/-- LOAD_RETURN (R267, R269 to R271): a load's value arrives; a load waits for what is ordered before it. -/
def execLoadReturn (core op : Nat) (s : State) : Host.Outcome State Fault Refusal :=
  match s.openOp core op with
  | none => .next s
  | some o =>
    if !(s.getCore core).mayPerform o then .next s
    else
      match o.kind with
      | .load dst _ _ (some v) => .next ((s.putX core o.seq dst v).doneOp core op)
      | .ldt t row _ addr guard (some rows) skip =>
        let us := (List.range (16 * rows.length)).filter fun u => unitTouched guard u && !skip.getLsbD u
        let ps := us.map fun u =>
          (addr.toNat + 16 * u, (List.range 16).map fun i => byteAt (rows.getD (u / 16) 0) (u % 16 * 16 + i))
        .next ((s.setCore core ((s.getCore core).putPieces t row guard addr.toNat ps)).doneOp core op)
      | .load .. | .ldt .. => .next (if o.via.isEmpty then s.doneOp core op else s.loadStep core o)
      | _ => .next s

/-! ## Stores -/

/-- A run of bytes of a store performed: another module's uncached bytes are sent, and acknowledged later. -/
def State.writeRun (s : State) (core : Nat) (o : Op) (x : Xl) (bs : List Byte) : Option State :=
  let a := s.asidOf core
  match x.place with
  | .remote m off =>
    if x.cached then s.writeSeq core a o.sup x bs
    else some ((s.l1Drop core (l1Key core a x)).sendWrite (s.opAgent core o) m off bs)
  | _ => s.writeSeq core a o.sup x bs

/-- Runs performed up to one that meets an uncorrectable unit, which is named. -/
def State.storeRuns (s : State) (core : Nat) (o : Op) (rs : List (Nat × Xl × List Byte)) : State × Option Nat :=
  match rs with
  | [] => (s, none)
  | (va, x, l) :: rest =>
    match s.writeRun core o x l.reverse with
    | some t => State.storeRuns t core o rest
    | none => (s, some va)

/-- The bytes that pieces of a store write. -/
def State.storeBytes (s : State) (core : Nat) (o : Op) (ps : List (Nat × Nat × Xl)) : List (Nat × Xl × Byte) :=
  match o.kind with
  | .store _ _ v => (ps.map fun p => (List.range p.2.1).map fun i => (p.1 + i, p.2.2.shift i, byteAt v i)).flatten
  | .stt t row _ addr guard _ => sttBytes ps addr.toNat guard fun r => (s.getCore core).row t (row + r)
  | _ => []

/-- The pieces of a store's first page that have not been made. -/
def Op.todo (o : Op) : List (Nat × Nat × Xl) := (firstPart o.via).filter fun v => !o.asked.contains (v.1, v.2.1)

/-- A store whose first page has been made and acknowledged goes on to the next page, or ends (R47). -/
def State.storeLanded (s : State) (core id : Nat) : State :=
  match s.openOp core id with
  | none => s
  | some o =>
    let part := firstPart o.via
    let rest := o.via.drop part.length
    if !o.todo.isEmpty || o.out ≠ 0 then s
    else if rest.isEmpty then s.doneOp core id
    else
      match o.kind with
      | .stt t row nr addr guard skip =>
        s.putOpAt core { o with
          via := rest, asked := [], answer := none, kind := .stt t row nr addr guard (skip ||| maskOf addr.toNat part) }
      | _ => s.doneOp core id

/-- Some of the pieces of a store's first page are made; all in one where a bad unit may have to be covered (R69, R225). -/
def State.storeStep (s : State) (core : Nat) (o : Op) : State :=
  let addr (va : Nat) : Word64 := match o.kind with | .store a _ _ => a | _ => w64 va
  match answerWhy o.answer with
  | some w => s.tellLate core o (addr (match o.asked with | v :: _ => v.1 | [] => 0)) o.kind.moved (lateOf w)
  | none =>
    let whole := !s.bad.isEmpty || !(s.getCore core).bad.isEmpty
    let sel := if whole then o.todo else s.somePieces (2 ^ 95) o.todo
    match s.storeRuns core o (runsGo (s.storeBytes core o sel) none) with
    | (t, none) =>
      (t.setCore core ((t.getCore core).updOp o.id fun p => { p with asked := p.asked ++ sel.map fun v => (v.1, v.2.1) })).storeLanded
        core o.id
    | (_, some va) => s.tellLate core o (addr va) o.kind.moved .uncorr

/-- STORE_PERFORM (R53, R57, R268, R270): a store reaches its place of execution. -/
def execStorePerform (core op : Nat) (s : State) : Host.Outcome State Fault Refusal :=
  match s.openOp core op with
  | none => .next s
  | some o =>
    if !(s.getCore core).mayPerform o then .next s
    else
      match o.kind with
      | .store .. | .stt .. => .next (if o.via.isEmpty then s.doneOp core op else s.storeStep core o)
      | _ => .next s

/-! ## Atomics -/

/-- What an atomic does at its place. -/
inductive Amo where
  | ok (s : State) (old : Word64)
  | bad (why : Late)
  /-- another module has been asked -/
  | ask (s : State)
  /-- it waits -/
  | wait (s : State)

/-- One atomic word of an operation of a core; sent says that another module has been asked, which happens once LM holds
nothing of the line (R65, R235, R283). -/
def State.amoOnce (s : State) (core : Nat) (o : Op) (x : Xl) (op : AmoOp) (dword : Bool) (b c : Word64) (sent : Bool) : Amo :=
  match x.place with
  | .remote m off =>
    if sent then
      match answerWhy o.answer, o.answer with
      | some w, _ => .bad (lateOf w)
      | none, some (.value _ _ v) => .ok s v
      | _, _ => .wait s
    else
      let a := s.asidOf core
      let t := (s.l1Drop core (l1Key core a x)).lmDrop core (lmKey a x)
      if (t.getCore core).lineGone (lmKey a x) then .ask (t.emit (.remoteAmo m a core o.id off op dword b c o.sup)) else .wait t
  | _ =>
    match s.amoAt core (s.asidOf core) x op dword b c with
    | some (t, old) => .ok t old
    | none => .bad .uncorr

/-- The old word as the register shows it (R283). -/
def amoOld (dword : Bool) (v : Word64) : Word64 := if dword then v else (v.setWidth 32).signExtend 64

/-- The release of an atomic, before it first performs, and whether it is over (R228). -/
def State.relGate (s : State) (core : Nat) (o : Op) : State × Bool :=
  match o.rel with
  | some sc => if o.prog = 0 then (s.release core sc, (s.release core sc).released core sc) else (s, true)
  | none => (s, true)

/-- The acquire of an atomic (R228). -/
def State.acqOp (s : State) (core : Nat) (o : Op) : State :=
  match o.acq with | some sc => s.acquire core o.seq sc | none => s

/-- A scalar atomic's answer written and the operation ended. -/
def State.amoEnd (s : State) (core : Nat) (o : Op) (dst : XReg) (v : Word64) : State :=
  ((s.putX core o.seq dst v).acqOp core o).doneOp core o.id

/-- The next element of a vector atomic: prog 1 says that its release and its acquire have taken place, 2 that a question is
out. ACQ acts before element 0, and after the last for the accesses that follow (R228, R284). -/
def State.vamoNext (s : State) (core : Nat) (o : Op) : State :=
  let s := if o.prog = 0 then s.acqOp core o else s
  match o.kind with
  | .vamo op dword t row ti ri ((e, addr, x, b, c) :: rest) m =>
    match s.amoOnce core o x op dword b c (o.prog = 2) with
    | .ok u old =>
      let u := u.setCore core ((u.getCore core).putElem t row (wordBytes dword) e old)
      let o := { o with prog := 1, answer := none, kind := .vamo op dword t row ti ri rest (setBit m e true) }
      if rest.isEmpty then (u.acqOp core o).doneOp core o.id else u.putOpAt core o
    | .bad why => if s.canTell core o.seq then s.tellLate core o addr m why else s
    | .ask u => u.putOpAt core { o with prog := 2 }
    | .wait u => if o.prog = 0 then u.putOpAt core { o with prog := 1 } else u
  | .vamo _ _ _ _ _ _ [] _ => (s.acqOp core o).doneOp core o.id
  | _ => s

/-- A scalar atomic performs: its register takes f of the old word. -/
def State.amoStep (s : State) (core : Nat) (o : Op) (x : Xl) (op : AmoOp) (dword : Bool) (b c : Word64) (dst : XReg) (addr : Word64)
    (f : Word64 → Word64) : State :=
  match s.amoOnce core o x op dword b c (o.prog = 1) with
  | .ok t old => t.amoEnd core o dst (f old)
  | .bad why => s.tellLate core o addr 0 why
  | .ask t => t.putOpAt core { o with prog := 1 }
  | .wait t => t

/-- ATOMIC_PERFORM (R65, R228, R283 to R285, R288): an atomic, or the next element of a vector atomic, performs. -/
def execAtomicPerform (core op : Nat) (s : State) : Host.Outcome State Fault Refusal :=
  match s.openOp core op with
  | none => .next s
  | some o =>
    if !(s.getCore core).mayPerform o then .next s
    else
      match s.relGate core o with
      | (t, false) => .next t
      | (t, true) =>
        match o.kind, o.via with
        | .vamo .., _ => .next (t.vamoNext core o)
        | .amo aop dword dst addr b c, (_, _, x) :: _ => .next (t.amoStep core o x aop dword b c dst addr (amoOld dword))
        | .bexp dst addr n, (_, _, x) :: _ => .next (t.amoStep core o x .add true n 0 dst addr (· + n))
        | _, _ => .next s

/-! ## Fences -/

/-- An access is among the earlier ones a cover names (R227 Table 2). -/
def coveredBy (cv : Cover) (k : OpKind) : Bool :=
  match k with
  | .load .. | .ldt .. => cv != .st
  | .store .. | .stt .. => cv != .acq
  | .amo .. | .vamo .. | .bexp .. => true
  | _ => false

/-- FENCE_COMPLETE (R227): with stores in its cover, what LM held dirty has been written back, other modules included. -/
def execFenceComplete (core op : Nat) (s : State) : Host.Outcome State Fault Refusal :=
  match s.openOp core op with
  | none => .next s
  | some o =>
    match o.kind with
    | .fence sc cv =>
      let c := s.getCore core
      if (opsBefore c.ops op).any fun x => x.seq = o.seq && !x.done && coveredBy cv x.kind then .next s
      else
        let t := if cv = .acq then s else s.release core sc
        if cv != .acq && !t.released core sc then .next t
        else
          let t := if cv = .all ∨ cv = .acq then t.acquire core o.seq sc else t
          .next (t.doneOp core op)
    | _ => .next s

/-! ## Transfers -/

/-- Bytes of which each is the source byte's value before the command or, where an earlier byte of the list went to the
source byte d places back, the value written there (R273). -/
def chainGo (pick : Nat → Bool) (d i : Nat) (old acc : List Byte) : List Byte :=
  match old with
  | [] => acc
  | b :: rest =>
    let v := if d ≠ 0 ∧ d ≤ i ∧ pick i then acc.getD (d - 1) b else b
    chainGo pick d (i + 1) rest (v :: acc)

/-- The bytes a copy writes: the ranges may overlap. -/
def State.copyBytes (s : State) (src dst : Nat) (bs : List Byte) : List Byte :=
  let pick (i : Nat) : Bool := s.freeBool (2 ^ 90 + i)
  if src < dst then (chainGo pick (dst - src) 0 bs []).reverse
  else chainGo pick (src - dst) 0 bs.reverse []

/-- The parts of a read up to the first that fails, and why it does. -/
def State.readPrefix (s : State) (g : Agent) (ans : Option RemoteAnswer) (ps : List (Nat × Nat)) (acc : List (List Byte)) :
    List Byte × Option EFail :=
  match ps with
  | [] => (acc.reverse.flatten, none)
  | p :: rest =>
    match s.vread g ans p.1 p.2 with
    | .ok bs => State.readPrefix s g ans rest (bs :: acc)
    | .error e => (acc.reverse.flatten, some e)

/-- Parts written up to the first that fails: the bytes written, and why it does. -/
def State.writePrefix (s : State) (g : Agent) (ps : List (Nat × Nat)) (bs : List Byte) (n : Nat) : State × Nat × Option EFail :=
  match ps with
  | [] => (s, n, none)
  | p :: rest =>
    match s.vwrite g p.1 (bs.take p.2) with
    | (t, none) => State.writePrefix t g rest (bs.drop p.2) (n + p.2)
    | (_, some e) => (s, n, some e)

/-- A command's end as an engine's: every effect it had, the units done, and what failed. -/
structure Moved where
  s : State
  done : Nat
  fail : Option EFail

/-- A copy (R273). Where it fails, how much of what precedes the failing part has performed is free, in whole aligned 8-byte
parts (R225). -/
def State.moveCopy (s : State) (g : Agent) (ans : Option RemoteAnswer) (dst src n : Nat) : Moved :=
  let (bs, e) := s.readPrefix g ans (parts src n) []
  match e with
  | some (.pend m off k) => ⟨s, 0, some (.pend m off k)⟩
  | some e =>
    let k := s.freeBelow (2 ^ 91) (bs.length + 1)
    let k := k - min k ((dst + k) % 8)
    let w := (s.copyBytes src dst bs).take k
    let (t, d, e') := s.writePrefix g (parts dst k) w 0
    ⟨t, d, some (e'.getD e)⟩
  | none =>
    let (t, d, e) := s.writePrefix g (parts dst n) (s.copyBytes src dst bs) 0
    ⟨t, d, e⟩

/-- The element moves of a gather or scatter: number, destination, source (R274). -/
def xferMoves (isScat : Bool) (esz dst src : Nat) (idx : List Nat) : List (Nat × Nat) :=
  let w := 2 ^ esz
  idx.mapIdx fun i k => if isScat then (dst + k * w, src + i * w) else (dst + i * w, src + k * w)

/-- Some element's target is another's, or an element's source. -/
def movesMeet (w : Nat) (ms : List (Nat × Nat)) : Bool :=
  let ds := ms.map (·.1)
  ds.eraseDups.length != ds.length || ds.any fun d => ms.any fun m => decide (d < m.2 + w ∧ m.2 < d + w)

/-- Elements in a free order. -/
def State.anyOrder (s : State) (ms : List (Nat × Nat)) : List (Nat × Nat) :=
  ((ms.mapIdx fun i m => ((s.free (2 ^ 92 + i)).toNat, m)).mergeSort fun a b => a.1 ≤ b.1).map (·.2)

/-- Element moves one after another: s0 is the state before the command, seen the targets written. -/
def moveGo (s0 : State) (g : Agent) (ans : Option RemoteAnswer) (w align : Nat) (meet : Bool) (s : State) (ms : List (Nat × Nat))
    (seen : List Nat) (n : Nat) : Moved :=
  match ms with
  | [] => ⟨s, n, none⟩
  | (d, a) :: rest =>
    if d % align ≠ 0 then ⟨s, n, some (.fault .misalign 0 (w64 d))⟩
    else if a % align ≠ 0 then ⟨s, n, some (.fault .misalign 0 (w64 a))⟩
    else
      match s.vread g ans a w with
      | .error e => ⟨s, n, some e⟩
      | .ok new =>
        let old := if meet then match s0.vread g ans a w with | .ok bs => bs | .error _ => new else new
        let prev := if seen.contains d then match s.vread g ans d w with | .ok bs => bs | .error _ => new else new
        let bs := if meet then
            (List.range w).map fun i =>
              let v := if s0.freeBool (2 ^ 93 + 2 ^ 20 * n + i) then old.getD i 0 else new.getD i 0
              if seen.contains d && s0.freeBool (2 ^ 94 + 2 ^ 20 * n + i) then prev.getD i 0 else v
          else new
        match s.vwrite g d bs with
        | (t, none) => moveGo s0 g ans w align meet t rest (if meet then d :: seen else seen) (n + 1)
        | (t, some e) => ⟨t, n, some e⟩

/-- A gather or scatter (R274): the list is read first. -/
def State.moveList (s : State) (g : Agent) (ans : Option RemoteAnswer) (isScat : Bool) (esz dst src idx n : Nat) : Moved :=
  match s.vread g ans idx (4 * n) with
  | .error e => ⟨s, 0, some e⟩
  | .ok bs =>
    let ms := xferMoves isScat esz dst src ((List.range n).map fun i => fld bs (4 * i) 4)
    let meet := movesMeet (2 ^ esz) ms
    moveGo s g ans (2 ^ esz) (min (2 ^ esz) 16) meet s (if meet then s.anyOrder ms else ms) [] 0

/-- What the record of a failed transfer names: with FILL the ring and the slot, else an address (R272, R361 Table 8). -/
def State.xferNames (s : State) (core : Nat) (fill : Option (Nat × BitVec 32)) (addr : Word64) : Word64 :=
  match fill with
  | some (b, k) => w64 (b + 256 * (k.toNat % (match Tbl.get? (s.getCore core).rings b with | some ring => ring.ns | none => 1)))
  | none => addr

/-- A failed transfer: its slot is released (R272). -/
def State.xferFail (s : State) (core : Nat) (o : Op) (fill : Option (Nat × BitVec 32)) (e : EFail) (done : Nat) : State :=
  match e with
  | .fault .uncorr r a =>
    let s := if fill.isSome then s.countSeen (s.opAgent core o).core (s.asidOf core) a.toNat else s
    (s.releaseFill core fill).failOp core o 12 r (s.xferNames core fill a) done
  | .fault c r a => (s.releaseFill core fill).failOp core o c.code.toNat r (s.xferNames core fill a) done
  | e => s.failOpE core o e done

/-- The end of a transfer whose data has been moved: its writes acknowledged, its count added, its slot released (R272). A
record that cannot be reached names the record's address. -/
def State.xferEnd (s : State) (core : Nat) (o : Op) (cnt : Option Word64) (fill : Option (Nat × BitVec 32)) (bytes units : Nat)
    (dst : Word64) : State :=
  match s.counting core o cnt bytes (s.xferNames core fill dst) with
  | .ok t => (t.releaseFill core fill).doneOp core o.id
  | .wait t => t.setCore core ((t.getCore core).updOp o.id fun p => { p with prog := 1 })
  | .fail e => (s.releaseFill core fill).failOpE core o e units

/-- A data transfer performed, or stopped (R272). -/
def State.xferMoved (s : State) (core : Nat) (o : Op) (cnt : Option Word64) (fill : Option (Nat × BitVec 32)) (bytes units : Nat)
    (dst : Word64) (m : Moved) : State :=
  match m.fail with
  | some (.fault c r a) => m.s.xferFail core o fill (.fault c r a) m.done
  | some e => s.failOpE core o e 0
  | none => m.s.xferEnd core o cnt fill bytes units dst

/-! ### Transfers whose pieces perform one at a time (R222, R225, R273, R274) -/

/-- A move cut into the aligned 8-byte pieces of its destination: destination, source, bytes. -/
def moveCuts (fuel dst src n : Nat) : List (Nat × Nat × Nat) :=
  match fuel with
  | 0 => []
  | f + 1 =>
    if n = 0 then [] else
    let m := min n (8 - dst % 8)
    (dst, src, m) :: moveCuts f (dst + m) (src + m) (n - m)

/-- The aligned 8-byte parts of the source range [src, src + n) that a piece's source bytes lie in. -/
def srcParts (src n a m : Nat) : List (Nat × Nat) :=
  let part (b : Nat) : Nat × Nat := (max src b, min (src + n) (b + 8) - max src b)
  let b := a / 8 * 8
  if a + m ≤ b + 8 then [part b] else [part b, part (b + 8)]

/-- The pieces of a transfer, where none of its writes meets a read or another write of it; none where the list cannot be
read yet or the pieces would meet. -/
def State.movePlan (s : State) (g : Agent) (ans : Option RemoteAnswer) (kind : XferKind) (dst src idx n : Nat) :
    Option (List (Nat × Nat × Nat)) :=
  match kind with
  | .copy => if dst < src + n ∧ src < dst + n then none else some (moveCuts (n + 1) dst src n)
  | _ =>
    match s.vread g ans idx (4 * n) with
    | .error _ => none
    | .ok bs =>
      let isScat := match kind with | .scat _ => true | _ => false
      let e := match kind with | .gath e | .scat e => e | _ => 0
      let ms := xferMoves isScat e dst src ((List.range n).map fun i => fld bs (4 * i) 4)
      if movesMeet (2 ^ e) ms then none else some (ms.map fun m => moveCuts (2 ^ e + 1) m.1 m.2 (2 ^ e)).flatten

/-- The element that a piece belongs to, as it is counted: its number, and its destination and source (R274, R361). -/
def pieceElem (kind : XferKind) (dst src : Nat) (p : Nat × Nat × Nat) : Nat × Nat × Nat :=
  match kind with
  | .gath e => let i := (p.1 - dst) / 2 ^ e; (i, dst + i * 2 ^ e, p.2.1 - (p.1 - dst) % 2 ^ e)
  | .scat e => let i := (p.2.1 - src) / 2 ^ e; (i, p.1 - (p.2.1 - src) % 2 ^ e, src + i * 2 ^ e)
  | _ => (0, p.1, p.2.1)

/-- An element of a list whose address is not aligned (R274). -/
def pieceStop (kind : XferKind) (dst src : Nat) (p : Nat × Nat × Nat) : Option EFail :=
  match kind with
  | .gath e | .scat e =>
    let x := pieceElem kind dst src p
    if x.2.1 % min (2 ^ e) 16 ≠ 0 then some (.fault .misalign 0 (w64 x.2.1))
    else if x.2.2 % min (2 ^ e) 16 ≠ 0 then some (.fault .misalign 0 (w64 x.2.2))
    else none
  | _ => none

/-- What is asked of another module for a piece: the page of a copy, the element of a list. -/
def pieceAsk (kind : XferKind) (dst src n : Nat) (p : Nat × Nat × Nat) : Nat × Nat :=
  match kind with
  | .gath e | .scat e => ((pieceElem kind dst src p).2.2, 2 ^ e)
  | _ =>
    let lo := max src (p.2.1 / 65536 * 65536)
    (lo, min (src + n) (p.2.1 / 65536 * 65536 + 65536) - lo)

/-- The source bytes of a piece. Where source and destination of a copy are not aligned alike, each aligned part of the source
is read once, and what is left of it kept (R225). -/
def State.pieceRead (s : State) (core : Nat) (o : Op) (kind : XferKind) (src n : Nat) (p : Nat × Nat × Nat) :
    State × Except EFail (List Byte) :=
  let g := s.opAgent core o
  if kind != .copy || p.1 % 8 = p.2.1 % 8 then (s, s.vread g o.answer p.2.1 p.2.2)
  else
    let r := (srcParts src n p.2.1 p.2.2).foldl (fun (t : State × Option EFail) q =>
      match t.2, (t.1.openOp core o.id).bind fun o => answerBytes o.answer q.1 q.2 with
      | none, none =>
        (match t.1.vread g o.answer q.1 q.2 with
        | .ok bs => (t.1.addCells core o.id q.1 bs, none)
        | .error e => (t.1, some e))
      | _, _ => t) (s, none)
    match r.2 with
    | some e => (r.1, .error e)
    | none =>
      (r.1, match (r.1.openOp core o.id).bind fun o => answerBytes o.answer p.2.1 p.2.2 with
        | some bs => .ok bs
        | none => .error .held)

/-- Pieces moved one after another: those moved, and what failed. A piece that waits for another module is left. -/
def State.piecesGo (s : State) (core : Nat) (o : Op) (kind : XferKind) (dst src n : Nat) (ps : List (Nat × Nat × Nat))
    (acc : List (Nat × Nat × Nat)) : State × List (Nat × Nat × Nat) × Option EFail :=
  match ps with
  | [] => (s, acc, none)
  | p :: rest =>
    let g := s.opAgent core o
    match pieceStop kind dst src p with
    | some e => (s, acc, some e)
    | none =>
      match s.pieceRead core o kind src n p with
      | (s, .error (.fault c r a)) => (s, acc, some (.fault c r a))
      | (s, .error _) =>
        let a := pieceAsk kind dst src n p
        let t := match s.vread g o.answer a.1 a.2 with | .error e => s.failOpE core o e 0 | .ok _ => s
        match t.openOp core o.id with
        | some o => State.piecesGo t core o kind dst src n rest acc
        | none => (t, acc, none)
      | (s, .ok bs) =>
        match s.vwrite g p.1 bs with
        | (t, none) =>
          match t.openOp core o.id with
          | some o => State.piecesGo t core o kind dst src n rest (p :: acc)
          | none => (t, acc, none)
        | (t, some (.fault c r a)) => (t, acc, some (.fault c r a))
        | (_, some e) => State.piecesGo (s.failOpE core o e 0) core o kind dst src n rest acc

/-- Units of a transfer that are whole, given the pieces left. -/
def unitsDone (kind : XferKind) (dst src n : Nat) (left : List (Nat × Nat × Nat)) : Nat :=
  match kind with
  | .gath _ | .scat _ => n - ((left.map fun p => (pieceElem kind dst src p).1).eraseDups).length
  | _ => n - (left.map fun p => p.2.2).foldl (· + ·) 0

/-- Some of the pieces left of a transfer are moved. -/
def State.movePieces (s : State) (core : Nat) (o : Op) (kind : XferKind) (dst src : Word64) (idx : Word64) (n : Nat)
    (cnt : Option Word64) (fill : Option (Nat × BitVec 32)) (left : List (Nat × Nat × Nat)) : State :=
  let sel := (s.someOf (2 ^ 95) left.length).filterMap fun i => left[i]?
  let (t, made, e) := s.piecesGo core o kind dst.toNat src.toNat n sel []
  let left := left.filter fun p => !made.contains p
  match e with
  | some e => t.xferFail core o fill e (unitsDone kind dst.toNat src.toNat n left)
  | none =>
    let t := t.setCore core ((t.getCore core).updOp o.id fun p => { p with kind := .xfer kind dst src idx n cnt fill (some left) })
    if left.isEmpty then t.xferEnd core o cnt fill (n * kind.unit) (match kind with | .copy => n * kind.unit | _ => n) dst else t

/-! ### Prefetch and invalidation (R275, R276) -/

/-- A line of a range as `pref` and `invr` see it: its place, when it translates for a read. -/
def State.lineXl (s : State) (core : Nat) (o : Op) (va : Nat) : Xr :=
  if va / 2 ^ 56 ≠ 0 then .fail .page 4 else s.xlat (some core) (s.asidOf core) o.sup .read va

/-- `pref` brings the lines it can; pages and lines of other modules are asked for once each, one line at a time: an entry of
asked with 128 has not come, one with 0 has come or has been refused (R43, R275). -/
def State.prefLine (s : State) (core : Nat) (o : Op) (va : Nat) : State :=
  match s.lineXl core o va with
  | .fail _ _ => s
  | .pend m off => s.askPage (s.asidOf core) m off
  | .ok x =>
    if !x.cached then s
    else
      match x.place with
      | .dev _ => ((s.touch (s.asidOf core) va).lmFetch core (s.asidOf core) x).getD s
      | .remote m off =>
        let key := m * 2 ^ 43 + off
        let have_ := (Tbl.get? (s.getCore core).lm (lmKey (s.asidOf core) x)).isSome
        let asked := match (s.getCore core).findOp o.id with | some p => p.asked.any fun e => e.1 = key || e.2 = 128 | none => true
        if have_ || asked || (s.getCore core).wbBusy (lmKey (s.asidOf core) x) then s
        else
          (s.setCore core ((s.getCore core).updOp o.id fun p => { p with asked := p.asked ++ [(key, 128)] })).askLine core o.id
            (s.asidOf core) o.sup x
      | .scratch _ => s

/-- A line that `pref` still waits for: its page is not known, or it has been asked for and has not come. -/
def State.prefWaits (s : State) (core op : Nat) (va : Nat) : Bool :=
  match (s.getCore core).findOp op with
  | some o =>
    match s.lineXl core o va with
    | .pend _ _ => true
    | .ok x =>
      match x.place with
      | .remote m off =>
        x.cached && (Tbl.get? (s.getCore core).lm (lmKey (s.asidOf core) x)).isNone &&
          !o.asked.contains (m * 2 ^ 43 + off, 0)
      | _ => false
    | .fail _ _ => false
  | none => false

/-- `invr` on one line of LM (R276). -/
def State.invrLine (s : State) (core : Nat) (o : Op) (va : Nat) : State :=
  match s.lineXl core o va with
  | .ok x => if x.cached then s.lmDrop core (lmKey (s.asidOf core) x) else s
  | .pend m off => s.askPage (s.asidOf core) m off
  | .fail _ _ => s

/-- The line is out of LM, or one that `invr` skips. -/
def State.invrGone (s : State) (core : Nat) (o : Op) (va : Nat) : Bool :=
  match s.lineXl core o va with
  | .ok x => !x.cached || (s.getCore core).lineGone (lmKey (s.asidOf core) x)
  | .pend _ _ => false
  | .fail _ _ => true

/-- A transfer's ranges meet the region whose copies still run (R264). -/
def Core.xferHeld (c : Core) (k : OpKind) : Bool :=
  c.biv.copying && k.names.any fun r =>
    decide (r.1 < scratchBase + c.biv.base + 2 * c.biv.len ∧ scratchBase + c.biv.base < r.1 + r.2)

/-- Another module has refused a request of the operation, or is lost. -/
def Op.isLost (o : Op) : Bool := (answerWhy o.answer).isSome

/-- A copy, gather or scatter goes on: whole, or by pieces (R272 to R274). -/
def State.moveStep (s : State) (core : Nat) (o : Op) (kind : XferKind) (dst src idx : Word64) (n : Nat) (cnt : Option Word64)
    (fill : Option (Nat × BitVec 32)) (moves : Option (List (Nat × Nat × Nat))) : State :=
  let g := s.opAgent core o
  let bytes := n * kind.unit
  let units := match kind with | .copy => bytes | _ => n
  let plan := if s.freeBool (2 ^ 97) then s.movePlan g o.answer kind dst.toNat src.toNat idx.toNat n else none
  match moves, plan with
  | some l, _ => s.movePieces core o kind dst src idx n cnt fill l
  | none, some l =>
    if l.isEmpty then s.xferEnd core o cnt fill bytes units dst
    else s.putOpAt core { o with kind := .xfer kind dst src idx n cnt fill (some l) }
  | none, none =>
    s.xferMoved core o cnt fill bytes units dst <|
      match kind with
      | .gath e => s.moveList g o.answer false e dst.toNat src.toNat idx.toNat n
      | .scat e => s.moveList g o.answer true e dst.toNat src.toNat idx.toNat n
      | _ => s.moveCopy g o.answer dst.toNat src.toNat n

/-- XFER_COMPLETE (R272 to R276): a transfer performs and completes. -/
def execXferComplete (core op : Nat) (s : State) : Host.Outcome State Fault Refusal :=
  match s.openOp core op with
  | none => .next s
  | some o =>
    if (s.getCore core).xferHeld o.kind then .next s
    else
      match o.kind with
      | .xfer .pref dst _ _ n _ _ _ =>
        let t := (linesOver dst.toNat n).foldl (fun t va => t.prefLine core o va) s
        .next (if (linesOver dst.toNat n).any fun va => t.prefWaits core op va then t else t.doneOp core op)
      | .xfer .invr dst _ _ n _ _ _ =>
        let t := (linesOver dst.toNat n).foldl (fun t va => t.invrLine core o va) s
        .next (if (linesOver dst.toNat n).all fun va => t.invrGone core o va then t.doneOp core op else t)
      | .xfer kind dst src idx n cnt fill moves =>
        if o.prog = 0 then .next (s.moveStep core o kind dst src idx n cnt fill moves)
        else .next (s.xferEnd core o cnt fill (n * kind.unit) (match kind with | .copy => n * kind.unit | _ => n) dst)
      | _ => .next s

/-! ## wait4 (R233) -/

/-- The sequencer of a core stands as the running one. -/
def State.stand (s : State) (core : Nat) (q : SeqId) : State := { s with core := core, seq := q }

/-- A case of R233 ends the wait for one armed word: its module cannot be reached, or its page translates otherwise. -/
def State.armGone (s : State) (e : Word64 × Word64 × Xl) : Bool :=
  let unreached := match e.2.2.place with | .remote m _ => !s.mgmt.reachable.contains m | _ => false
  let lost := s.cur.ops.any fun o => o.isProbe s.seq e.1 && answerWhy o.answer = some (.page, 1)
  unreached || lost ||
    (match s.check (some s.core) s.asid s.sq.sup .read false 8 e.1 with
      | .ok x => x.place != e.2.2.place
      | .error (.ask ..) => false
      | .error _ => true)

/-- The owner has refused an armed word: the instruction reads again and takes the cause (R44). -/
def State.armRefused (s : State) (e : Word64 × Word64 × Xl) : Bool :=
  s.cur.ops.any fun o => o.isProbe s.seq e.1 && o.isLost

/-- WAIT4_CHECK (R233): a case of R233 ends the wait. The words themselves are checked at each write that reaches a line. -/
def execWait4Check (core : Nat) (q : SeqId) (s : State) : Host.Outcome State Fault Refusal :=
  if !s.live core q then .next s
  else
    let t := s.stand core q
    match t.sq.sleep with
    | .wait4 armed =>
      let put (sl : Sleep) : State := s.setCore core ((s.getCore core).setSeqr q { ((s.getCore core).seqr q) with sleep := sl })
      .next (if armed.any t.armGone then put (.woken 7) else if armed.any t.armRefused then put .none else s)
    | _ => .next s

/-- BIVOUAC_COPY_DONE (R264): the `spbeg` completes, and its signals follow; what waited for the region goes on. -/
def execBivouacCopyDone (core : Nat) (s : State) : Host.Outcome State Fault Refusal :=
  let c := s.getCore core
  .next (if c.biv.copying then
      let biv := { c.biv with copying := false, sigB := 0, sigA := 0 }
      (s.setCore core ({ c with biv := biv }.signalled .control c.biv.sigB c.biv.sigA)).coreRings core
    else s)

/-! ## Steals (R32, R33) -/

/-- The coordinates of an instance. -/
def Inst.coords (i : Inst) : List Nat := i.lvl.map (·.coord)

/-- The number of a die-slot in DIES order, from coordinates (R16, R17). -/
def slotOf (ls : List Level) (cs : List Nat) : Nat :=
  (ls.zip cs).foldl (fun n e => if e.1.kind = 2 then n * e.1.width + e.2 else n) 0

/-- The core of this module that runs the instance of a launch with these coordinates. -/
def State.coreOf (s : State) (launch : Nat) (cs : List Nat) : Option Nat :=
  (s.cores.find? fun c => match c.2.inst with | some i => i.launch = launch && i.coords = cs | none => false).map (·.1)

/-- What a victim grants: it keeps the lower half (R32). -/
def splitRange (grain : Nat) (l : LvlState) : LvlState × Option (Nat × Nat) :=
  let left := l.limit - l.next
  if 2 * grain ≤ left then ({ l with limit := l.next + left / 2 }, some (l.next + left / 2, l.limit)) else (l, none)

/-- A request served by an instance of this module: the range granted, (0, 0) for a refusal. -/
def State.serveSteal (s : State) (launch j : Nat) (cs : List Nat) : State × Nat × Nat :=
  match s.coreOf launch cs with
  | none => (s, 0, 0)
  | some v =>
    match (s.getCore v).inst with
    | none => (s, 0, 0)
    | some i =>
      match i.levels[j]?, i.lvl[j]? with
      | some l, some st =>
        match splitRange (grainOf l) st with
        | (st', some r) => (s.setCore v ((s.getCore v).setLvl j st'), r.1, r.2)
        | (_, none) => (s, 0, 0)
      | _, _ => (s, 0, 0)

/-- The number under which a thief asks another module; asking grows by it while the answer is out. -/
def stealOp (j : Nat) : Nat := 2 ^ 64 + j

/-- STEAL_REQUEST (R32): a thief's next request reaches its victim. -/
def execStealRequest (core : Nat) (level : BitVec 3) (s : State) : Host.Outcome State Fault Refusal :=
  let j := level.toNat
  match (s.getCore core).inst with
  | none => .next s
  | some i =>
    match i.levels[j]?, i.lvl[j]? with
    | some l, some st =>
      if st.asking = 0 || st.reply.isSome || decide (2 ^ 16 ≤ st.asking) then .next s
      else
        let cs := i.coords.set j ((st.coord + st.asking) % l.width)
        let p := slotOf i.levels cs
        let part := match Tbl.get? s.launches i.launch with | some la => la.parts.find? fun (p' : Part) => p'.coord = p | none => none
        match part with
        | some pt =>
          if pt.module != s.modId.toNat then
            .next ((s.setCore core ((s.getCore core).setLvl j { st with asking := st.asking + 2 ^ 16 })).emit
              (.remoteSteal pt.module i.launch j (instIdOf i.levels cs)))
          else
            let (t, lo, hi) := s.serveSteal i.launch j cs
            .next (t.setCore core ((t.getCore core).setLvl j { st with reply := some (lo, hi) }))
        | none => .next (s.setCore core ((s.getCore core).setLvl j { st with reply := some (0, 0) }))
    | _, _ => .next s

/-- A thief's level once an answer has reached it (R32). -/
def grantLevel (width : Nat) (st : LvlState) (r : Nat × Nat) : LvlState :=
  let k := st.asking % 2 ^ 16
  if r.1 < r.2 then { st with base := r.1, next := r.1, limit := r.2, asking := 0, reply := none }
  else if k + 1 < width then { st with asking := k + 1, reply := none }
  else { st with asking := 0, reply := none, finished := true }

/-- STEAL_GRANT (R32): the victim's answer reaches the thief. -/
def execStealGrant (core : Nat) (level : BitVec 3) (s : State) : Host.Outcome State Fault Refusal :=
  let j := level.toNat
  match (s.getCore core).inst with
  | none => .next s
  | some i =>
    match i.levels[j]?, i.lvl[j]? with
    | some l, some st =>
      match st.reply with
      | some r => .next (s.setCore core ((s.getCore core).setLvl j (grantLevel l.width st r)))
      | none => .next s
    | _, _ => .next s

/-! ## The end of an instance, and the host's writes to the far tier -/

/-- INSTANCE_END (R20, R21, R144). -/
def execInstanceEnd (core : Nat) (s : State) : Host.Outcome State Fault Refusal :=
  .next (if (s.getCore core).isOver && !isUnit core then s.leaveCore core else s)

/-- The word of the far tier that an operation's next atomic changes, by its host address and bytes; none for one that would
leave it as it is. -/
def State.farWord (s : State) (o : Op) : Option (Nat × Nat) :=
  let word (x : Xl) (op : AmoOp) (dword : Bool) (b c : Word64) : Option (Nat × Nat) :=
    match x.place with
    | .dev pa =>
      let n := wordBytes dword
      if farBase ≤ pa && (amoApply op dword (ofBytes 64 (s.keyBytes x.key pa n)) b c).isSome then some (s.farbase.toNat + (pa - farBase), n)
      else none
    | _ => none
  if o.done then none else
  match o.kind, o.via with
  | .amo op dword _ _ b c, v :: _ => word v.2.2 op dword b c
  | .bexp _ _ n, v :: _ => word v.2.2 .add true n 0
  | .vamo op dword _ _ _ _ ((_, _, x, b, c) :: _) _, _ => word x op dword b c
  | _, _ => none

/-- How many atomics an operation has still to perform, by what is left of it. -/
def nextAtomic (o : Op) : Nat × Nat :=
  match o.kind with
  | .vamo _ _ _ _ _ _ els _ => (els.length, o.id)
  | _ => (1, o.id)

/-- An atomic of a core whose write falls behind a host write that its read preceded: it performs, and the host's bytes of its
word are lost (R66). The words lost are gathered. -/
def State.raceOne (s : State) (core op ha n : Nat) (lost : List (Nat × Nat)) : State × List (Nat × Nat) :=
  match (s.openOp core op).bind s.farWord with
  | none => (s, lost)
  | some w =>
    if !(decide (w.1 < ha + n ∧ ha < w.1 + w.2) && s.freeBool (w.1 + 2 ^ 88 + op)) then (s, lost)
    else
      match execAtomicPerform core op s with
      | .next t => if (t.openOp core op).map nextAtomic = (s.openOp core op).map nextAtomic then (t, lost) else (t, w :: lost)
      | _ => (s, lost)

/-- The bytes of a host write that are not lost, run by run. -/
def State.hostBytes (s : State) (ha : Nat) (bs : List Byte) (lost : List (Nat × Nat)) : State :=
  (runsOf ((bs.mapIdx fun i b => (i, b)).filter fun e => !lost.any fun w => decide (w.1 ≤ ha + e.1 ∧ ha + e.1 < w.1 + w.2))).foldl
    (fun t r => t.putHost (ha + r.1) r.2) s

/-- FAR_TIER_HOST_WRITE (R64, R66): each device atomic of a word it touches may have read the word before and write it after. -/
def execFarTierHostWrite (ha : Nat) (bytes : List Byte) (s : State) : Host.Outcome State Fault Refusal :=
  let ops := s.cores.flatMap fun c => c.2.ops.map fun o => (c.1, o.id)
  let (t, lost) := ops.foldl (fun r e => r.1.raceOne e.1 e.2 ha bytes.length r.2) (s, [])
  .next (t.hostBytes ha bytes lost)

end Sys2Proof.Machine
end

