-- ==== Sys2Proof/Machine/Sha.lean ====
section
/-! DEFINITION. SHA-256 (FIPS 180-4), which the boot measurements, context images and collective sets use (R386, R401,
R404). -/

namespace Sys2Proof

namespace Sha

def rotr (x : Word32) (n : Nat) : Word32 := x.rotateRight n

/-- The primes up to 311, of which there are 64. -/
def primes : List Nat := (List.range 312).filter fun n => 2 ≤ n && (List.range n).all fun d => d < 2 || n % d != 0

/-- The greatest number whose k-th power is at most v, found bit by bit from bit n - 1 down. -/
def rootGo (k v n r : Nat) : Nat :=
  match n with
  | 0 => r
  | m + 1 => rootGo k v m (if (r + 2 ^ m) ^ k ≤ v then r + 2 ^ m else r)

/-- The first 32 bits of the fractional part of the k-th root of p. -/
def rootFrac (k p : Nat) : Word32 := BitVec.ofNat 32 (rootGo k (p * 2 ^ (32 * k)) 38 0)

/-- The constants of the rounds, from cube roots, and the state before the first block, from square roots. -/
def ks : List Word32 := primes.map (rootFrac 3)

def h0 : List Word32 := (primes.take 8).map (rootFrac 2)

/-- Big-endian number of bytes. -/
def be (bs : List Byte) : Nat := bs.foldl (fun n b => n * 256 + b.toNat) 0

/-- The n bytes of a number, the highest first. -/
def beBytes (n v : Nat) : List Byte := (leBytes n v).reverse

/-- The next schedule word from the last sixteen, newest first. -/
def nextW (w : List Word32) : Word32 :=
  let a := w.getD 14 0
  let b := w.getD 1 0
  let s0 := rotr a 7 ^^^ rotr a 18 ^^^ (a >>> 3)
  let s1 := rotr b 17 ^^^ rotr b 19 ^^^ (b >>> 10)
  w.getD 15 0 + s0 + w.getD 6 0 + s1

/-- n further schedule words. -/
def schedule (n : Nat) (w : List Word32) : List Word32 :=
  match n with
  | 0 => w
  | k + 1 => schedule k (nextW w :: w)

/-- One round. -/
def round (v : List Word32) (kw : Word32 × Word32) : List Word32 :=
  match v with
  | [a, b, c, d, e, f, g, h] =>
    let s1 := rotr e 6 ^^^ rotr e 11 ^^^ rotr e 25
    let ch := (e &&& f) ^^^ (~~~e &&& g)
    let t1 := h + s1 + ch + kw.1 + kw.2
    let s0 := rotr a 2 ^^^ rotr a 13 ^^^ rotr a 22
    let mj := (a &&& b) ^^^ (a &&& c) ^^^ (b &&& c)
    [t1 + (s0 + mj), a, b, c, d + t1, e, f, g]
  | _ => v

/-- One block of 64 bytes. -/
def block (h : List Word32) (bs : List Byte) : List Word32 :=
  let w0 := (List.range 16).map fun i => (BitVec.ofNat 32 (be (slice bs (4 * i) 4)) : Word32)
  let w := (schedule 48 w0.reverse).reverse
  let v := (ks.zip w).foldl round h
  (h.zip v).map fun e => e.1 + e.2

/-- The blocks of a padded message; fuel is their number. -/
def blocks (fuel : Nat) (h : List Word32) (bs : List Byte) : List Word32 :=
  match fuel with
  | 0 => h
  | k + 1 => blocks k (block h (bs.take 64)) (bs.drop 64)

end Sha

/-- The digest of a message as 32 bytes. -/
def sha256 (m : List Byte) : List Byte :=
  let pad := (119 - m.length % 64) % 64
  let p := m ++ [0x80] ++ List.replicate pad 0 ++ Sha.beBytes 8 (8 * m.length)
  ((Sha.blocks (p.length / 64) Sha.h0 p).map fun w => Sha.beBytes 4 w.toNat).flatten

end Sys2Proof
end

