-- ==== Sys2Proof/Machine/Sys.lean ====
section
/-! DEFINITION. Major 0x2E: system registers, trap, eret, yield, idle, bkpt (R317, R353 to R356, R360, R363). -/

namespace Sys2Proof.Machine

open Sys2Proof

def sysForm (h : Hdr) (sub : Nat) (xs : List XReg) : Form := scalar h false 0x2E sub xs []

/-! ## Reading (R19, R317, R354) -/

/-- CORE_ID (R19 Table 3). -/
def coreIdWord (core : Nat) : Word64 := w64 (coreIdx core + (if isService core then 8 else 0))

/-- MSTAT (R317). -/
def State.mstat (s : State) : Word64 :=
  let c := s.cur
  w64 ((s.getCluster (coreCluster s.core)).skips.toNat * 2 ^ 32 + (if c.chain.isSome then 32 else 0) +
    (if c.leased then 16 else 0) + c.level % 4 * 4 + (if c.mBadShape then 2 else 0) + (if c.mCancelled then 1 else 0))

/-- TRAPCAUSE (R354). -/
def Seqr.causeWord (q : Seqr) : Word64 :=
  w64 (q.trapCause.toNat + (if q.trapAsync then 2 ^ 8 else 0) + (if q.wdone then 2 ^ 9 else 0) + (if q.sdone then 2 ^ 10 else 0))

/-- EFQ_HEAD (R354 Table 6). -/
def Core.efqHead (c : Core) : Word64 := w64 (c.efq.length % 16 + (if c.spilled then 16 else 0))

/-- The bank that BSTAT n names: S current, S alternate, V current, V alternate. -/
def Core.bankNo (c : Core) (n : Nat) : Nat := match n with | 0 => bn c.curS | 1 => bn (!c.curS) | 2 => 2 + bn c.curV | _ => 2 + bn (!c.curV)

/-- What a register number names. -/
inductive SysReg where
  | reserved
  | user
  | supervisor
  | tile (t : Nat)
  deriving DecidableEq, Repr

def sysReg (n : Nat) : SysReg :=
  if n ≤ 0x10 then .user
  else if n ≤ 0x1C then .supervisor
  else if 0x20 ≤ n ∧ n ≤ 0x3F then .tile (n - 0x20)
  else if 0x40 ≤ n ∧ n ≤ 0x43 then .user
  else .reserved

/-- Why a register cannot be named (R354). -/
def State.sysStop (s : State) (n : Nat) : Option (Cause × Word64) :=
  match sysReg n with
  | .reserved => some (.illegal, 0)
  | .supervisor => if s.sq.sup then none else some (.illegal, 0)
  | .tile t => if s.ntile ≤ t then some (.tilecap, w64 t) else none
  | .user => none

/-- The value of a register (R354 Table 4). -/
def State.sysGet (s : State) (n : Nat) : Word64 :=
  let c := s.cur
  let q := s.sq
  match n with
  | 0x00 => coreIdWord s.core
  | 0x01 => w64 (coreCluId s.core)
  | 0x02 => w64 (s.die % 4)
  | 0x03 => s.modId.setWidth 64
  | 0x04 => w64 (c.instId % 2 ^ 32)
  | 0x05 => w64 ((s.getDie s.die).tilecap % 64)
  | 0x06 => 0xF_0000
  | 0x07 => s.time
  | 0x08 => q.status
  | 0x09 => s.mstat
  | 0x0A => match s.inst with | some i => ((i.curTask.getD 0xFFFF_FFFF).setWidth 64) | none => 0xFFFF_FFFF
  | 0x0B => w64 (s.cmdGroup % 2 ^ 16)
  | 0x0C => c.efqHead
  | 0x0D | 0x0E | 0x0F | 0x10 => match c.efq with | e :: _ => e.word (n - 0x0D) | [] => 0
  | 0x11 => q.causeWord
  | 0x12 => q.trapVal
  | 0x13 => q.trapPc.setWidth 64
  | 0x14 | 0x15 | 0x16 | 0x17 => q.trapMask.extractLsb' (64 * (n - 0x14)) 64
  | 0x18 => q.tvec.setWidth 64
  | 0x19 => q.timecmp
  | 0x1A => q.sscr0
  | 0x1B => q.sscr1
  | 0x40 | 0x41 | 0x42 | 0x43 => ((Tbl.getD c.banks (c.bankNo (n - 0x40)) Bank.start).status).setWidth 64
  | _ => if 0x20 ≤ n ∧ n ≤ 0x3F then (Tbl.getD c.tstat (n - 0x20) 0).setWidth 64 else 0

def execSysrd (h : Hdr) (xd : XReg) (reg : BitVec 8) (s : State) : Host.Outcome State Fault Refusal :=
  s.issue (sysForm h 2 [xd]) fun t =>
    match t.sysStop reg.toNat with
    | some (c, v) => .trap c v
    | none => .done (t.setX xd (t.sysGet reg.toNat))

/-! ## Writing (R196, R354, R363) -/

/-- STATUS written: sticky bits W1C, TIMEN from a supervisor only (R354 Table 5). -/
def Seqr.putStatus (q : Seqr) (v : Word64) : Seqr :=
  { q with sticky := q.sticky &&& ~~~ v.setWidth 5, timen := if q.sup then v.getLsbD 8 else q.timen }

/-- Bits [64i+63:64i] of a mask replaced. -/
def putMask (m : Pred) (i : Nat) (v : Word64) : Pred :=
  (m &&& ~~~ ((0xFFFF_FFFF_FFFF_FFFF : Pred) <<< (64 * i))) ||| (v.setWidth 256 <<< (64 * i))

/-- IABORT: the launch is aborted FAILED, with a record that names the value (R363). -/
def State.iabort (s : State) (v : Word64) : State :=
  match s.inst with
  | none => s
  | some i =>
    let q := s.sq
    let e : Efr := ⟨v.toNat % 256, 0, 0, s.seq, 0, false, 0, i.inst, q.trapPc, q.trapVal, 0, i.group⟩
    (s.launchFault i.launch e (some s.die)).abortLaunch i.launch 3

/-- A register written under its access kinds (R354); a register of read-only fields ignores the write. -/
def State.sysPut (s : State) (n : Nat) (v : Word64) : State :=
  let c := s.cur
  let q := s.sq
  match n with
  | 0x08 => s.setSq (q.putStatus v)
  | 0x09 => s.setCur { c with mBadShape := c.mBadShape && !v.getLsbD 1, mCancelled := c.mCancelled && !v.getLsbD 0 }
  | 0x0C => if v.getLsbD 16 then s.setCur { c with efq := c.efq.drop 1 } else s
  | 0x12 => s.setSq { q with trapVal := v }
  | 0x13 => s.setSq { q with trapPc := v.setWidth 54 }
  | 0x14 | 0x15 | 0x16 | 0x17 => s.setSq { q with trapMask := putMask q.trapMask (n - 0x14) v }
  | 0x18 => s.setSq { q with tvec := v.setWidth 54 }
  | 0x19 => s.setSq { q with timecmp := v }
  | 0x1A => s.setSq { q with sscr0 := v }
  | 0x1B => s.setSq { q with sscr1 := v }
  | 0x1C => s.iabort v
  | 0x40 | 0x41 | 0x42 | 0x43 =>
    let k := c.bankNo (n - 0x40)
    let b := Tbl.getD c.banks k Bank.start
    s.setCur { c with banks := Tbl.set c.banks k { b with status := b.status &&& ~~~ v.setWidth 4 } }
  | _ =>
    if 0x20 ≤ n ∧ n ≤ 0x3F then
      s.setCur { c with tstat := Tbl.set c.tstat (n - 0x20) (Tbl.getD c.tstat (n - 0x20) 0 &&& ~~~ v.setWidth 4) }
    else s

def execSyswr (h : Hdr) (reg : BitVec 8) (xs : XReg) (s : State) : Host.Outcome State Fault Refusal :=
  s.issue (sysForm h 3 [xs]) fun t =>
    match t.sysStop reg.toNat with
    | some (c, v) => .trap c v
    | none => .done (t.sysPut reg.toNat (t.getX xs))

/-! ## Traps, yield, idle (R353, R355, R356, R360) -/

def execTrap (h : Hdr) (n : BitVec 8) (s : State) : Host.Outcome State Fault Refusal :=
  s.issue (sysForm h 0 []) fun t => .after t .soft (n.setWidth 64)

def execEret (h : Hdr) (s : State) : Host.Outcome State Fault Refusal :=
  s.issue (sysForm h 1 []) fun t =>
    if !t.sq.sup || !t.sq.intrap then .trap .illegal 0 else .done t.leaveTrap

def execYield (h : Hdr) (s : State) : Host.Outcome State Fault Refusal :=
  s.issue { sysForm h 4 [] with stops := true } fun t => .done t

/-- What idle returns now, if it does (R356). -/
def State.idleNow (s : State) (till : Word64) : Option Nat :=
  if idlePassed s.time till then some 0
  else if s.causeWaits s.core s.seq || s.preempting then some 2
  else none

def execIdle (h : Hdr) (xa : XReg) (s : State) : Host.Outcome State Fault Refusal :=
  s.issue (sysForm h 5 [xa]) fun t =>
    match s.sq.sleep with
    | .idleDone v => .done (t.setX xa (w64 v))
    | .idle till => match t.idleNow till with | some v => .done (t.setX xa (w64 v)) | none => .wait
    | _ => match t.idleNow (t.getX xa) with | some v => .done (t.setX xa (w64 v)) | none => .sleep (.idle (t.getX xa))

/-- Module time passes the value held at issue: idle returns 0 (R356). -/
def execIdleTimeout (core : Nat) (q : SeqId) (s : State) : Host.Outcome State Fault Refusal :=
  let c := s.getCore core
  let r := c.seqr q
  match r.sleep with
  | .idle till =>
    if !r.ended && idlePassed s.time till then
      .next (s.setCore core (c.setSeqr q { r with sleep := .idleDone 0 }))
    else .next s
  | _ => .next s

def execBkpt (h : Hdr) (n : BitVec 8) (s : State) : Host.Outcome State Fault Refusal :=
  s.issue (sysForm h 6 []) fun _ => .trap .bkpt (n.setWidth 64)

/-! ## Asynchronous causes as events (R269, R358, R362) -/

/-- UNCORR is taken at the loading sequencer's next boundary. -/
def execUncorrTrap (core : Nat) (q : SeqId) (s : State) : Host.Outcome State Fault Refusal := .next (s.takeAt core q .uncorr)

/-- ENGINE is taken by the control sequencer for a queued record. -/
def execEngineTrap (core : Nat) (s : State) : Host.Outcome State Fault Refusal := .next (s.takeAt core .control .engine)

/-- TIME has reached a sequencer's TIMECMP with TIMEN set. -/
def execTimer (core : Nat) (q : SeqId) (s : State) : Host.Outcome State Fault Refusal := .next (s.takeAt core q .timer)

end Sys2Proof.Machine
end

