-- ==== Sys2Proof/Machine/Context.lean ====
section
/-! DEFINITION. Context images (R403, R404): what each section holds, byte by byte, and the core that an image restores. R404
gives the contents and lengths of the sections; the layout inside them, in the order in which Table 12 names the contents and
little-endian, is the model's own (DESIGN CHOICE, log entry 25). -/

namespace Sys2Proof.Machine

open Sys2Proof

/-! ## Fields -/

/-- One field of a section: its bytes, and how it is read from and put into what is saved. -/
structure Field (α : Type) where
  size : Nat
  get : α → Nat
  put : α → Nat → α

def encodeFields {α : Type} (fs : List (Field α)) (a : α) : List Byte := (fs.map fun f => leBytes f.size (f.get a)).flatten

def decodeFields {α : Type} (fs : List (Field α)) (a : α) (bs : List Byte) : α :=
  match fs with
  | [] => a
  | f :: rest => decodeFields rest (f.put a (leNat (bs.take f.size))) (bs.drop f.size)

/-- The fields of a part of what is saved. -/
def Field.within {α β : Type} (f : Field α) (get : β → α) (put : β → α → β) : Field β :=
  ⟨f.size, fun b => f.get (get b), fun b v => put b (f.put (get b) v)⟩

/-- A count or word that is saved and not restored: it follows from the rest. -/
def Field.shown {α : Type} (size : Nat) (get : α → Nat) : Field α := ⟨size, get, fun a _ => a⟩

/-- n fields, by number. -/
def fieldsOf {α : Type} (n : Nat) (f : Nat → Field α) : List (Field α) := (List.range n).map f

/-- An entry of a table changes; one that reads so already stays as it is. -/
def Tbl.update {α : Type} [DecidableEq α] (t : Tbl α) (k : Nat) (d v : α) : Tbl α := if Tbl.getD t k d = v then t else Tbl.set t k v

/-- A list of n entries: those there are, then d. -/
def resize {α : Type} (l : List α) (n : Nat) (d : α) : List α := (List.range n).map fun i => l.getD i d

/-- Bits of a flag byte. -/
def flagBits (l : List Bool) : Nat := (l.mapIdx fun i b => if b then 2 ^ i else 0).foldl (· + ·) 0

def bit (v i : Nat) : Bool := natBits v i 1 = 1

/-! ## What is saved (R41, R404) -/

/-- A core as an image holds it, with the commands and clocks of its belay run. -/
structure Saved where
  core : Core
  run : Nat × Nat
  deriving DecidableEq

/-- A sequencer's registers: PC, x, a, p (TYPE 1 to 4). -/
def seqRegFields : List (Field Seqr) :=
  [⟨8, fun q => q.pc.toNat, fun q v => { q with pc := BitVec.ofNat 54 v }⟩] ++
  fieldsOf 16 (fun i => ⟨8, fun q => (q.x.toList.getD i 0).toNat, fun q v => q.setX (BitVec.ofNat 4 i) (w64 v)⟩) ++
  fieldsOf 8 (fun i => ⟨8, fun q => (q.a.toList.getD i 0).toNat, fun q v => { q with a := q.a.set (BitVec.ofNat 3 i).toNat (w64 v) }⟩) ++
  fieldsOf 16 (fun i => ⟨32, fun q => (q.p.toList.getD i 0).toNat, fun q v => q.setP (BitVec.ofNat 4 i) (BitVec.ofNat 256 v)⟩)

/-- The rest of a sequencer: return stack, STATUS, trap state with TRAPMASK, TVEC, SSCR0, SSCR1, TIMECMP, and whether it has
ended. -/
def seqTrapFields : List (Field Seqr) :=
  [⟨8, fun q => q.rstack.length, fun q v => { q with rstack := resize q.rstack (min v 16) 0 }⟩] ++
  fieldsOf 16 (fun i => ⟨8, fun q => (q.rstack.getD i 0).toNat, fun q v => { q with rstack := q.rstack.set i (BitVec.ofNat 54 v) }⟩) ++
  [⟨8, fun q => q.status.toNat, fun q v => { q with
      sticky := BitVec.ofNat 5 v, timen := bit v 8, sup := bit v 9, intrap := bit v 10, psup := bit v 11 }⟩,
    ⟨8, fun q => q.causeWord.toNat, fun q v => { q with
      trapCause := BitVec.ofNat 8 v, trapAsync := bit v 8, wdone := bit v 9, sdone := bit v 10 }⟩,
    ⟨8, fun q => q.trapVal.toNat, fun q v => { q with trapVal := w64 v }⟩,
    ⟨8, fun q => q.trapPc.toNat, fun q v => { q with trapPc := BitVec.ofNat 54 v }⟩,
    ⟨32, fun q => q.trapMask.toNat, fun q v => { q with trapMask := BitVec.ofNat 256 v }⟩,
    ⟨8, fun q => q.tvec.toNat, fun q v => { q with tvec := BitVec.ofNat 54 v }⟩,
    ⟨8, fun q => q.sscr0.toNat, fun q v => { q with sscr0 := w64 v }⟩,
    ⟨8, fun q => q.sscr1.toNat, fun q v => { q with sscr1 := w64 v }⟩,
    ⟨8, fun q => q.timecmp.toNat, fun q v => { q with timecmp := w64 v }⟩,
    ⟨1, fun q => bn q.ended, fun q v => { q with ended := bit v 0 }⟩]

/-- A sequencer of a core; its counters k0 to k7 stand for the operations that are still outstanding. -/
def coreSeqFields (q : SeqId) : List (Field Core) :=
  let own (f : Field Seqr) : Field Core := f.within (fun c => c.seqr q) fun c r => c.setSeqr q r
  seqRegFields.map own ++ fieldsOf 8 (fun k => .shown 8 fun c => c.ctr q k) ++ seqTrapFields.map own

/-- An edge of the token ring with its queue (TYPE 5). -/
def edgeFields : List (Field Edge) :=
  [⟨4, fun e => e.fwd, fun e v => { e with fwd := v }⟩, ⟨4, fun e => e.bwd, fun e v => { e with bwd := v }⟩,
    ⟨4, fun e => e.queue.length, fun e v => { e with queue := resize e.queue (min v 8) 0 }⟩] ++
  fieldsOf 8 fun i => ⟨8, fun e => (e.queue.getD i 0).toNat, fun e v => { e with queue := e.queue.set i (w64 v) }⟩

def ringFields : List (Field Core) :=
  (edgeFields.map fun f => f.within (fun c => c.edgeC) fun c e => { c with edgeC := e }) ++
  (edgeFields.map fun f => f.within (fun c => c.edgeL) fun c e => { c with edgeL := e }) ++
  (edgeFields.map fun f => f.within (fun c => c.edgeX) fun c e => { c with edgeX := e }) ++
  edgeFields.map fun f => f.within (fun c => c.edgeS) fun c e => { c with edgeS := e }

/-- A loop level with what it still has to steal or to be told (TYPE 6). -/
def lvlFields : List (Field LvlState) :=
  [⟨4, fun l => l.base, fun l v => { l with base := v }⟩, ⟨4, fun l => l.limit, fun l v => { l with limit := v }⟩,
    ⟨4, fun l => l.next, fun l v => { l with next := v }⟩, ⟨4, fun l => l.coord, fun l v => { l with coord := v }⟩,
    ⟨4, fun l => flagBits [l.finished, l.reply.isSome], fun l v => { l with
      finished := bit v 0, reply := if bit v 1 then some (l.reply.getD (0, 0)) else none }⟩,
    ⟨4, fun l => l.asking, fun l v => { l with asking := v }⟩,
    ⟨4, fun l => (l.reply.getD (0, 0)).1, fun l v => { l with reply := l.reply.map fun r => (v, r.2) }⟩,
    ⟨4, fun l => (l.reply.getD (0, 0)).2, fun l v => { l with reply := l.reply.map fun r => (r.1, v) }⟩]

def LvlState.none : LvlState := ⟨0, 0, 0, 0, false, 0, Option.none⟩

/-- Level state, the random counter, CURTASK, and the launch's group, from which CURGRP follows (TYPE 6). -/
def instFields : List (Field Inst) :=
  ((List.range 8).map fun j => lvlFields.map fun f =>
    f.within (fun i => i.lvl.getD j LvlState.none) fun i l => { i with lvl := i.lvl.set j l }).flatten ++
  [⟨4, fun i => i.rpos.toNat, fun i v => { i with rpos := BitVec.ofNat 32 v }⟩,
    ⟨2, fun i => i.ridx.toNat, fun i v => { i with ridx := BitVec.ofNat 16 v }⟩,
    ⟨2, fun i => bn i.curTask.isSome, fun i v => { i with curTask := if bit v 0 then some (i.curTask.getD 0) else none }⟩,
    ⟨4, fun i => (i.curTask.getD 0).toNat, fun i v => { i with curTask := i.curTask.map fun _ => BitVec.ofNat 32 v }⟩,
    .shown 2 fun i => i.group]

def Field.ofInst (f : Field Inst) : Field Core :=
  ⟨f.size, fun c => match c.inst with | some i => f.get i | none => 0, fun c v => { c with inst := c.inst.map fun i => f.put i v }⟩

/-- A tile: its rows, status and list state (TYPE 7). -/
def tileFields (t : Nat) : List (Field Core) :=
  let ls (f : Field ListState) : Field Core :=
    f.within (fun c => Tbl.getD c.lists t ⟨0, 0, 0, 0⟩) fun c l => { c with lists := Tbl.update c.lists t ⟨0, 0, 0, 0⟩ l }
  fieldsOf 16 (fun r => ⟨256, fun c => (Tbl.getD c.tiles (16 * t + r) 0).toNat,
    fun c v => { c with tiles := Tbl.update c.tiles (16 * t + r) 0 (BitVec.ofNat 2048 v) }⟩) ++
  [⟨4, fun c => (Tbl.getD c.tstat t 0).toNat, fun c v => { c with tstat := Tbl.update c.tstat t 0 (BitVec.ofNat 4 v) }⟩] ++
  [⟨2, fun l => l.k, fun l v => { l with k := v }⟩, ⟨2, fun l => l.row0, fun l v => { l with row0 := v }⟩,
    ⟨4, fun l => l.nl, fun l v => { l with nl := v }⟩, ⟨4, fun l => l.nans, fun l v => { l with nans := v }⟩].map ls

/-- o0 to o3 and lr (TYPE 8). -/
def wideFields : List (Field Core) :=
  fieldsOf 4 (fun i => ⟨256, fun c => (Tbl.getD c.o i 0).toNat, fun c v => { c with o := Tbl.update c.o i 0 (BitVec.ofNat 2048 v) }⟩) ++
  [⟨256, fun c => c.lr.toNat, fun c v => { c with lr := BitVec.ofNat 2048 v }⟩]

/-- Slot counts of a ring as a set of 128 bits: bit c mod 128 for count c. -/
def slotBits (l : List (BitVec 32)) : Nat := (List.range 128).foldl (fun m i => if l.any (fun c => c.toNat % 128 = i) then m + 2 ^ i else m) 0

/-- The counts from FL on whose bits are set, at most 128; a set that is as it was stays so. -/
def slotCounts (fl : BitVec 32) (old : List (BitVec 32)) (v : Nat) : List (BitVec 32) :=
  if slotBits old = v then old
  else ((List.range 128).map fun i => fl + BitVec.ofNat 32 i).filter fun c => bit v (c.toNat % 128)

def slotFields : List (Field Ring) :=
  [⟨4, fun r => r.base, fun r v => { r with base := v }⟩, ⟨4, fun r => r.sz, fun r v => { r with sz := v }⟩,
    ⟨4, fun r => r.ns, fun r v => { r with ns := v }⟩, ⟨4, fun r => r.aq.toNat, fun r v => { r with aq := BitVec.ofNat 32 v }⟩,
    ⟨4, fun r => r.fl.toNat, fun r v => { r with fl := BitVec.ofNat 32 v }⟩,
    ⟨4, fun r => r.cn.toNat, fun r v => { r with cn := BitVec.ofNat 32 v }⟩,
    ⟨16, fun r => slotBits r.released, fun r v => { r with released := slotCounts r.fl r.released v }⟩,
    ⟨16, fun r => slotBits r.claims, fun r v => { r with claims := slotCounts r.fl r.claims v }⟩]

def Ring.none : Ring := ⟨0, 0, 0, 0, 0, 0, [], []⟩

/-- g0 to g15 and the rings, each with whether it is configured (TYPE 9). -/
def ringRegFields : List (Field Core) :=
  fieldsOf 16 (fun i => ⟨32, fun c => (Tbl.getD c.g i 0).toNat, fun c v => { c with g := Tbl.update c.g i 0 (BitVec.ofNat 256 v) }⟩) ++
  ((List.range 8).map fun b =>
    ⟨1, fun c => bn (Tbl.get? c.rings b).isSome, fun c v => { c with
      rings := if bit v 0 then (if (Tbl.get? c.rings b).isSome then c.rings else Tbl.set c.rings b Ring.none) else Tbl.erase c.rings b }⟩ ::
    slotFields.map fun f =>
      f.within (fun c => Tbl.getD c.rings b Ring.none) fun c r =>
        if (Tbl.get? c.rings b).isSome then { c with rings := Tbl.set c.rings b r } else c).flatten

def BankMode.code : BankMode → Nat × Nat
  | .empty => (0, 0) | .sum => (1, 0) | .list k => (2, k)

def BankMode.ofCode (m k : Nat) : BankMode := if m = 1 then .sum else if m = 2 then .list k else .empty

def Bank.isList (b : Bank) : Bool := match b.mode with | .list _ => true | _ => false

def noPair : Word64 := w64 (pairWord emptyPair)

/-- Word i of a bank: a value, or of a list a half of pair i / 2 (R321). -/
def Bank.wordAt (b : Bank) (i : Nat) : Nat :=
  if b.isList then (Tbl.getD b.pairs (i / 2) noPair).toNat / 2 ^ (32 * (i % 2)) % 2 ^ 32 else (Tbl.getD b.vals i 0).toNat

def Bank.putWord (b : Bank) (i v : Nat) : Bank :=
  if b.isList then
    let p := (Tbl.getD b.pairs (i / 2) noPair).toNat
    let pair : Word64 := w64 (if i % 2 = 0 then p / 2 ^ 32 * 2 ^ 32 + v else p % 2 ^ 32 + 2 ^ 32 * v)
    { b with pairs := Tbl.update b.pairs (i / 2) noPair pair }
  else { b with vals := Tbl.update b.vals i 0 (BitVec.ofNat 32 v) }

/-- A bank: values, side stores, mode, shape, status, NaN count (TYPE 10). -/
def bankFields : List (Field Bank) :=
  fieldsOf 32768 (fun i => ⟨4, fun b => b.wordAt i, fun b v => b.putWord i v⟩) ++
  fieldsOf 1024 (fun i => ⟨4, fun b => (Tbl.getD b.maxs i (BitVec.ofNat 32 negInf32)).toNat,
    fun b v => { b with maxs := Tbl.update b.maxs i (BitVec.ofNat 32 negInf32) (BitVec.ofNat 32 v) }⟩) ++
  fieldsOf 1024 (fun i => ⟨4, fun b => (Tbl.getD b.sums i 0).toNat,
    fun b v => { b with sums := Tbl.update b.sums i 0 (BitVec.ofNat 32 v) }⟩) ++
  [⟨2, fun b => b.mode.code.1 + 256 * b.mode.code.2, fun b v => { b with mode := BankMode.ofCode (v % 256) (v / 256) }⟩,
    ⟨4, fun b => b.rows, fun b v => { b with rows := v }⟩, ⟨4, fun b => b.cols, fun b v => { b with cols := v }⟩,
    ⟨2, fun b => b.status.toNat, fun b v => { b with status := BitVec.ofNat 4 v }⟩,
    ⟨4, fun b => b.nans, fun b v => { b with nans := v }⟩]

/-- The four banks: S current, S alternate, V current, V alternate, as BSTAT counts them. -/
def allBankFields : List (Field Core) :=
  ((List.range 4).map fun n => bankFields.map fun f =>
    f.within (fun c => c.bank (c.bankNo n)) fun c b =>
      if c.bank (c.bankNo n) = b then c else { c with banks := Tbl.set c.banks (c.bankNo n) b }).flatten

/-- A row of the bound shape record, in 64 bytes. -/
def shapeRowFields (i : Nat) : List (Field Core) :=
  let row (c : Core) : Word32 × Word32 × Word64 × Nat × Nat := ((c.shape.map (·.rows)).getD []).getD i (0, 0, 0, 0, 0)
  let putRow (c : Core) (r : Word32 × Word32 × Word64 × Nat × Nat) : Core :=
    { c with shape := c.shape.map fun s => { s with rows := s.rows.set i r } }
  [⟨4, fun c => (row c).1.toNat, fun c v => putRow c (BitVec.ofNat 32 v, (row c).2)⟩,
    ⟨4, fun c => (row c).2.1.toNat, fun c v => putRow c ((row c).1, BitVec.ofNat 32 v, (row c).2.2)⟩,
    ⟨8, fun c => (row c).2.2.1.toNat, fun c v => putRow c ((row c).1, (row c).2.1, w64 v, (row c).2.2.2)⟩,
    ⟨4, fun c => (row c).2.2.2.1, fun c v => putRow c ((row c).1, (row c).2.1, (row c).2.2.1, v, (row c).2.2.2.2)⟩,
    ⟨4, fun c => (row c).2.2.2.2, fun c v => putRow c ((row c).1, (row c).2.1, (row c).2.2.1, (row c).2.2.2.1, v)⟩,
    .shown 40 fun _ => 0]

/-- A matrix command: it travels in the image (R41, R402). -/
def OpKind.isMatrix : OpKind → Bool
  | .mlease | .mloadb .. | .mmul .. | .mattn .. | .mdrainTile .. | .mdrainMem .. => true
  | _ => false

/-- Accepted matrix commands that have not completed. -/
def Core.matrixOps (c : Core) : List Op := c.ops.filter fun o => !o.done && o.kind.isMatrix

/-- Belay state, MSTAT, the pending chain, the shape binding, in 64 bytes and 64 of each row (TYPE 11). -/
def belayFields (s : Saved) : List (Field Saved) :=
  let own (f : Field Core) : Field Saved := f.within (fun a => a.core) fun a c => { a with core := c }
  ([⟨1, fun c => flagBits [c.leased, c.mBadShape, c.mCancelled, c.chain.isSome, c.shape.isSome], fun c v => { c with
      leased := bit v 0, mBadShape := bit v 1, mCancelled := bit v 2, chain := if bit v 3 then some (c.chain.getD 0) else none,
      shape := if bit v 4 then some (c.shape.getD ⟨0, []⟩) else none }⟩,
    ⟨1, fun c => c.level, fun c v => { c with level := v % 4 }⟩,
    ⟨2, fun c => c.chain.getD 0, fun c v => { c with chain := c.chain.map fun _ => v }⟩,
    ⟨4, fun c => (c.shape.map (·.ntok)).getD 0, fun c v => { c with shape := c.shape.map fun r => { r with ntok := v } }⟩,
    ⟨4, fun c => ((c.shape.map (·.rows)).getD []).length, fun c v => { c with
      shape := c.shape.map fun r => { r with rows := resize r.rows (min v 1024) (0, 0, 0, 0, 0) } }⟩,
    .shown 4 fun c => c.matrixOps.length].map own) ++
  [⟨4, fun a => a.run.1, fun a v => { a with run := (v, a.run.2) }⟩, ⟨4, fun a => a.run.2, fun a v => { a with run := (a.run.1, v) }⟩,
    .shown 40 fun _ => 0] ++
  ((List.range ((s.core.shape.map (·.rows)).getD []).length).map fun i => (shapeRowFields i).map own).flatten

/-- The bivouac (TYPE 14). -/
def bivFields : List (Field Bivouac) :=
  [⟨4, fun b => b.base, fun b v => { b with base := v }⟩, ⟨4, fun b => b.len, fun b v => { b with len := v }⟩,
    ⟨4, fun b => flagBits [b.configured, b.cur, b.active, b.copying], fun b v => { b with
      configured := bit v 0, cur := bit v 1, active := bit v 2, copying := bit v 3 }⟩,
    ⟨4, fun b => b.sigB, fun b v => { b with sigB := v }⟩, ⟨4, fun b => b.sigA, fun b v => { b with sigA := v }⟩]

def SeqId.ofNum (n : Nat) : SeqId := match n % 4 with | 0 => .control | 1 => .load | 2 => .exec | _ => .store

/-- A record as its 32 bytes give it (R361 Table 8). -/
def efrOf (bs : List Byte) : Efr :=
  ⟨fld bs 0 1, fld bs 1 1, fld bs 2 1 % 64, SeqId.ofNum (fld bs 2 1 / 64), fld bs 3 1 % 16, bit (fld bs 3 1) 4, fld bs 3 1 / 32,
    fld bs 4 4, BitVec.ofNat 54 (fld bs 8 8), w64 (fld bs 16 8), fld bs 24 4, fld bs 28 2⟩

def Efr.none : Efr := efrOf []

/-- The engine fault queue with its flags (TYPE 15). -/
def efqFields : List (Field Core) :=
  [⟨4, fun c => c.efq.length, fun c v => { c with efq := resize c.efq (min v 8) Efr.none }⟩,
    ⟨4, fun c => flagBits [c.spilled, c.engPend], fun c v => { c with spilled := bit v 0, engPend := bit v 1 }⟩, .shown 8 fun _ => 0] ++
  fieldsOf 8 fun i => ⟨32, fun c => leNat (c.efq.getD i Efr.none).bytes,
    fun c v => { c with efq := c.efq.set i (efrOf (leBytes 32 v)) }⟩

/-! ## Sections -/

/-- The sections whose contents are fields, each with its type and its length. -/
def fieldSections (ntile : Nat) (s : Saved) : List (Nat × Nat × List (Field Saved)) :=
  let own (fs : List (Field Core)) : List (Field Saved) := fs.map fun f => f.within (fun a => a.core) fun a c => { a with core := c }
  let rows := ((s.core.shape.map (·.rows)).getD []).length
  [(1, 1024, own (coreSeqFields .control)), (2, 1024, own (coreSeqFields .load)), (3, 1024, own (coreSeqFields .exec)),
    (4, 1024, own (coreSeqFields .store)), (5, 320, own ringFields), (6, 320, own (instFields.map Field.ofInst)),
    (7, ntile * 4112, own ((List.range ntile).map tileFields).flatten), (8, 1280, own wideFields), (9, 1024, own ringRegFields),
    (10, 557120, own allBankFields), (11, 64 + 64 * rows + 128 * s.core.matrixOps.length, belayFields s),
    (14, 32, own (bivFields.map fun f => f.within (fun c => c.biv) fun c b => { c with biv := b })), (15, 272, own efqFields)]

/-- The pinned lines of a core, by their offset: TYPE 12 (R404 Table 12). -/
def pinSection (c : Core) : List Byte :=
  leBytes 4 c.pins.length ++ (c.pins.map fun e =>
    leBytes 4 (128 * e.1) ++ leBytes 4 e.2.full.toNat ++ (List.range 128).map fun i => byteAt e.2.data i).flatten

def pinsOf (bs : List Byte) : Tbl PinLine :=
  (List.range (fld bs 0 4)).foldl (fun t i =>
    let e := slice bs (4 + 136 * i) 136
    Tbl.set t (fld e 0 4 / 128) ⟨ofBytes 1024 (e.drop 8), BitVec.ofNat 8 (fld e 4 4)⟩) []

/-- The reel of a core, oldest entry first as the core holds it: TYPE 13; of an entry's 20 bytes the tag comes first, then its
live values (R259, R404). How many are live the bytes do not say. -/
def reelSection (c : Core) : List Byte :=
  leBytes 4 c.reel.length ++ (c.reel.map fun e =>
    leBytes 4 e.tag.toNat ++ ((List.range 4).map fun i => leBytes 4 (e.vals.getD i 0).toNat).flatten).flatten

def reelOf (old : List ReelEntry) (bs : List Byte) : List ReelEntry :=
  (List.range (fld bs 0 4)).map fun i =>
    let live := match old[i]? with | some e => e.vals.length | none => 4
    ⟨BitVec.ofNat 32 (fld bs (4 + 20 * i) 4), (List.range live).map fun j => BitVec.ofNat 32 (fld bs (8 + 20 * i + 4 * j) 4)⟩

/-- A section: its header and its contents. -/
def section_ (type : Nat) (body : List Byte) : List Byte :=
  leBytes 2 type ++ leBytes 2 1 ++ leBytes 4 body.length ++ List.replicate 8 0 ++ body

/-- Bytes that the manual gives no value for: those of a section that no field covers. -/
def State.freeBytes (s : State) (salt n : Nat) : List Byte := (List.range n).map fun i => s.freeByte (salt + i)

/-- The sections of an image in ascending TYPE, each with its contents. -/
def State.imageSections (s : State) (salt ntile : Nat) (a : Saved) : List (Nat × List Byte) :=
  let fs := (fieldSections ntile a).map fun x =>
    let bs := encodeFields x.2.2 a
    (x.1, bs ++ s.freeBytes (salt + 2 ^ 24 * x.1) (x.2.1 - bs.length))
  fs.take 11 ++ [(12, pinSection a.core), (13, reelSection a.core)] ++ fs.drop 11

/-- Where the contents of a section lie in what follows the header. -/
def sectionStart (ss : List (Nat × List Byte)) (type : Nat) : Nat :=
  ((ss.takeWhile fun x => x.1 != type).map fun x => 16 + x.2.length).foldl (· + ·) 16

/-- Bytes of an image whose data in the core cannot be corrected (R69, R412): offset and count. -/
def badSaved (ntile : Nat) (c : Core) (ss : List (Nat × List Byte)) : List (Cell × Nat × Nat) :=
  c.bad.filterMap fun b =>
    match b with
    | .row r => if r < 16 * ntile then some (b, sectionStart ss 7 + r / 16 * 4112 + r % 16 * 256, 256) else none
    | .pin line word => (c.pins.findIdx? fun e => e.1 = line).map fun i => (b, sectionStart ss 12 + 4 + 136 * i + 8 + 8 * word, 8)
    | _ => none

/-- What follows the header of a started instance's image at a frame. Data that cannot be corrected leaves the core not at all:
the bytes stand there as they stood before (R69; log entry 25). far: the frame is another module's. -/
def State.imageBody (s : State) (l : Launch) (core pa : Nat) (far : Bool) (run : Nat × Nat) : List Byte :=
  let a : Saved := ⟨s.getCore core, run⟩
  let salt := 2 ^ 64 + 2 ^ 32 * core
  let ss := s.imageSections salt l.ntile a
  (badSaved l.ntile a.core ss).foldl (fun bs b =>
    let old := if far then s.freeBytes (salt + 2 ^ 31 + b.2.1) b.2.2 else s.physBytes (pa + 256 + b.2.1) b.2.2
    bs.take b.2.1 ++ old ++ bs.drop (b.2.1 + b.2.2)) ((ss.map fun x => section_ x.1 x.2).flatten)

/-- The errors that an image meets are counted (R69, R413). -/
def State.countSaved (s : State) (l : Launch) (core pa : Nat) : State :=
  (badSaved l.ntile (s.getCore core) []).foldl (fun t b =>
    match b.1.unit with | some u => t.countUe (32 * coreDie core + u) pa | none => t) s

/-- An image: header, digest over what follows it, body (R404). -/
def imageBytes (l : Launch) (inst : Nat) (started : Bool) (body : List Byte) : List Byte :=
  leBytes 4 0x4F56_4358 ++ leBytes 4 inst ++ leBytes 8 l.packet ++ leBytes 4 (256 + body.length) ++ leBytes 1 l.ntile ++
    [if started then 1 else 0, 0, 0] ++ leBytes 4 l.pinb ++ [0, 0, 0, 0] ++ sha256 body ++ List.replicate 192 0 ++ body

/-! ## What an image restores (R41, R405) -/

/-- The contents of the first section of a type. -/
def sectionAt (fuel : Nat) (bs : List Byte) (type : Nat) : Option (List Byte) :=
  match fuel with
  | 0 => none
  | k + 1 =>
    if bs.length < 16 then none
    else if fld bs 0 2 = type then some ((bs.drop 16).take (fld bs 4 4))
    else sectionAt k (bs.drop (16 + fld bs 4 4)) type

/-- The fields of every section as an image has them. Some say how many others there are, so that they are read twice. -/
def Saved.fromFields (a : Saved) (ntile : Nat) (body : List Byte) : Saved :=
  (fieldSections ntile a).foldl (fun b x => match sectionAt 16 body x.1 with | some bs => decodeFields x.2.2 b bs | none => b) a

/-- A core as the bytes of its image give it; what they do not hold is as it was saved: the model's own record of the accepted
commands, and of what a sequencer waits in (log entry 25). -/
def Saved.fromImage (a : Saved) (ntile : Nat) (body : List Byte) : Saved :=
  let a := (a.fromFields ntile body).fromFields ntile body
  { a with core := { a.core with
      pins := match sectionAt 16 body 12 with | some bs => pinsOf bs | none => a.core.pins,
      reel := match sectionAt 16 body 13 with | some bs => reelOf a.core.reel bs | none => a.core.reel } }

end Sys2Proof.Machine
end

