-- ==== Sys2Proof/Machine/EvLaunch.lean ====
section
/-! DEFINITION. Admission, starts and aborts of launches, the host's launch registers, pre-emption and context images (R16,
R22 to R25, R41, R54, R355, R392 to R395, R402 to R405). -/

namespace Sys2Proof.Machine

open Sys2Proof

/-! ## Context images (R403, R404) -/

/-- Bytes of one die-slot's frames, and of the die-slot records before the first. -/
def frameSize : Nat := 0x20_0000

def recordsSize (nds : Nat) : Nat := ceilDiv (16 * nds) 4096 * 4096

/-- The number of die-slots of a launch. -/
def Launch.slots (l : Launch) : Nat := l.parts.length

/-- Instances of each die-slot. -/
def Launch.perSlot (l : Launch) : Nat := widthProd l.levels 1

/-- The physical address of a die-slot's first frame. -/
def Launch.imgBase (l : Launch) (pctx part : Nat) : Nat := pctx + recordsSize l.slots + part * l.perSlot * frameSize

/-- A command that stands in its cluster's tile task table (R36). -/
def OpKind.inTable : OpKind → Bool
  | .mloadb .. | .mmul .. | .mattn .. => true
  | _ => false

/-! ## Resuming (R41, R405) -/

/-- A sequencer as it continues: what it waited in returns (R233, R356). -/
def Seqr.resumed (q : Seqr) : Seqr :=
  { q with
    stopped := false,
    sleep := match q.sleep with | .wait4 _ => .woken 7 | .idle _ => .idleDone 2 | sl => sl }

/-- A core as its image restores it: B planes are lost, the caches are the new core's, operations count on from both (R404). -/
def Core.restored (c old : Core) : Core :=
  { c with
    seqC := c.seqC.resumed, seqL := c.seqL.resumed, seqX := c.seqX.resumed, seqS := c.seqS.resumed,
    planes := Tbl.mapVals c.planes fun _ p => { p with lost := true },
    inst := c.inst.map fun i => { i with preempt := none },
    lm := old.lm, l1 := Tbl.keep old.l1 fun k _ => k < scrLineKey 0 0, icache := [],
    asked := old.asked, wbs := old.wbs, wbq := old.wbq, sent := old.sent, nextOp := max c.nextOp old.nextOp,
    bad := old.bad.filter fun b => match b with | .lm .. | .l1 .. => true | _ => false }

/-- A resumed belay enters arbitration with its run's counts, its commands the table (R41). -/
def State.belayBack (s : State) (core : Nat) (run : Nat × Nat) : State :=
  let c := s.getCore core
  let k := coreCluster core
  let cl := s.getCluster k
  let mine := c.ops.filter fun o => !o.done && o.kind.inTable
  if !c.leased && mine.isEmpty then s
  else
    s.setCluster k { cl with
      waiting := cl.waiting ++ [(core, c.level)], carried := Tbl.set cl.carried core run,
      table := cl.table ++ mine.map fun o => (core, o.id) }

/-- A current task that was RUNNING on the old core runs on this one. -/
def State.taskBack (s : State) (core : Nat) : State :=
  match (s.getCore core).inst with
  | some i =>
    match i.curTask with
    | some h =>
      match s.named h with
      | some t => match t.state with
        | .running _ => s.setTask (handleDie h) (handleSlot h) { t with state := .running core }
        | _ => s
      | none => s
    | none => s
  | none => s

/-- An instance continues as the bytes of its image give it, or starts where they say that it had not started (R41, R405). -/
def State.resumeOn (s : State) (id part core : Nat) (m : Image) : State :=
  match Tbl.get? s.launches id with
  | none => s
  | some l =>
    let coord := match l.parts[part]? with | some p => p.coord | none => 0
    let cs := ((instancesOf l.levels coord).find? fun i => i.1 = m.inst).map (·.2) |>.getD []
    match m.core, fld m.bytes 0x15 1 with
    | _, 0 => s.startCore id l part core m.inst cs
    | some c, _ =>
      let a := (⟨c, m.run⟩ : Saved).fromImage l.ntile (m.bytes.drop 256)
      ((s.setCore core (a.core.restored (s.getCore core))).belayBack core a.run).taskBack core
    | none, _ =>
      let t := s.startCore id l part core m.inst cs
      let a := (⟨t.getCore core, (0, 0)⟩ : Saved).fromImage l.ntile (m.bytes.drop 256)
      t.setCore core (a.core.restored (t.getCore core))

/-- Images of a part that the driver has resumed and that wait for cores. -/
def State.resumable (s : State) (id part : Nat) : List Image :=
  s.images.filter fun m => m.launch = id && m.part = part && m.resumed

/-- The parts of a die whose resumed images wait, as admission sees them (R405). -/
def State.resumesOn (s : State) (die : Nat) : List (Nat × Nat × Launch) :=
  (s.launches.map fun l =>
    if l.2.done.isSome then [] else
    (l.2.parts.zipIdx.filter fun p => p.1.module = s.modId.toNat && p.1.die = die && !(s.resumable l.1 p.2).isEmpty).map
      fun p => (l.1, p.2, l.2)).flatten

/-- Images in the groups that must each share a cluster: INST_IDs that differ only in bits [2:0] (R17). -/
def imageGroups (ms : List Image) : List (List Image) :=
  (ms.map fun m => m.inst / 8).eraseDups.map fun k => ms.filter fun m => m.inst / 8 = k

/-- Cores for images, if there are enough at once, each with the tiles the launch names (R17, R22). -/
def State.placeImages (s : State) (l : Launch) (die : Nat) (ms : List Image) : Option (List (Nat × Image)) :=
  let free := s.freeCores die s.reserved
  if (s.getDie die).tilecap < l.ntile then none
  else if l.flags.getLsbD 3 then
    let ks := wholeClusters free
    let gs := imageGroups ms
    if ks.length < gs.length then none
    else some (((rotate ks (s.freeBelow (2 ^ 89) ks.length)).zip gs).map fun e => e.1.zip e.2).flatten
  else
    let cs := rotate free (s.freeBelow (2 ^ 89) free.length)
    if cs.length < ms.length then none else some (cs.zip ms)

/-- A die-slot's resumed instances are admitted and continue at once (R405). -/
def State.admitImages (s : State) (die id part : Nat) (l : Launch) : State :=
  match s.placeImages l die (s.resumable id part) with
  | none => s
  | some cs =>
    let s := cs.foldl (fun t e => t.resumeOn id part e.1 e.2) s
    let s := { s with images := s.images.filter fun m => !(m.launch = id && m.part = part && m.resumed) }
    match Tbl.get? s.launches id with
    | some l => s.setLaunch id (l.updPart part fun p =>
        { p with stage := .running, cores := p.cores ++ cs.map fun e => (e.1, e.2.inst) })
    | none => s

/-! ## Admission and starts (R22 to R25) -/

/-- The head of a die's admission order as it now stands. -/
def State.setHead (s : State) (die : Nat) (h : Option (Nat × Nat)) : State :=
  let d := s.getDie die
  s.setDie die { d with head := h }

/-- ADMISSION (R22, R23, R25): a launch that reaches the head of a die's order past its deadline is discarded; the head is
admitted once every core it needs is free, and starts at once unless its start timestamp is still to come: no second check
of its deadline is then made (DESIGN CHOICE, log entry 67). -/
def execAdmission (die : Nat) (s : State) : Host.Outcome State Fault Refusal :=
  let s := s.arriveAll die
  match headOf ((s.pendingOn die ++ s.resumesOn die).mergeSort fun a b => a.1 ≤ b.1) with
  | none => .next ((s.setHead die none).hlaunchLeave die)
  | some (id, pi, l) =>
    let reached := decide ((s.getDie die).head ≠ some (id, pi))
    let s := s.setHead die (some (id, pi))
    if !(s.resumable id pi).isEmpty then .next (s.admitImages die id pi l)
    else if reached && s.pastDeadline l then .next ((s.expirePart id).hlaunchLeave die)
    else
      match l.parts[pi]? with
      | none => .next s
      | some p =>
        match s.placePart l p with
        | none => .next s
        | some cs =>
          let t := s.setLaunch id (l.updPart pi fun p => { p with stage := .held, cores := cs })
          let t := if l.start = 0 ∨ l.start.toNat ≤ s.time.toNat then t.startPart id pi else t
          .next (t.hlaunchLeave die)

/-- START_HOLD_END (R24, R25): module time has reached the start timestamp of a held part. -/
def execStartHoldEnd (die launch : Nat) (s : State) : Host.Outcome State Fault Refusal :=
  match Tbl.get? s.launches launch with
  | none => .next s
  | some l =>
    match l.parts.findIdx? fun p => p.module = s.modId.toNat && p.die = die && decide (p.stage = Stage.held) with
    | none => .next s
    | some pi =>
      if l.done.isSome || decide (s.time.toNat < l.start.toNat) then .next s
      else if s.pastDeadline l then .next (s.expirePart launch)
      else .next (s.startPart launch pi)

/-- Module time passes, at most ns: not past the start of a part that is held, which starts in that clock (R24). -/
def State.passTime (s : State) (ns : Nat) : State :=
  let held (l : Launch) : Bool := l.done.isNone && l.parts.any fun p => p.module = s.modId.toNat && decide (p.stage = Stage.held)
  let till := s.launches.foldl (fun t l => if held l.2 then min t (max s.time.toNat l.2.start.toNat) else t) (s.time.toNat + ns)
  { s with time := BitVec.ofNat 64 till }

/-- LAUNCH_ABORT (R25): an abort from another die-slot reaches this one, with the status the launch will report. -/
def execLaunchAbort (die launch code : Nat) (s : State) : Host.Outcome State Fault Refusal :=
  match Tbl.get? s.launches launch with
  | none => .next s
  | some l =>
    if (l.parts.any fun p => p.module = s.modId.toNat && p.die = die) && decide (code = 2 ∨ code = 3 ∨ code = 4) then
      .next (s.abortLaunch launch code)
    else .next s

/-! ## HLAUNCH, LAUNCH_FORWARD, LABORT (R393, R395) -/

/-- A module in RECOVERY accepts nothing from the host (R386). -/
def State.takesHost (s : State) : Bool := s.boot != 2

/-- HLAUNCH (R393): the packet is read and checked and waits in the die's queue of 16; a write to a full queue is
counted. A packet that cannot be read has no EVT to write. -/
def execHlaunch (die : Nat) (value : BitVec 64) (s : State) : Host.Outcome State Fault Refusal :=
  let s := s.hlaunchLeave die
  let d := s.getDie die
  if !s.takesHost then .next s
  else if 16 ≤ d.hlaunch.length then .next (s.setDie die { d with hlDropped := satU (d.hlDropped + 1) 32 })
  else if value.toNat % 64 ≠ 0 then .next s
  else
    match s.physRead value.toNat 512 with
    | none => .next s
    | some bs =>
      let id := s.nextLaunch
      let t := s.submit value.toNat .host die bs
      let d := t.getDie die
      .next ((t.setDie die { d with hlaunch := d.hlaunch ++ [id] }).hlaunchLeave die)

/-- The launch here of which another part has been forwarded before. -/
def State.forwarded (s : State) (origin number : Nat) : Option (Nat × Launch) :=
  s.launches.find? fun l => decide (l.2.origin = Origin.remote origin number) && l.2.done.isNone

/-- LAUNCH_FORWARD (R393): a part of a launch placed on another module enters this die-slot's admission order. -/
def execLaunchForward (die : Nat) (packet : List (BitVec 8)) (place : List (BitVec 16) × Nat) (origin : Nat × Nat) (s : State) :
    Host.Outcome State Fault Refusal :=
  let ds := place.1.map fun e => slotOfEntry e.toNat
  let coord := place.2
  if ds[coord]? ≠ some (s.modId.toNat, die) then .next s
  else
    match s.forwarded origin.1 origin.2 with
    | some (id, l) => .next (s.setLaunch id (l.updPart coord fun p => { p with stage := .pending }))
    | none =>
      .next (({ s with nextLaunch := s.nextLaunch + 1 }).arrive s.nextLaunch ⟨0, .remote origin.1 origin.2, die, packet, some (ds, coord), none⟩)

/-- The oldest live launch that a host packet address names. -/
def State.liveLaunch (s : State) (pa : Nat) : Option (Nat × Launch) :=
  s.launches.find? fun l => decide (l.2.origin = Origin.host) && l.2.packet = pa && l.2.done.isNone

/-- A packet whose checks still wait, by its address. -/
def State.arrivingAt (s : State) (pa : Nat) : Option (Nat × Arrival) :=
  s.arriving.find? fun a => decide (a.2.origin = Origin.host) && a.2.pa = pa

/-- LABORT (R395). -/
def execLabort (_die : Nat) (value : BitVec 64) (s : State) : Host.Outcome State Fault Refusal :=
  if !s.takesHost then .next s
  else
    match s.liveLaunch value.toNat, s.arrivingAt value.toNat with
    | some (id, _), _ => .next (s.abortLaunch id 4)
    | none, some (id, a) =>
      let s := { s with arriving := Tbl.erase s.arriving id }
      .next ((s.setLaunch id { launchOf a (packetOf a.bytes) Header.none [] with abort := some 4 }).completeLaunch id 4)
    | none, none => .next s

/-! ## Pre-emption (R355, R402, R403) -/

/-- PSTAT once a request has ended; DVEC is raised. -/
def State.pstatEnd (s : State) (die result : Nat) : State :=
  let d := s.getDie die
  (s.setDie die { d with pstatResult := result, pstatDone := true, pstatBusy := false }).dvec die

/-- What a die-slot writes into its launch's context area, in order: here, or at the module that placed the launch (R403). -/
def State.putContext (s : State) (l : Launch) (pi : Nat) (ws : List (Nat × List Byte)) : State :=
  match l.origin with
  | .remote m n => s.emit (.remoteContext m n pi ws)
  | _ => ws.foldl (fun t w => t.putPlain w.1 w.2) s

/-- A die-slot record (R403). -/
def dieSlotRecord (pctx pi base n : Nat) : Nat × List Byte := (pctx + 16 * pi, leBytes 8 base ++ leBytes 4 n ++ [0, 0, 0, 0])

/-- Images of a part whose instances have not started: only their headers (R402). -/
def State.imagesUnstarted (s : State) (id pi pctx : Nat) (l : Launch) (p : Part) : State :=
  let base := l.imgBase pctx pi
  let is := ((instancesOf l.levels p.coord).map (·.1)).mergeSort
  let ms : List Image := is.mapIdx fun i n => ⟨base + i * frameSize, id, pi, n, imageBytes l n false [], none, (0, 0), false⟩
  { s with images := s.images ++ ms }.putContext l pi ((ms.map fun (m : Image) => (m.pa, m.bytes)) ++ [dieSlotRecord pctx pi base is.length])

/-- The images of a die-slot that is suspended already stand in the new context area; none is resumed any more. -/
def State.imagesAgain (s : State) (id pi pctx : Nat) (l : Launch) : State :=
  let base := l.imgBase pctx pi
  let mine := (s.images.filter fun (m : Image) => m.launch = id && m.part = pi).mergeSort fun a b => a.inst ≤ b.inst
  let ms := mine.mapIdx fun i (m : Image) => { m with pa := base + i * frameSize, resumed := false }
  let s := { s with images := (s.images.filter fun (m : Image) => !(m.launch = id && m.part = pi)) ++ ms }
  s.putContext l pi ((ms.map fun (m : Image) => (m.pa, m.bytes)) ++ [dieSlotRecord pctx pi base ms.length])

/-- A request reaches one die-slot: instances that run are to stop; a part that has not started leaves admission. -/
def State.preemptPart (s : State) (id pi pctx : Nat) : State :=
  match Tbl.get? s.launches id with
  | none => s
  | some l =>
    match l.parts[pi]? with
    | none => s
    | some p =>
      if p.module != s.modId.toNat then s.emit (.remotePreempt p.module p.die id pctx l.packet)
      else
        match p.stage with
        | .pending | .held =>
          if (s.images.any fun m => m.launch = id && m.part = pi) then s
          else
            (s.setLaunch id (l.updPart pi fun p => { p with stage := .suspended, cores := [] })).imagesUnstarted id pi pctx l p
        | .running => p.cores.foldl (fun t e =>
            let c := t.getCore e.1
            match c.inst with
            | some i => t.setCore e.1 { c with inst := some { i with preempt := some s.time.toNat } }
            | none => t) s
        | .suspended => s.imagesAgain id pi pctx l
        | _ => s

/-- PREQ (R402): ignored while a request is in progress; it reaches a launch whose packet still waits for other modules too,
which is stopped where it is taken in. -/
def execPreq (die : Nat) (value : BitVec 64) (s : State) : Host.Outcome State Fault Refusal :=
  let d := s.getDie die
  if d.pstatBusy || !s.takesHost then .next s
  else
    match s.launches.find? fun l =>
        decide (l.2.origin = Origin.host) && l.2.packet = value.toNat && l.2.done.isNone && l.2.home = die with
    | none =>
      match s.arrivingAt value.toNat with
      | some (id, a) =>
        if a.home = die then
          .next { s.setDie die { d with pstatBusy := true } with
            arriving := Tbl.set s.arriving id { a with pctx := some (d.pctx, a.pa) } }
        else .next (s.pstatEnd die 2)
      | none => .next (s.pstatEnd die 2)
    | some (id, l) =>
      let s := s.setDie die { d with pstatBusy := true }
      let s := s.setLaunch id { l with pctx := some d.pctx }
      .next ((List.range l.parts.length).foldl (fun t pi => t.preemptPart id pi d.pctx) s)

def Core.stopAll (c : Core) : Core :=
  { c with
    seqC := { c.seqC with stopped := true }, seqL := { c.seqL with stopped := true },
    seqX := { c.seqX with stopped := true }, seqS := { c.seqS with stopped := true } }

/-- PREEMPT_TIMEOUT (R40, R355): 50 µs after the request without a stopping point, every sequencer of an instance stops. -/
def execPreemptTimeout (die : Nat) (s : State) : Host.Outcome State Fault Refusal :=
  .next { s with cores := Tbl.mapVals s.cores fun n c =>
    match c.inst with
    | some i =>
      match i.preempt with
      | some t0 =>
        if coreDie n = die && !isUnit n && !c.anyStopped && decide (t0 + 50_000 ≤ s.time.toNat) then c.stopAll else c
      | none => c
    | none => c }

/-- Nothing of a stopped core is under way but matrix commands that are on no array (R402 step 3). -/
def State.quiet (s : State) (core : Nat) : Bool :=
  let c := s.getCore core
  let cl := s.getCluster (coreCluster core)
  let on (t : Option ArrTask) : Bool := match t with | some t => t.core = core | none => false
  c.allStopped && !on cl.onS && !on cl.onV && !c.biv.copying &&
    (c.ops.all fun o => o.done || (o.kind.isMatrix && o.out = 0) || match o.kind with | .probe a => decide (a.toNat < 2 ^ 60) || o.answer.isSome | _ => false) &&
    match c.inst with | some i => i.lvl.all fun l => decide (l.asking < 2 ^ 16) | none => true

/-- A core's instance goes into its image: dirty lines are written back, the pair is given up, the core is free (R54,
R402, R404). Answers the image's bytes too. -/
def State.saveCore (s : State) (id pi pa core inst : Nat) (l : Launch) : State × List Byte :=
  let s := s.lmRelease core
  let far := match l.origin with | .remote .. => true | _ => false
  let k := coreCluster core
  let cl := s.getCluster k
  let run := if cl.holder = some core then (cl.cmds, cl.clocks) else Tbl.getD cl.carried core (0, 0)
  let s := s.leaveCluster core
  let cl := s.getCluster k
  let s := s.setCluster k { cl with carried := Tbl.erase cl.carried core }
  let bytes := imageBytes l inst true (s.imageBody l core pa far run)
  let s := s.countSaved l core pa
  let c := s.getCore core
  let c' := { c with ops := (c.ops.filter fun o => match o.kind with | .probe a => decide (2 ^ 60 ≤ a.toNat) | _ => true).map fun o =>
    match o.kind with | .probe _ => o | _ => { o with asked := [], answer := none } }
  let s := { s with images := s.images ++ [(⟨pa, id, pi, inst, bytes, some c', run, false⟩ : Image)] }
  (s.setCore core c.vacate, bytes)

/-- A die-slot all of whose instances are quiet is saved: its images, then its record (R403). -/
def State.savePart (s : State) (id pi : Nat) : State :=
  match Tbl.get? s.launches id with
  | none => s
  | some l =>
    match l.parts[pi]?, l.pctx with
    | some p, some pctx =>
      let base := l.imgBase pctx pi
      let cs := p.cores.mergeSort fun a b => a.2 ≤ b.2
      let (s, ws) := (cs.mapIdx fun i e => (base + i * frameSize, e)).foldl (fun (t : State × List (Nat × List Byte)) x =>
        let (u, bytes) := t.1.saveCore id pi x.1 x.2.1 x.2.2 l
        (u, t.2 ++ [(x.1, bytes)])) (s, [])
      let s := s.putContext l pi (ws ++ [dieSlotRecord pctx pi base cs.length])
      s.setLaunch id (l.updPart pi fun p => { p with stage := .suspended, cores := [] })
    | _, _ => s

/-- Die-slots of the die that a request stops and that are quiet. -/
def State.savable (s : State) (die : Nat) : List (Nat × Nat) :=
  (s.launches.map fun l =>
    if l.2.done.isSome || l.2.pctx.isNone then [] else
    (l.2.parts.zipIdx.filter fun p => p.1.module = s.modId.toNat && p.1.die = die && decide (p.1.stage = Stage.running) &&
      p.1.cores.all fun e => s.quiet e.1).map fun p => (l.1, p.2)).flatten

/-- How a request stands: the code of PSTAT.RESULT once it has ended. -/
def Launch.preqResult (l : Launch) : Option Nat :=
  match l.done with
  | some _ => some (if l.abort = some 4 then 4 else 1)
  | none =>
    if l.abort.isNone && l.parts.all fun p => match p.stage with | .suspended | .ended | .discarded => true | _ => false
    then some 0 else none

/-- Requests that have ended are reported on the die where the launch was placed; of a launch that another module placed,
that module sees it from the die-slot's record. -/
def State.preqSettle (s : State) : State :=
  s.launches.foldl (fun t e =>
    match e.2.pctx with
    | none => t
    | some _ =>
      match e.2.preqResult with
      | some r =>
        let t := t.setLaunch e.1 { e.2 with pctx := none }
        match e.2.origin with
        | .remote .. => t
        | _ => t.pstatEnd e.2.home r
      | none => t) s

/-- The cores of a part. -/
def State.partCores (s : State) (id pi : Nat) : List Nat :=
  match Tbl.get? s.launches id with
  | some l => (match l.parts[pi]? with | some p => p.cores.map (·.1) | none => [])
  | none => []

/-- Dirty lines of a part's cores are written back (R54); its images follow once that has performed everywhere. -/
def State.saveStep (s : State) (id pi : Nat) : State :=
  let cs := s.partCores id pi
  let t := cs.foldl (fun t c => t.lmRelease c) s
  if cs.all fun c => (t.getCore c).released && (t.getCore c).sent.isEmpty then t.savePart id pi else t

/-- Parts of a die that have not started and whose launch a request stops: a packet taken in after it (R402). -/
def State.unstarted (s : State) (die : Nat) : List (Nat × Nat × Nat) :=
  (s.launches.map fun l =>
    match l.2.pctx with
    | some pctx =>
      if l.2.done.isSome then [] else
      (l.2.parts.zipIdx.filter fun p =>
        p.1.module = s.modId.toNat && p.1.die = die && decide (p.1.stage = Stage.pending)).map fun p => (l.1, p.2, pctx)
    | none => []).flatten

/-- PREEMPT_SAVE (R41, R402 to R404): die-slots that have not started leave only headers; the die-slots that have stopped and drained are saved; a request that has ended is
reported. -/
def execPreemptSave (die : Nat) (s : State) : Host.Outcome State Fault Refusal :=
  let s := (s.unstarted die).foldl (fun t e => t.preemptPart e.1 e.2.1 e.2.2) s
  .next ((s.savable die).foldl (fun t e => t.saveStep e.1 e.2) s).preqSettle

/-! ## RESUME (R405) -/

/-- The image at a frame address, if its SIG and digest are right (R405). R405 names no check of the reserved
bytes, and none is made here or of a die-slot record (DESIGN CHOICE, log entry 60). -/
def State.imageRead (s : State) (pa : Nat) : Option (List Byte) :=
  match s.physRead pa 256 with
  | none => none
  | some h =>
    let len := fld h 0x10 4
    if fld h 0 4 != 0x4F56_4358 || decide (len < 256) || decide (frameSize < len) then none
    else
      match (if len = 256 then some [] else s.physRead (pa + 256) (len - 256)) with
      | none => none
      | some body => if slice h 0x20 32 != sha256 body then none else some (h ++ body)

/-- A launch of the host is the one that an image's header names: its packet address, NTILE and PINB are those (R405). -/
def Launch.imaged (l : Launch) (h : List Byte) : Bool :=
  decide (l.origin = Origin.host) && l.packet = fld h 8 8 && l.done.isNone && l.ntile = fld h 0x14 1 && l.pinb = fld h 0x18 4

/-- The suspended instance that the image at a frame address names, with the image's bytes, if every check of R405 passes. -/
def State.imageAt (s : State) (die pa : Nat) : Option Image :=
  (s.imageRead pa).bind fun h =>
    (s.images.find? fun (m : Image) =>
      m.inst = fld h 4 4 && !m.resumed &&
        match Tbl.get? s.launches m.launch with
        | some l => l.imaged h &&
          (match l.parts[m.part]? with | some p => p.module = s.modId.toNat && decide (die < 4) | none => false)
        | none => false).map fun m => { m with bytes := h }

/-- The launch, die-slot and INST_ID that an image of another module's die-slot names, with its bytes, if every check of R405 passes. -/
def State.farImageAt (s : State) (pa : Nat) : Option (Nat × Nat × Nat × List Byte) :=
  (s.imageRead pa).bind fun h =>
    s.launches.findSome? fun e =>
      if e.2.imaged h && e.2.suspendedInsts.contains (fld h 4 4) then
        (e.2.parts.zipIdx.find? fun p => p.1.module != s.modId.toNat &&
          (instancesOf e.2.levels p.1.coord).any fun i => i.1 = fld h 4 4).map fun p => (e.1, p.2, fld h 4 4, h)
      else none

/-- The images a die-slot record names, all of one die-slot and each once; none where a check fails. -/
def State.recordImages (s : State) (die rec_ : Nat) : Option (List Image) :=
  match s.physRead rec_ 16 with
  | none => none
  | some r =>
    let n := fld r 8 4
    if 128 < n then none
    else
      match (List.range n).mapM fun i => s.imageAt die (fld r 0 8 + i * frameSize) with
      | none => none
      | some ms =>
        match ms with
        | [] => some []
        | m :: rest =>
          if (rest.all fun x => x.launch = m.launch && x.part = m.part) && (ms.map (·.inst)).eraseDups.length = ms.length then some ms else none

/-- The launch, die-slot and instances that a record of another module's die-slot names, each once; none where a check
fails. -/
def State.recordFar (s : State) (rec_ : Nat) : Option (Nat × Nat × List (Nat × List Byte)) :=
  (s.physRead rec_ 16).bind fun r =>
    let n := fld r 8 4
    if 128 < n then none
    else
      match (List.range n).mapM fun i => s.farImageAt (fld r 0 8 + i * frameSize) with
      | some (m :: rest) =>
        let insts := (m :: rest).map fun x => x.2.2
        if (rest.all fun x => x.1 = m.1 && x.2.1 = m.2.1) && (insts.map (·.1)).eraseDups.length = insts.length then some (m.1, m.2.1, insts)
        else none
      | _ => none

/-- Instances of another module's die-slot are resumed there, on a die of the same number (R405). -/
def State.resumeFar (s : State) (die id pi : Nat) (insts : List (Nat × List Byte)) : State :=
  match Tbl.get? s.launches id with
  | none => s
  | some l =>
    let l := l.updPart pi fun p => { p with die := die, stage := .running }
    let m := match l.parts[pi]? with | some p => p.module | none => 0
    (s.setLaunch id { l with suspendedInsts := l.suspendedInsts.filter fun i => !(insts.map (·.1)).contains i }).emit
      (.remoteResume m die id insts)

/-- Images of a launch are to be resumed, each from the bytes that stand at its frame. -/
def State.imagesResumed (s : State) (launch : Nat) (insts : List (Nat × List Byte)) : State :=
  { s with images := s.images.map fun (x : Image) =>
      match insts.find? fun e => x.launch = launch && e.1 = x.inst with
      | some e => { x with bytes := e.2, resumed := true }
      | none => x }

/-- RESUME (R405): the instances whose images a die-slot record names wait for admission on this die, or on that die of their
module; a check that fails leaves BADCTX. -/
def execResume (die : Nat) (value : BitVec 64) (s : State) : Host.Outcome State Fault Refusal :=
  if !s.takesHost then .next s else
  match s.recordImages die value.toNat with
  | none =>
    match s.recordFar value.toNat with
    | some (id, pi, insts) => .next (s.resumeFar die id pi insts)
    | none => let d := s.getDie die; .next (s.setDie die { d with pstatResult := 3 })
  | some ms =>
    match ms with
    | [] => .next s
    | m :: _ =>
      match Tbl.get? s.launches m.launch with
      | none => .next s
      | some l =>
        let s := s.setLaunch m.launch (l.updPart m.part fun p => { p with die := die })
        .next (s.imagesResumed m.launch (ms.map fun x => (x.inst, x.bytes)))

/-! ## Pre-emption and resume between modules (R402, R403, R405) -/

/-- A pre-emption of a launch that another module placed reaches a die here, whose packet may still wait for other modules
(R402). -/
def State.preemptHere (s : State) (origin number die pctx packet : Nat) : State :=
  let o := Origin.remote origin number
  let s := { s with arriving := Tbl.mapVals s.arriving fun _ a =>
    if a.origin = o ∧ a.home = die then { a with pctx := some (pctx, packet) } else a }
  (s.launches.filter fun l => decide (l.2.origin = o) && l.2.done.isNone).foldl (fun t e =>
    (e.2.parts.zipIdx.filter fun p => p.1.module = s.modId.toNat && p.1.die = die).foldl (fun t p => t.preemptPart e.1 p.2 pctx)
      (t.setLaunch e.1 { e.2 with pctx := some pctx, packet := packet })) s

/-- What another module's die-slot writes into the context area here, its record last: the die-slot is then suspended. -/
def State.contextIn (s : State) (launch coord : Nat) (ws : List (Nat × List Byte)) : State :=
  match Tbl.get? s.launches launch with
  | none => s
  | some l =>
    match l.parts[coord]? with
    | none => s
    | some p =>
      if p.module = s.modId.toNat || l.done.isSome || l.abort.isSome then s
      else
        let insts := ws.dropLast.map fun w => fld w.2 4 4
        (ws.foldl (fun t w => t.putPlain w.1 w.2) s).setLaunch launch
          { l.updPart coord (fun p => { p with stage := .suspended }) with
            suspendedInsts := l.suspendedInsts.filter (fun i => !insts.contains i) ++ insts }

/-- Instances of a launch that another module placed wait for admission on a die here (R405). -/
def State.resumeHere (s : State) (origin number die : Nat) (insts : List (Nat × List Byte)) : State :=
  match s.forwarded origin number with
  | none => s
  | some (id, l) =>
    match s.images.find? fun m => m.launch = id && (insts.map (·.1)).contains m.inst with
    | none => s
    | some m =>
      (s.setLaunch id (l.updPart m.part fun p => { p with die := die })).imagesResumed id insts

end Sys2Proof.Machine
end

