-- ==== Sys2Proof/Machine/Collect.lean ====
section
/-! DEFINITION. The arithmetic of collectives and of the quadrille on plain lists: reductions, blocks, keys' splits, delivery
(R159 to R162, R171 to R174, R401). -/

namespace Sys2Proof

/-! ## Reductions (R161, R162, R401) -/

/-- What a collective descriptor says of its elements. -/
structure CollFmt where
  mode : Nat
  rop : Nat
  ofmt : Nat
  anchor : Int
  deriving DecidableEq, Repr

/-- STATUS bits of a result's events: SAT, INV, OVF (R159). -/
def collBits (e : Ev) : Nat :=
  (if e.getLsbD 2 then 2 else 0) + (if e.getLsbD 1 then 4 else 0) + (if e.getLsbD 3 then 8 else 0)

/-- The sum up the route tree from rank r: its own value, then its children's in ascending rank order (R401). -/
def treeSum (route vals : List Nat) (fuel r : Nat) : Nat × Nat :=
  match fuel with
  | 0 => (vals.getD r 0, 0)
  | k + 1 =>
    let kids := (List.range vals.length).filter fun i => route.getD i 0xFFFF = r && i != r
    kids.foldl (fun acc i =>
      let sub := treeSum route vals k i
      let (v, e) := f32.add acc.1 sub.1
      (v, acc.2 ||| sub.2 ||| collBits e)) (vals.getD r 0, 0)

def treeRoot (route : List Nat) (p : Nat) : Nat := ((List.range p).find? fun i => route.getD i 0 = 0xFFFF).getD 0

/-- m × 2^-k rounded to the nearest, ties to even. -/
def rneShift (m k : Nat) : Nat :=
  let q := m / 2 ^ k
  let r := m % 2 ^ k
  if 2 * r > 2 ^ k ∨ (2 * r = 2 ^ k ∧ q % 2 = 1) then q + 1 else q

/-- An integer held to 128 bits. -/
def sat128 (i : Int) : Int × Bool :=
  if i < -(2 ^ 127) then (-(2 ^ 127), true) else if 2 ^ 127 ≤ i then (2 ^ 127 - 1, true) else (i, false)

/-- An element in units of 2^A (R162). -/
def exactOf (a : Int) (v : FVal) : Int × Bool :=
  match v with
  | .fin n m e =>
    let k := e - a
    let q : Nat := if 0 ≤ k then m * 2 ^ k.toNat else rneShift m (-k).toNat
    sat128 (if n then -(q : Int) else q)
  | .inf n => (if n then -(2 ^ 127) else 2 ^ 127 - 1, true)
  | .nan _ => (0, false)

/-- The bytes of an exact reduction and its STATUS bits: SAT by any element's saturation, whatever the others are (R162). -/
def exactElem (c : CollFmt) (vs : List FVal) : List Byte × Nat :=
  let qs := vs.map (exactOf c.anchor)
  let sat (b : Bool) : Nat := if b || qs.any (·.2) then 2 else 0
  if vs.any FVal.isNan then (if c.ofmt = 1 then leBytes 16 (2 ^ 127) else leBytes 4 0x7FC0_0000, 4 ||| sat false)
  else
    let t := sat128 ((qs.map (·.1)).foldl (· + ·) 0)
    if c.ofmt = 1 then (leBytes 16 (t.1 % 2 ^ 128).toNat, sat t.2)
    else
      let r := roundF32 (.fin (decide (t.1 < 0)) t.1.natAbs c.anchor)
      (leBytes 4 r.1.toNat, sat t.2 ||| collBits (r.2 &&& evOvf))

/-- The bytes of a reduction of elements, and STATUS bits. -/
def reduceElem (c : CollFmt) (route : List Nat) (vals : List Nat) : List Byte × Nat :=
  if c.mode = 1 then exactElem c (vals.map f32.dec)
  else if vals.any fun v => (f32.dec v).isNan then (leBytes 4 0x7FC0_0000, 4)
  else
    match c.rop with
    | 0 =>
      let r := treeSum route vals vals.length (treeRoot route vals.length)
      (leBytes 4 r.1, r.2)
    | k =>
      match vals with
      | v :: rest => (leBytes 4 (rest.foldl (fun a b => (f32.minMax (k = 1) a b).1) v), 0)
      | [] => ([], 0)

/-- Element i of a list of FP32 bytes. -/
def elem32 (bs : List Byte) (i : Nat) : Nat := fld bs (4 * i) 4

/-- Bytes and STATUS bits of several elements. -/
def joinElems (l : List (List Byte × Nat)) : List Byte × Nat := ((l.map (·.1)).flatten, (l.map (·.2)).foldl (· ||| ·) 0)

/-- The bytes rank r receives, and its STATUS bits (R160). -/
def collOutput (opc : Nat) (c : CollFmt) (count : Nat) (route : List Nat) (srcs : List (List Byte)) (r : Nat) : List Byte × Nat :=
  let one (b : List Byte) (o : Nat) : List Byte × Nat :=
    if c.mode = 2 then (slice b (o * count) count, 0)
    else joinElems ((List.range count).map fun i => reduceElem c [0xFFFF] [elem32 b (o * count + i)])
  match opc with
  | 0 => joinElems ((List.range count).map fun i => reduceElem c route (srcs.map fun b => elem32 b i))
  | 2 => joinElems ((List.range count).map fun i => reduceElem c route (srcs.map fun b => elem32 b (r * count + i)))
  | 1 => joinElems (srcs.map fun b => one b 0)
  | _ => joinElems (srcs.map fun b => one b r)

/-! ## The quadrille (R173, R174) -/

/-- A record on its way: key, load, sender, position in the sender's source, bytes. -/
structure Rec where
  key : Nat
  load : Nat
  sender : Nat
  pos : Nat
  bytes : List Byte
  deriving DecidableEq, Repr

/-- Load below each bucket 0 to 4,096, and the total at the end. -/
def prefixLoads (rs : List Rec) (count : Bool) : List Nat :=
  let loads := (List.range 4096).map fun b =>
    ((rs.filter fun r => r.key / 2 ^ 52 = b).map fun r => if count then 1 else r.load).foldl (· + ·) 0
  (loads.foldl (fun (acc : List Nat × Nat) l => (acc.1 ++ [acc.2 + l], acc.2 + l)) ([0], 0)).1

def absDiff (a b : Nat) : Nat := if a ≤ b then b - a else a - b

/-- The split that comes nearest to r shares of p, the lowest among equals (R173). -/
def bestSplit (c : List Nat) (p r l : Nat) : Nat :=
  (c.zipIdx.foldl (fun (best : Nat × Nat) e =>
    let d := absDiff (e.1 * p) (r * l)
    if d < best.1 then (d, e.2) else best) (absDiff 0 (r * l), 0)).2

/-- The P + 1 split points. -/
def splitsOf (rs : List Rec) (p : Nat) : List Nat :=
  let w := prefixLoads rs false
  let c := if w.getLast? = some 0 then prefixLoads rs true else w
  let l := c.getLastD 0
  (List.range (p + 1)).map fun r => if r = 0 then 0 else if r = p then 4096 else bestSplit c p r l

/-- The rank that receives a bucket: the one whose range holds it. -/
def rankOf (splits : List Nat) (p b : Nat) : Nat :=
  ((List.range p).find? fun r => decide (splits.getD r 0 ≤ b ∧ b < splits.getD (r + 1) 0)).getD (p - 1)

/-- Delivery order: key, then sender, then position (R174). -/
def recBefore (a b : Rec) : Bool :=
  a.key < b.key || (a.key = b.key && (a.sender < b.sender || (a.sender = b.sender && a.pos ≤ b.pos)))

/-- The records bound for a rank, in delivery order. -/
def boundFor (rs : List Rec) (splits : List Nat) (p d : Nat) : List Rec :=
  (rs.filter fun r => rankOf splits p (r.key / 2 ^ 52) = d).mergeSort recBefore

end Sys2Proof
end

