-- ==== Sys2Proof/Machine/Node.lean ====
section
/-! DEFINITION. Major 0x2A: cairns, virtual loss, backup, selection (R89 to R97, R342 to R345). -/

namespace Sys2Proof.Machine

open Sys2Proof

/-! ## Allocation (R91, R342) -/

def nodesPerDie : Nat := 2 ^ 20

/-- The run holds the record. -/
def inRun (r : Nat) (run : Nat × Nat) : Bool := decide (run.1 ≤ r ∧ r < run.1 + run.2)

/-- Record r of a die is allocated. -/
def Die.hasNode (d : Die) (r : Nat) : Bool := d.nodes.any (inRun r)

/-- n records from p on may be allocated on a die: inside its records, none allocated, none the null handle. -/
def Die.runFree (d : Die) (die p n : Nat) : Bool :=
  decide (p + n ≤ nodesPerDie) && !(die = 3 && decide (p + n = nodesPerDie)) &&
    d.nodes.all fun r => decide (p + n ≤ r.1 ∨ r.1 + r.2 ≤ p)

/-- A run freed: what is left of the allocated ones. -/
def cutRun (p n : Nat) (r : Nat × Nat) : List (Nat × Nat) :=
  ([(r.1, min (r.1 + r.2) p - r.1), (max r.1 (p + n), r.1 + r.2 - max r.1 (p + n))]).filter fun e => e.2 != 0

def handleOf (s : State) (die r : Nat) : Nat := s.modId.toNat % 1024 * 2 ^ 22 + die * 2 ^ 20 + r

/-- The null handle with this module's number. -/
def State.nullHandle (s : State) : Nat := s.modId.toNat % 1024 * 2 ^ 22 + 0x3F_FFFF

/-- A new cairn (R91). -/
def State.freshNode (s : State) : List Byte :=
  List.replicate 20 0 ++ leBytes 4 s.nullHandle ++ leBytes 4 s.nullHandle ++ List.replicate 8 0 ++ leBytes 4 0x7FFF ++
    List.replicate 24 0

/-- n cairns allocated on a die; the place of the run is a free choice (log entry 12). -/
def State.allocNodes (s : State) (die n : Nat) : Option (State × Nat) :=
  let d := s.getDie die
  match firstFrom (fun p => d.runFree die p n) nodesPerDie nodesPerDie (s.freeBelow (2 ^ 92) nodesPerDie) with
  | none => none
  | some p =>
    let s := s.setDie die { d with nodes := (p, n) :: d.nodes }
    some ((List.range n).foldl (fun t i => (t.storePhys (nodeBase die + 64 * (p + i)) t.freshNode).getD t) s, handleOf s die p)

def execNalloc (h : Hdr) (xc xa : XReg) (pd : PReg) (die : Option XReg) (s : State) : Host.Outcome State Fault Refusal :=
  s.issue (cmdForm h 0x2A 0 (xc :: xa :: die.toList) [pd]) fun t =>
    let n := (t.getX xa).toNat
    let d := match die with | some r => (t.getX r).toNat | none => t.die
    if n = 0 ∨ 65535 < n ∨ 4 ≤ d then .trap .illegal 0
    else
      match t.allocNodes d n with
      | some (u, hd) => .done ((u.setX xc (w64 hd)).setFlag pd true)
      | none => .done ((t.setX xc (w64 t.nullHandle)).setFlag pd false)

def execNallocFree (h : Hdr) (xa xb : XReg) (pd : PReg) (s : State) : Host.Outcome State Fault Refusal :=
  s.issue (cmdForm h 0x2A 0 [xa, xb] [pd]) fun t =>
    let n := (t.getX xb).toNat
    let hd : Word32 := (t.getX xa).setWidth 32
    if n = 0 ∨ 65535 < n ∨ !t.nodeHere hd then .trap .illegal 0
    else
      let die := nodeDie hd
      let p := nodeRec hd
      let d := t.getDie die
      let ok := decide (p + n ≤ nodesPerDie) &&
        (List.range n).all fun i => d.hasNode (p + i) && leNat (t.physBytes (nodeBase die + 64 * (p + i) + 34) 2) = 0
      if ok then .done ((t.setDie die { d with nodes := (d.nodes.map (cutRun p n)).flatten }).setFlag pd true)
      else .done (t.setFlag pd false)

/-! ## Fields (R343) -/

/-- The bytes of a field. -/
def fieldBytes (dword : Bool) : Nat := if dword then 8 else 4

/-- An offset that is no multiple of the size is MISALIGN at decode. -/
def nodeForm (h : Hdr) (sub : Nat) (xs : List XReg) (off : BitVec 6) (dword : Bool) : Form :=
  { cmdForm h 0x2A sub xs [] with
    early := if off.toNat % fieldBytes dword ≠ 0 then some (.misalign, off.setWidth 64) else none }

/-- The checks of a handle at issue. -/
def State.nodeStop (s : State) (hd : Word32) : Option (Cause × Word64) :=
  if nodeNull hd then some (.page, pageVal 0 (hd.setWidth 64))
  else if !s.nodeReachable hd then some (.page, pageVal 1 (hd.setWidth 64))
  else none

def nodeKey (hd : Word32) (off : Nat) : Word64 := w64 (2 ^ 58 + hd.toNat * 64 + off)

def execNrd (h : Hdr) (xc xa : XReg) (off : BitVec 6) (dword : Bool) (acq : OScope) (s : State) :
    Host.Outcome State Fault Refusal :=
  s.issue (nodeForm h 1 [xc, xa] off dword) fun t =>
    let hd : Word32 := (t.getX xa).setWidth 32
    let n := fieldBytes dword
    match t.nodeStop hd with
    | some (c, v) => .trap c v
    | none =>
      if t.nodeHere hd then
        if t.badRange (nodeAddr hd + off.toNat) n then
          .trapBy (fun u => u.countBelow (nodeAddr hd + off.toNat) n) .uncorr (hd.setWidth 64)
        else .done ((t.setX xc (w64 (t.nodeFld hd off.toNat n))).acquireAt acq)
      else
        let key := nodeKey hd off.toNat
        match t.ask key fun c o => .nodeRead (t.blockModule (nodeModule hd)) c o hd off.toNat n with
        | .none r => r
        | .lost => .trap .page (pageVal 1 (hd.setWidth 64))
        | .bad => .trapBy id .uncorr (hd.setWidth 64)
        | .value v => .done (((t.dropAsk key).setX xc (w64 (v.toNat % 256 ^ n))).acquireAt acq)

/-- A write of a field here performs as it is accepted; elsewhere it waits for its acknowledgement. -/
def execNwr (h : Hdr) (xa xb : XReg) (off : BitVec 6) (dword : Bool) (rel : OScope) (k : Ctr) (s : State) :
    Host.Outcome State Fault Refusal :=
  let f := nodeForm h 2 [xa, xb] off dword
  s.issueAsync f 0x2A 2 k fun _ t =>
    let hd : Word32 := (t.getX xa).setWidth 32
    let v := t.getX xb
    match t.nodeStop hd with
    | some (c, w) => .trap c w
    | none =>
      if !t.alive t.cmdGroup then .done (t.addOp f 0x2A 2 k none none .null true)
      else
        match t.acceptRel rel with
        | .error r => r
        | .ok t =>
          let op := t.cur.nextOp
          let bytes := leBytes (fieldBytes dword) v.toNat
          let t := t.addOp f 0x2A 2 k none rel (.nwr hd off.toNat dword v) false
          if t.nodeHere hd then
            match t.storePhys (nodeAddr hd + off.toNat) bytes with
            | some u => .done (u.doneOp u.core op)
            | none =>
              match t.cur.findOp op with
              | some o => .done (t.failOp t.core o 12 0 (hd.setWidth 64) 0)
              | none => .done t
          else .done (t.emit (.nodeWrite (t.blockModule (nodeModule hd)) t.core op hd off.toNat bytes))

/-! ## Walks (R92 to R95, R344) -/

/-- SatS(v, 64). -/
def satS64 (i : Int) : Int := max (-(2 ^ 63)) (min (2 ^ 63 - 1) i)

/-- One cairn's update at step i of a walk; none on an uncorrectable unit. -/
def State.walkStep (s : State) (backup neg : Bool) (hd : Word32) (v : Word64) (i : Nat) : Option State :=
  if s.badRange (nodeAddr hd) 24 then none
  else
    let n := s.nodeFld hd 0 4
    let vl := s.nodeFld hd 4 4
    let w := (w64 (s.nodeFld hd 8 8)).toInt
    if backup then
      let x := if neg && i % 2 = 1 then satS64 (-v.toInt) else v.toInt
      some (((s.nodePut hd 0 4 (min (n + 1) 0xFFFF_FFFF)).nodePut hd 4 4 (vl - 1)).nodePut hd 8 8
        (BitVec.ofInt 64 (satS64 (w + x))).toNat)
    else some (s.nodePut hd 4 4 (min (vl + 1) 0xFFFF_FFFF))

/-- The parent's handle. -/
def State.parentOf (s : State) (hd : Word32) : Word32 := BitVec.ofNat 32 (s.nodeFld hd 20 4)

/-- The walk ends after this node. -/
def State.walkEnds (s : State) (hd : Word32) (left : Option Nat) : Bool := left = some 1 || nodeNull (s.parentOf hd)

/-- A walk is accepted (R344). -/
def State.startWalk (s : State) (h : Hdr) (sub : Nat) (xs : List XReg) (backup neg : Bool) (xa xd : XReg) (v : State → Word64)
    (acq : OScope) (k : Ctr) : Host.Outcome State Fault Refusal :=
  let f := cmdForm h 0x2A sub xs []
  s.issueAsync f 0x2A sub k fun _ t =>
    let hd : Word32 := (t.getX xa).setWidth 32
    let d := (t.getX xd).toNat
    if 256 ≤ d then .trap .illegal 0
    else if nodeNull hd then .trap .page (pageVal 0 (hd.setWidth 64))
    else
      t.acceptWith f 0x2A sub k acq fun u =>
        .done (u.addOp f 0x2A sub k acq none (.walk backup neg hd (v u) (if d = 0 then none else some d) 0) false)

def execNvloss (h : Hdr) (xa xb : XReg) (acq : OScope) (k : Ctr) (s : State) : Host.Outcome State Fault Refusal :=
  s.startWalk h 3 [xa, xb] false false xa xb (fun _ => 0) acq k

def execNbackup (h : Hdr) (neg : Bool) (xa xb xc : XReg) (acq : OScope) (k : Ctr) (s : State) :
    Host.Outcome State Fault Refusal :=
  s.startWalk h 4 [xa, xb, xc] true neg xa xc (fun t => t.getX xb) acq k

/-- The walk of an operation goes on from a handle. -/
def State.walkOn (s : State) (core op : Nat) (kind : OpKind) (i : Nat) : State :=
  s.setCore core ((s.getCore core).updOp op fun o => { o with kind := kind, prog := i })

/-- The next update of a walk; the last completes the command. On another module the walk goes on there (R94, R95). -/
def execWalkComplete (core op : Nat) (s : State) : Host.Outcome State Fault Refusal :=
  match (s.getCore core).findOp op with
  | none => .next s
  | some o =>
    if o.done then .next s
    else
      match o.kind with
      | .walk backup neg hd v left i =>
        if !s.nodeHere hd then
          match o.answer with
          | some (.ack _ _) => .next (s.doneOp core op)
          | some (.value _ _ at_) => .next (s.failOp core o 13 1 at_ i)
          | some (.lost _ _) => .next (s.failOp core o 13 1 (hd.setWidth 64) i)
          | _ =>
            if !s.nodeReachable hd then .next (s.failOp core o 13 1 (hd.setWidth 64) i)
            else if o.asked.isEmpty then
              .next ((s.setCore core ((s.getCore core).updOp op fun x => { x with asked := [(0, 0)] })).emit
                (.remoteWalk (s.blockModule (nodeModule hd)) (s.modId.toNat, core, op) backup neg hd v left i))
            else .next s
        else
          match s.walkStep backup neg hd v i with
          | none => .next (s.failOp core o 12 0 (hd.setWidth 64) i)
          | some t =>
            if s.walkEnds hd left then .next ((t.walkOn core op o.kind (i + 1)).doneOp core op)
            else .next (t.walkOn core op (.walk backup neg (s.parentOf hd) v (left.map (· - 1)) (i + 1)) (i + 1))
      | _ => .next s

/-- One update of another module's walk here; the next is a turn of its own. It ends, stops, or goes on at a third module for
the same issuer, to which the completion notice goes (R94, R95). -/
def execRemoteWalk (issuer : Nat × Nat × Nat) (backup neg : Bool) (handle : BitVec 32) (v : BitVec 64)
    (togo : Option Nat × Nat) (s : State) : Host.Outcome State Fault Refusal :=
  let (left, i) := togo
  if nodeNull handle then .next (s.emit (.walkDone issuer (some handle)))
  else if !s.nodeHere handle then
    if s.nodeReachable handle then
      .next (s.emit (.remoteWalk (s.blockModule (nodeModule handle)) issuer backup neg handle v left i))
    else .next (s.emit (.walkDone issuer (some handle)))
  else
    match s.walkStep backup neg handle v i with
    | none => .next (s.emit (.walkDone issuer (some handle)))
    | some t =>
      if s.walkEnds handle left then .next (t.emit (.walkDone issuer none))
      else
        .next { t with turns := t.turns ++
          [.unit (.foreignWalk issuer backup neg (s.parentOf handle) v (left.map (· - 1)) (i + 1))] }

/-! ## Selection (R96, R97, R345) -/

def rne (v : FVal × Ev) : Word32 := (roundF32 v.1).1

def f32i (i : Int) : Word32 := (roundF32 (FVal.ofInt i)).1

def dec32 (w : Word32) : FVal := f32.dec w.toNat

/-- RoundF32(Sqrt(x)) of a non-negative FP32 value. -/
def sqrt32 (w : Word32) : Word32 :=
  match dec32 w with
  | .fin n m e => if m = 0 then w else let r := sqrtMag m e; (roundF32 (.fin n r.1 r.2)).1
  | _ => w

/-- The score of a child, with s the root term (R96). -/
def score (c f l s : Word32) (bs : List Byte) : Word32 :=
  let n := fld bs 0 4
  let v := fld bs 4 4
  let q : Word32 :=
    if n + v = 0 then f
    else
      let w := (roundF32 (.fin (decide ((w64 (fld bs 8 8)).toInt < 0)) (w64 (fld bs 8 8)).toInt.natAbs (-32))).1
      let lv := rne ((dec32 l).mul (dec32 (f32i v)))
      let a := rne ((dec32 w).add (dec32 lv).neg)
      rne ((dec32 a).div (dec32 (f32i (n + v))))
  let cp := rne ((dec32 c).mul (dec32 (BitVec.ofNat 32 (fld bs 16 4))))
  let u := rne ((dec32 (rne ((dec32 cp).mul (dec32 s)))).div (dec32 (f32i (1 + n + v))))
  rne ((dec32 q).add (dec32 u))

/-- The child with the greatest score, the lowest index among equals; none where no child can be chosen (R97). -/
def bestChild (c f l s : Word32) (cs : List (Nat × List Byte)) : Option (Nat × Word32) :=
  cs.foldl (fun best e =>
    let sc := score c f l s e.2
    if fld e.2 31 1 / 4 % 2 = 1 || (dec32 sc).isNan then best
    else
      match best with
      | none => some (e.1, sc)
      | some b => if (dec32 b.2).lt (dec32 sc) then some (e.1, sc) else best) none

/-- What a selection among cairns of this module answers: the index chosen, or an uncorrectable unit. -/
inductive Chosen where
  | child (i : Nat)
  | nobody
  | uncorr
  deriving DecidableEq, Repr

/-- A selection among n children from a handle on, of a parent with N + V = sum. -/
def State.selectHere (s : State) (child : Word32) (n sum : Nat) (c f l : Word32) : Chosen :=
  let root := sqrt32 (f32i sum)
  if s.badRange (nodeAddr child) (64 * n) then .uncorr
  else
    match bestChild c f l root ((List.range n).map fun i => (i, s.physBytes (nodeAddr child + 64 * i) 64)) with
    | some b => .child b.1
    | none => .nobody

/-- The parent's cairn, from its module. -/
def State.askNode (s : State) (hd : Word32) : Except Res (List Byte) :=
  if s.nodeHere hd then
    if s.badRange (nodeAddr hd) 64 then .error (.trapBy (fun u => u.countBelow (nodeAddr hd) 64) .uncorr (hd.setWidth 64)) else .ok (s.physBytes (nodeAddr hd) 64)
  else
    let key := nodeKey hd 64
    match s.cur.ops.find? fun o => o.isProbe s.seq key with
    | some o =>
      match o.answer with
      | some (.bytes _ _ cells) => .ok ((List.range 64).map fun i => Tbl.getD cells i 0)
      | some (.lost _ _) => .error (.trap .page (pageVal 1 (hd.setWidth 64)))
      | some (.denied _ _ _ _) => .error (.trapBy id .uncorr (hd.setWidth 64))
      | _ => .error .wait
    | none => .error (.hold fun t => t.sendAsk key fun c o => .nodeRead (t.blockModule (nodeModule hd)) c o hd 0 64)

/-- The results of `nsel` (R345). -/
def State.selEnd (s : State) (xc : XReg) (pd : PReg) (child : Word32) (r : Option Nat) : Res :=
  match r with
  | some i => .done ((s.setX xc (w64 ((child.toNat + i) % 2 ^ 32 + 2 ^ 32 * i))).setFlag pd true)
  | none => .done ((s.setX xc (w64 (s.nullHandle + 2 ^ 32 * 0xFFFF))).setFlag pd false)

def selKey (hd : Word32) : Word64 := w64 (2 ^ 59 + hd.toNat)

def execNsel (h : Hdr) (xc xa xb : XReg) (pd : PReg) (s : State) : Host.Outcome State Fault Refusal :=
  s.issue (cmdForm h 0x2A 5 [xc, xa, xb, xPlus xb 1] [pd]) fun t =>
    let hd : Word32 := (t.getX xa).setWidth 32
    let c : Word32 := (t.getX xb).extractLsb' 0 32
    let f : Word32 := (t.getX xb).extractLsb' 32 32
    let l : Word32 := (t.getX (xPlus xb 1)).extractLsb' 0 32
    match t.nodeStop hd with
    | some (c, v) => .trap c v
    | none =>
      match t.askNode hd with
      | .error r => r
      | .ok bs =>
        let child : Word32 := BitVec.ofNat 32 (fld bs 24 4)
        let n := fld bs 28 2
        let sum := fld bs 0 4 + fld bs 4 4
        let t' := t.setCur (t.cur.dropProbes t.seq)
        if n = 0 || nodeNull child then t'.selEnd xc pd child none
        else if t.nodeHere child then
          match t.selectHere child n sum c f l with
          | .uncorr => .trapBy (fun u => u.countBelow (nodeAddr child) (64 * n)) .uncorr (child.setWidth 64)
          | .child i => t'.selEnd xc pd child (some i)
          | .nobody => t'.selEnd xc pd child none
        else if !t.nodeReachable child then .trap .page (pageVal 1 (child.setWidth 64))
        else
          match t.ask (selKey child) fun k o => .nodeSel (t.blockModule (nodeModule child)) k o child n sum c f l with
          | .none r => r
          | .lost => .trap .page (pageVal 1 (child.setWidth 64))
          | .bad => .trapBy id .uncorr (child.setWidth 64)
          | .value v => t'.selEnd xc pd child (if v = 0xFFFF then none else some (v.toNat % 2 ^ 16))

end Sys2Proof.Machine
end

