-- ==== Sys2Proof/Machine/PredOps.lean ====
section
/-! DEFINITION. Major 0x07: predicates (R247). -/

namespace Sys2Proof.Machine

open Sys2Proof

/-- Element width in bytes. -/
def predBytes : PredW → Nat
  | .b => 1 | .h => 2 | .w => 4 | .d => 8

/-- The elements of width w whose governing bit is set, ascending. -/
def predElems (w : Nat) (p : Pred) : List Nat := (List.range (256 / w)).filter fun e => p.getLsbD (w * e)

/-- The n lowest bits set. -/
def lowBits (n : Nat) : Pred := BitVec.ofNat 256 (2 ^ n - 1)

/-- An operation on two predicates. -/
def State.opPP (s : State) (sub : Nat) (h : Hdr) (d a b : PReg) (f : Pred → Pred → Pred) :
    Host.Outcome State Fault Refusal :=
  s.issue (scalar h false 0x07 sub [] [d, a, b]) fun t => .done (t.setP d (f (t.getP a) (t.getP b)))

def execPand (h : Hdr) (d a b : PReg) (s : State) : Host.Outcome State Fault Refusal :=
  s.opPP 0 h d a b (fun a b => a &&& b)

def execPor (h : Hdr) (d a b : PReg) (s : State) : Host.Outcome State Fault Refusal :=
  s.opPP 1 h d a b (fun a b => a ||| b)

def execPxor (h : Hdr) (d a b : PReg) (s : State) : Host.Outcome State Fault Refusal :=
  s.opPP 2 h d a b (fun a b => a ^^^ b)

def execPandn (h : Hdr) (d a b : PReg) (s : State) : Host.Outcome State Fault Refusal :=
  s.opPP 3 h d a b (fun a b => a &&& ~~~b)

def execPmov (h : Hdr) (d a : PReg) (s : State) : Host.Outcome State Fault Refusal :=
  s.issue (scalar h false 0x07 4 [] [d, a]) fun t => .done (t.setP d (t.getP a))

def execPset (h : Hdr) (w : PredW) (d : PReg) (a : XReg) (s : State) : Host.Outcome State Fault Refusal :=
  s.issue (scalar h false 0x07 5 [a] [d]) fun t =>
    .done (t.setP d (lowBits (min ((t.getX a).toNat * predBytes w) 256)))

def execPcnt (h : Hdr) (w : PredW) (d : XReg) (a : PReg) (s : State) : Host.Outcome State Fault Refusal :=
  s.issue (scalar h false 0x07 6 [d] [a]) fun t =>
    .done (t.setX d (w64 (predElems (predBytes w) (t.getP a)).length))

/-- All bits of the lowest element whose bit is set; zero if there is none. -/
def firstElem (w : Nat) (p : Pred) : Pred :=
  match predElems w p with
  | [] => 0
  | e :: _ => lowBits w <<< (w * e)

def execPfirst (h : Hdr) (w : PredW) (d a : PReg) (s : State) : Host.Outcome State Fault Refusal :=
  s.issue (scalar h false 0x07 7 [] [d, a]) fun t => .done (t.setP d (firstElem (predBytes w) (t.getP a)))

end Sys2Proof.Machine
end

