-- ==== Sys2Proof/Machine/Vec.lean ====
section
/-! DEFINITION. Majors 0x16 to 0x1A and 0x1C: element-by-element arithmetic, comparison, selection, logic, shifts,
permutation and reduction (R289 to R300, R304). -/

namespace Sys2Proof.Machine

open Sys2Proof

/-- Events of a tile-row instruction: into the destination tile's status, else into STATUS (R291). -/
def State.destEv (s : State) (d : TileOp) (e : Ev) : State :=
  match d with
  | .tile t _ => s.tileEv t.toNat e
  | _ => s.scalarEv e

/-- Guarded elements of w bytes replaced in a row; the others keep their bytes (R290). -/
def mergeRow (old : Row) (w : Nat) (g : Pred) (f : Nat → Nat × Ev) : Row × Ev :=
  let es := (List.range (256 / w)).map fun e => if guardBit g w e then f e else (elem old w e, 0)
  (rowOfElems w (es.map (·.1)), es.foldl (fun a e => a ||| e.2) 0)

/-- A result row computed element by element and written (R289 to R291). -/
def State.putElems (s : State) (h : Hdr) (w : Nat) (d : TileOp) (f : Nat → Nat × Ev) : State :=
  let (r, e) := mergeRow (s.readOp d w) w (s.guard h) f
  (s.writeOp d r).destEv d e

/-- An instruction of two source rows, and of the old destination where old holds. -/
def State.vec3 (s : State) (maj sub : Nat) (h : Hdr) (w : Nat) (d a b : TileOp) (old : Bool) (f : Nat → Nat → Nat → Nat × Ev) :
    Host.Outcome State Fault Refusal :=
  s.issue (s.elemForm h maj sub w d [a, b] [] old) fun t =>
    let ra := t.readOp a w
    let rb := t.readOp b w
    let rd := t.readOp d w
    .done (t.putElems h w d fun e => f (elem ra w e) (elem rb w e) (elem rd w e))

/-- An instruction of one source row. -/
def State.vec1 (s : State) (maj sub : Nat) (h : Hdr) (w : Nat) (d a : TileOp) (f : Nat → Nat × Ev) :
    Host.Outcome State Fault Refusal :=
  s.issue (s.elemForm h maj sub w d [a] [] false) fun t =>
    let ra := t.readOp a w
    .done (t.putElems h w d fun e => f (elem ra w e))

/-! ## Arithmetic (R294) -/

/-- An exact integer as an element: saturated with SAT, or wrapped. -/
def narrowInt (et : ElemTy) (sat : Bool) (r : Int) : Nat × Ev :=
  if sat then
    let (c, ch) := et.clamp r
    (et.ofInt c, if ch then evSat else 0)
  else (et.ofInt r, 0)

/-- An operation that is exact on integers and rounds once on floating-point elements. -/
def arith (et : ElemTy) (sat : Bool) (fi : Int → Int → Int → Int) (ff : Nat → Nat → Nat → Nat × Ev) (a b d : Nat) : Nat × Ev :=
  if et.isFloat then ff a b d else narrowInt et sat (fi (et.toInt a) (et.toInt b) (et.toInt d))

def execVadd (h : Hdr) (et : ElemTy) (sat : Bool) (d a b : TileOp) (s : State) : Host.Outcome State Fault Refusal :=
  s.vec3 0x16 0 h et.bytes d a b false (arith et sat (fun a b _ => a + b) (fun a b _ => et.fmt.add a b))

def execVsub (h : Hdr) (et : ElemTy) (sat : Bool) (d a b : TileOp) (s : State) : Host.Outcome State Fault Refusal :=
  s.vec3 0x16 1 h et.bytes d a b false (arith et sat (fun a b _ => a - b) (fun a b _ => et.fmt.sub a b))

def execVmul (h : Hdr) (et : ElemTy) (sat : Bool) (d a b : TileOp) (s : State) : Host.Outcome State Fault Refusal :=
  s.vec3 0x16 2 h et.bytes d a b false (arith et sat (fun a b _ => a * b) (fun a b _ => et.fmt.mul a b))

def execVfma (h : Hdr) (et : ElemTy) (sat : Bool) (d a b : TileOp) (s : State) : Host.Outcome State Fault Refusal :=
  s.vec3 0x16 3 h et.bytes d a b true (arith et sat (fun a b d => a * b + d) (fun a b d => et.fmt.fma a b d))

/-- The lesser or greater element. -/
def minMaxElem (et : ElemTy) (isMax : Bool) (a b : Nat) : Nat × Ev :=
  if et.isFloat then et.fmt.minMax isMax a b
  else
    let x := et.toInt a
    let y := et.toInt b
    (et.ofInt (if isMax then max x y else min x y), 0)

def execVmin (h : Hdr) (et : ElemTy) (d a b : TileOp) (s : State) : Host.Outcome State Fault Refusal :=
  s.vec3 0x16 4 h et.bytes d a b false (fun a b _ => minMaxElem et false a b)

def execVmax (h : Hdr) (et : ElemTy) (d a b : TileOp) (s : State) : Host.Outcome State Fault Refusal :=
  s.vec3 0x16 5 h et.bytes d a b false (fun a b _ => minMaxElem et true a b)

/-- Sign bit cleared or inverted; a NaN becomes the canonical one. -/
def signOp (f : Fmt) (clear : Bool) (a : Nat) : Nat × Ev :=
  let v := f.dec a
  if v.isNan then (f.nanBits, if v.isSnan then evInv else 0)
  else (if clear then a % f.signBit else (a + f.signBit) % (2 * f.signBit), 0)

def execVabs (h : Hdr) (et : ElemTy) (sat : Bool) (d a : TileOp) (s : State) : Host.Outcome State Fault Refusal :=
  s.vec1 0x16 6 h et.bytes d a fun a =>
    if et.isFloat then signOp et.fmt true a else narrowInt et sat (et.toInt a).natAbs

def execVneg (h : Hdr) (et : ElemTy) (sat : Bool) (d a : TileOp) (s : State) : Host.Outcome State Fault Refusal :=
  s.vec1 0x16 7 h et.bytes d a fun a =>
    if et.isFloat then signOp et.fmt false a else narrowInt et sat (-(et.toInt a))

/-! ## Compare, select, move (R295, R296) -/

/-- A condition on two elements. -/
def elemCond (et : ElemTy) (c : FCond) (a b : Nat) : Bool × Ev :=
  if et.isFloat then et.fmt.cond c a b
  else
    let x := et.toInt a
    let y := et.toInt b
    (match c with
      | .eq => decide (x = y)
      | .ne => decide (x ≠ y)
      | .lt => decide (x < y)
      | .le => decide (x ≤ y)
      | .gt => decide (y < x)
      | .ge => decide (y ≤ x)
      | .un => false
      | .ord => true, 0)

/-- The predicate bits of an element of w bytes. -/
def elemBits (w e : Nat) : Pred := lowBits w <<< (w * e)

/-- Guarded elements' results written to pD, their complements to p(D xor 1) (R207). -/
def State.putPair (s : State) (d : PReg) (g : Pred) (w : Nat) (f : Nat → Bool) : State :=
  let es := (List.range (256 / w)).filter (guardBit g w)
  let mask := es.foldl (fun m e => m ||| elemBits w e) 0
  let yes := (es.filter f).foldl (fun m e => m ||| elemBits w e) 0
  let s1 := s.setP d ((s.getP d &&& ~~~mask) ||| yes)
  let d1 := d ^^^ 1
  s1.setP d1 ((s1.getP d1 &&& ~~~mask) ||| (mask &&& ~~~yes))

def execVcmp (h : Hdr) (c : FCond) (et : ElemTy) (d : PReg) (a b : TileOp) (s : State) : Host.Outcome State Fault Refusal :=
  s.issue (tileForm h 0x17 0 [] [a, b] [d, d ^^^ 1]) fun t =>
    let w := et.bytes
    let g := t.guard h
    let ra := t.readOp a w
    let rb := t.readOp b w
    let r (e : Nat) := elemCond et c (elem ra w e) (elem rb w e)
    let ev := ((List.range (256 / w)).filter (guardBit g w)).foldl (fun m e => m ||| (r e).2) 0
    .done ((t.putPair d g w fun e => (r e).1).scalarEv ev)

def execVsel (h : Hdr) (et : ElemTy) (d a b : TileOp) (p : BitVec 3) (s : State) : Host.Outcome State Fault Refusal :=
  let w := et.bytes
  s.issue (s.elemForm h 0x17 1 w d [a, b] [p.setWidth 4] false) fun t =>
    let ra := t.readOp a w
    let rb := t.readOp b w
    let pn := t.getP (p.setWidth 4)
    .done (t.putElems h w d fun e => (if guardBit pn w e then elem ra w e else elem rb w e, 0))

def execVmov (h : Hdr) (et : ElemTy) (d a : TileOp) (s : State) : Host.Outcome State Fault Refusal :=
  s.vec1 0x17 2 h et.bytes d a fun a => (a, 0)

/-! ## Logic (R297) -/

def execVand (h : Hdr) (et : ElemTy) (d a b : TileOp) (s : State) : Host.Outcome State Fault Refusal :=
  s.vec3 0x18 0 h et.bytes d a b false (fun a b _ => (a &&& b, 0))

def execVor (h : Hdr) (et : ElemTy) (d a b : TileOp) (s : State) : Host.Outcome State Fault Refusal :=
  s.vec3 0x18 1 h et.bytes d a b false (fun a b _ => (a ||| b, 0))

def execVxor (h : Hdr) (et : ElemTy) (d a b : TileOp) (s : State) : Host.Outcome State Fault Refusal :=
  s.vec3 0x18 2 h et.bytes d a b false (fun a b _ => (a ^^^ b, 0))

/-- A byte of the three-input table: TABLE[4 c + 2 a + b] at every bit position. -/
def lop3 (table : BitVec 8) (a b c : Nat) : Nat :=
  ((List.range 8).map fun i =>
    if table.getLsbD (4 * natBits c i 1 + 2 * natBits a i 1 + natBits b i 1) then 2 ^ i else 0).foldl (· + ·) 0

def execVlop3 (h : Hdr) (table : BitVec 8) (d a b : TileOp) (s : State) : Host.Outcome State Fault Refusal :=
  s.vec3 0x18 3 h 1 d a b true (fun a b c => (lop3 table a b c, 0))

/-! ## Shifts and funnels (R298, R299) -/

/-- 2^s where s is below n, and 0 stands for every larger s. -/
def shlElem (et : ElemTy) (a s : Nat) : Nat := if et.bits ≤ s then 0 else a * 2 ^ s % 2 ^ et.bits

def shrElem (et : ElemTy) (a s : Nat) : Nat := if et.bits ≤ s then 0 else a / 2 ^ s

def sraElem (et : ElemTy) (a s : Nat) : Nat :=
  let neg := decide (2 ^ (et.bits - 1) ≤ a)
  let v : Int := if neg then (a : Int) - 2 ^ et.bits else a
  et.ofInt (if et.bits ≤ s then (if neg then -1 else 0) else v / 2 ^ s)

def execVshl (h : Hdr) (et : ElemTy) (d a b : TileOp) (s : State) : Host.Outcome State Fault Refusal :=
  s.vec3 0x19 0 h et.bytes d a b false (fun a b _ => (shlElem et a b, 0))

def execVshr (h : Hdr) (et : ElemTy) (d a b : TileOp) (s : State) : Host.Outcome State Fault Refusal :=
  s.vec3 0x19 1 h et.bytes d a b false (fun a b _ => (shrElem et a b, 0))

def execVsra (h : Hdr) (et : ElemTy) (d a b : TileOp) (s : State) : Host.Outcome State Fault Refusal :=
  s.vec3 0x19 2 h et.bytes d a b false (fun a b _ => (sraElem et a b, 0))

def funnelL (et : ElemTy) (a b d : Nat) : Nat :=
  let n := et.bits
  let s := b % n
  (d * 2 ^ s + a * 2 ^ s / 2 ^ n) % 2 ^ n

def funnelR (et : ElemTy) (a b d : Nat) : Nat :=
  let n := et.bits
  let s := b % n
  (d / 2 ^ s + a * 2 ^ (n - s)) % 2 ^ n

def execVfunl (h : Hdr) (et : ElemTy) (d a b : TileOp) (s : State) : Host.Outcome State Fault Refusal :=
  s.vec3 0x19 3 h et.bytes d a b true (fun a b d => (funnelL et a b d, 0))

def execVfunr (h : Hdr) (et : ElemTy) (d a b : TileOp) (s : State) : Host.Outcome State Fault Refusal :=
  s.vec3 0x19 4 h et.bytes d a b true (fun a b d => (funnelR et a b d, 0))

/-! ## Moves of whole elements (R300) -/

/-- An instruction whose element e comes from element `idx` of the source, 0 where that lies outside. -/
def State.vecMove (s : State) (maj sub : Nat) (h : Hdr) (et : ElemTy) (d a b : TileOp) (idx : Row → Nat → Nat) :
    Host.Outcome State Fault Refusal :=
  let w := et.bytes
  s.issue (s.elemForm h maj sub w d [a, b] [] false) fun t =>
    let ra := t.readOp a w
    let rb := t.readOp b w
    .done (t.putElems h w d fun e =>
      let i := idx rb e
      (if 256 / w ≤ i then 0 else elem ra w i, 0))

def execVrot (h : Hdr) (et : ElemTy) (d a b : TileOp) (s : State) : Host.Outcome State Fault Refusal :=
  s.vecMove 0x19 5 h et d a b fun rb e => (e + elem rb et.bytes 0) % (256 / et.bytes)

def execVperm (h : Hdr) (et : ElemTy) (d a b : TileOp) (s : State) : Host.Outcome State Fault Refusal :=
  s.vecMove 0x1A 0 h et d a b fun rb e => elem rb et.bytes e

def execVbcast (h : Hdr) (et : ElemTy) (d a b : TileOp) (s : State) : Host.Outcome State Fault Refusal :=
  s.vecMove 0x1A 1 h et d a b fun rb _ => elem rb et.bytes 0

/-! ## Reductions (R304) -/

/-- The identity of a reduction, as a pattern. -/
def redIdentity (op : RedOp) (et : ElemTy) : Nat :=
  match op with
  | .add => if et.isFloat then et.fmt.signBit else 0
  | .min => if et.isFloat then et.fmt.infBits else et.ofInt et.maxInt
  | .max => if et.isFloat then et.fmt.signBit + et.fmt.infBits else et.ofInt et.minInt
  | .band => 2 ^ et.bits - 1
  | .bor | .bxor => 0

/-- One level of the tree: neighbours combined. -/
def pairUp (f : Nat → Nat → Nat × Ev) (l : List Nat) : List Nat × Ev :=
  match l with
  | a :: b :: rest =>
    let (r, e) := f a b
    let (more, e') := pairUp f rest
    (r :: more, e ||| e')
  | l => (l, 0)

/-- The fixed tree over n elements, n a power of two at most 2^fuel. -/
def treeGo (f : Nat → Nat → Nat × Ev) (fuel : Nat) (l : List Nat) (ev : Ev) : Nat × Ev :=
  match fuel with
  | 0 => (l.headD 0, ev)
  | k + 1 =>
    match l with
    | [] => (0, ev)
    | [a] => (a, ev)
    | l =>
      let (l', e) := pairUp f l
      treeGo f k l' (ev ||| e)

/-- The combination of two elements of a reduction other than an integer sum. -/
def redPair (op : RedOp) (et : ElemTy) (a b : Nat) : Nat × Ev :=
  match op with
  | .add => et.fmt.add a b
  | .min => minMaxElem et false a b
  | .max => minMaxElem et true a b
  | .band => (a &&& b, 0)
  | .bor => (a ||| b, 0)
  | .bxor => (a ^^^ b, 0)

def reduce (op : RedOp) (et : ElemTy) (sat : Bool) (l : List Nat) : Nat × Ev :=
  if op = .add ∧ !et.isFloat then narrowInt et sat ((l.map et.toInt).foldl (· + ·) 0)
  else treeGo (redPair op et) 8 l 0

def execVred (h : Hdr) (op : RedOp) (et : ElemTy) (sat : Bool) (d a : TileOp) (s : State) :
    Host.Outcome State Fault Refusal :=
  let w := et.bytes
  s.issue (s.elemForm h 0x1C 0 w d [a] [] true) fun t =>
    let g := t.guard h
    let ra := t.readOp a w
    let src := (List.range (256 / w)).map fun e => if guardBit g w e then elem ra w e else redIdentity op et
    let (r, ev) := reduce op et sat src
    let old := t.readOp d w
    .done ((t.writeOp d (rowOfElems w (r :: (elems old w).tail))).destEv d ev)

end Sys2Proof.Machine
end

