-- ==== Sys2Proof/Machine/VecFun.lean ====
section
/-! DEFINITION. Majors 0x1B, 0x1D, 0x1E and 0x20: conversions, packing, transcendental functions, random draws and
space-filling-curve keys (R301 to R303, R305 to R307, R312). -/

namespace Sys2Proof.Machine

open Sys2Proof

/-! ## Conversions (R301) -/

/-- Element e of a source row converted; under SR its group is the aligned 16 source elements (R188). -/
def vcvtElem (src dst : ElemTy) (sat : Bool) (rm : RMode) (row : Row) (e : Nat) : Nat × Ev :=
  let v := elem row src.bytes e
  if src = dst then
    if src.isFloat && (src.fmt.dec v).isSnan then (src.fmt.nanBits, evInv) else (v, 0)
  else
    let g := e / 16 * 16
    let disc (i : Nat) := discardTy dst (src.val (elem row src.bytes (g + i % 16)))
    let u := if rm = .sr then srWord (disc (e - g + 15)) (disc (e - g + 1)) (e - g) else 0
    convert src dst rm sat u v

/-- `vcvt` (R301): the results of 256 / Max(wf, wt) elements; the other bytes of the row stay. -/
def execVcvt (h : Hdr) (dst src : ElemTy) (sat : Bool) (rm : RMode) (d a : TileOp) (s : State) :
    Host.Outcome State Fault Refusal :=
  s.issue (s.elemForm h 0x1B 0 dst.bytes d [a] [] (decide (dst.bytes < src.bytes))) fun t =>
    let wt := dst.bytes
    let n := 256 / max src.bytes wt
    let ra := t.readOp a src.bytes
    let rd := t.readOp d wt
    .done (t.putElems h wt d fun e => if e < n then vcvtElem src dst sat rm ra e else (elem rd wt e, 0))

/-- `vpack` (R302). A false-guarded element enters its block as +0. -/
def execVpack (h : Hdr) (rm : RMode) (d a : TileOp) (g : GReg) (s : State) : Host.Outcome State Fault Refusal :=
  s.issue (tileForm h 0x1B 1 [d] [a] []) fun t =>
    let gv := Tbl.getD t.cur.g g.toNat 0
    if !gPackOk gv then .trap .illegal 0
    else
      let m := gM gv
      let gd := t.guard h
      let src := elems (t.readOp a 4) 4
      let xs := (List.range 64).map fun e => if guardBit gd 4 e then src.getD e 0 else 0
      let bs := List.zipWith (fun x y => toBfpFrom x y m rm) (blocksOf (gBl gv) 64 xs) (blocksOf (gBl gv) 64 src)
      let mant := packMant m ((bs.map fun b => b.1.m).flatten)
      let scales := leNat (bs.map fun b => BitVec.ofNat 8 b.1.e)
      let ev := bs.foldl (fun e b => e ||| b.2) 0
      .done ((t.writeOp d (BitVec.ofNat 2048 (mant + scales * 2 ^ 1024))).destEv d ev)

/-- `vunpk` (R303). -/
def execVunpk (h : Hdr) (d a : TileOp) (g : GReg) (s : State) : Host.Outcome State Fault Refusal :=
  s.issue (s.elemForm h 0x1B 2 4 d [a] [] false) fun t =>
    let gv := Tbl.getD t.cur.g g.toNat 0
    if !gPackOk gv then .trap .illegal 0
    else
      let r := t.readOp a 4
      .done (t.putElems h 4 d fun e =>
        (bfpTo32 (mantAt (gM gv) r.toNat e) (byteAt r (128 + e / gBl gv)).toNat (gM gv), 0))

/-! ## Transcendental functions (R305) -/

def execVexp (h : Hdr) (et : ElemTy) (d a : TileOp) (s : State) : Host.Outcome State Fault Refusal :=
  s.vec1 0x1D 0 h et.bytes d a fun v => et.fmt.op (et.fmt.dec v).exp

def execVlog (h : Hdr) (et : ElemTy) (d a : TileOp) (s : State) : Host.Outcome State Fault Refusal :=
  s.vec1 0x1D 1 h et.bytes d a fun v => et.fmt.op (et.fmt.dec v).log

def execVrcp (h : Hdr) (et : ElemTy) (d a : TileOp) (s : State) : Host.Outcome State Fault Refusal :=
  s.vec1 0x1D 2 h et.bytes d a fun v => et.fmt.op (et.fmt.dec v).rcp

def execVrsq (h : Hdr) (et : ElemTy) (d a : TileOp) (s : State) : Host.Outcome State Fault Refusal :=
  s.vec1 0x1D 3 h et.bytes d a fun v => et.fmt.op (et.fmt.dec v).rsq

/-! ## Random draws (R306, R307) -/

/-- The draw of lane l of an instance (R140). -/
def Inst.draw (i : Inst) (l : Nat) : Word32 := gen32 i.key i.rpos i.ridx (BitVec.ofNat 16 (i.inst * 64 + l))

/-- One draw of every lane: the draws and the state with the counter advanced; none when a wrap is refused (R139, R306). -/
def State.drawRow (s : State) : Option (State × (Nat → Word32)) :=
  match s.inst with
  | none => none
  | some i =>
    let (pos, idx, wrap) := nextDraw i.rpos i.ridx
    if wrap && !i.flags.getLsbD 1 then none
    else
      let t := s.setCur { s.cur with inst := some { i with rpos := pos, ridx := idx } }
      some (if wrap then t.orSticky 0b10000 else t, i.draw)

/-- `vrng` (R307). -/
def execVrng (h : Hdr) (et : ElemTy) (d : TileOp) (s : State) : Host.Outcome State Fault Refusal :=
  s.issue (s.elemForm h 0x1E 0 4 d [] [] false) fun t =>
    match t.drawRow with
    | none => .trap .rngWrap 0
    | some (u, b) => .done (u.putElems h 4 d fun e => (if et.isFloat then uniform32 (b e) else (b e).toNat, 0))

/-- `vbern` (R307). -/
def execVbern (h : Hdr) (d : PReg) (a : TileOp) (s : State) : Host.Outcome State Fault Refusal :=
  s.issue (tileForm h 0x1E 1 [] [a] [d, d ^^^ 1]) fun t =>
    let q := t.readOp a 4
    match t.drawRow with
    | none => .trap .rngWrap 0
    | some (u, b) => .done (u.putPair d (t.guard h) 4 fun e => decide ((b e).toNat / 2 ^ 16 < elem q 4 e % 2 ^ 16))

/-! ## Space-filling-curve keys (R171, R312) -/

/-- The first loop of the Hilbert transform at one bit q: X[i] against X[0]. -/
def hilbertRow (q : Nat) (xs : List Nat) (i : Nat) : List Nat :=
  let x0 := xs.getD 0 0
  let xi := xs.getD i 0
  if xi &&& q ≠ 0 then xs.set 0 (x0 ^^^ (q - 1))
  else
    let t := (x0 ^^^ xi) &&& (q - 1)
    let ys := xs.set 0 (x0 ^^^ t)
    ys.set i (ys.getD i 0 ^^^ t)

/-- The first loop for q = 2^b down to 2. -/
def hilbertDown (n b : Nat) (xs : List Nat) : List Nat :=
  match b with
  | 0 => xs
  | k + 1 => hilbertDown n k ((List.range n).foldl (hilbertRow (2 ^ (k + 1))) xs)

/-- X[i] becomes X[i] xor X[i - 1], ascending. -/
def grayUp (prev : Nat) (xs : List Nat) : List Nat :=
  match xs with
  | [] => []
  | x :: rest => (x ^^^ prev) :: grayUp (x ^^^ prev) rest

/-- The Hilbert transform of R171 on n coordinates of b bits. -/
def hilbert (b : Nat) (xs : List Nat) : List Nat :=
  let ys := grayUp 0 (hilbertDown xs.length (b - 1) xs)
  let last := ys.getLastD 0
  let t := ((List.range (b - 1)).map fun k => if last &&& 2 ^ (k + 1) ≠ 0 then 2 ^ (k + 1) - 1 else 0).foldl (· ^^^ ·) 0
  ys.map fun y => y ^^^ t

/-- Key bit n j + (n - 1 - i) is X[i][j]; the key is moved to the top of 64 bits (R171). -/
def interleave (b : Nat) (xs : List Nat) : Nat :=
  let n := xs.length
  let k := ((List.range n).map fun i =>
    ((List.range b).map fun j => natBits (xs.getD i 0) j 1 * 2 ^ (n * j + (n - 1 - i))).foldl (· + ·) 0).foldl (· + ·) 0
  k * 2 ^ (64 - n * b)

/-- Bits of a coordinate for n dimensions. -/
def curveBits (n : Nat) : Nat := if n = 2 then 32 else if n = 3 then 21 else 16

/-- The 64-bit key of u32 coordinates (R171). -/
def curveKey (isHilbert : Bool) (cs : List Nat) : Nat :=
  let b := curveBits cs.length
  let xs := cs.map fun c => c / 2 ^ (32 - b)
  interleave b (if isHilbert then hilbert b xs else xs)

/-- `vsfc` (R312). -/
def execVsfc (h : Hdr) (isHilbert : Bool) (dims : BitVec 2) (d : TileOp) (t : BitVec 5) (r : BitVec 4) (s : State) :
    Host.Outcome State Fault Refusal :=
  let n := dims.toNat + 2
  s.issue { tileForm h 0x20 0 [d] [.tile t r] [] with rr := rowsOf t.toNat r.toNat n ++ (if s.keepsOld h 8 then rowOf d else []) } fun u =>
    let rows := (List.range n).map fun i => u.cur.row t.toNat (r.toNat + i)
    .done (u.putElems h 8 d fun e => (curveKey isHilbert (rows.map fun v => elem v 4 e), 0))

end Sys2Proof.Machine
end

