-- ==== Sys2Proof/Machine/Fabric.lean ====
section
/-! DEFINITION. Major 0x2C: collectives, the quadrille, dispatch tables and failover (R158 to R174, R347, R348, R401, R419). -/

namespace Sys2Proof.Machine

open Sys2Proof

/-! ## Collective sets (R158, R401) -/

/-- A set as its participant's die holds it. RANKS and ROUTE are physical, as COLLBASE is (log entry 8). -/
structure CollSet where
  p : Nat
  rank : Nat
  ranks : List Nat
  route : List Nat
  digest : List Byte
  deriving DecidableEq, Repr

def State.collSet (s : State) (die setId : Nat) : Option CollSet :=
  let r := s.physBytes ((s.getDie die).collbase.toNat + 32 * setId) 32
  let p := fld r 0 2
  if setId < 64 ∧ fld r 4 4 % 2 = 1 ∧ 1 ≤ p ∧ p ≤ 16384 then
    let a := s.physBytes (fld r 8 8) (2 * p)
    let b := s.physBytes (fld r 16 8) (2 * p)
    some ⟨p, fld r 2 2, (List.range p).map fun i => fld a (2 * i) 2, (List.range p).map fun i => fld b (2 * i) 2, sha256 (a ++ b)⟩
  else none

/-! ## Acceptance (R347) -/

/-- What reading a descriptor at acceptance answers. -/
inductive AccRead where
  | ok (bs : List Byte)
  | uncorr (va : Nat)
  | stop (r : Res)

/-- The bytes of a descriptor as the command's first read; another module's are asked for. -/
def State.accRead (s : State) (via : List (Nat × Nat × Xl)) : AccRead :=
  match via with
  | [] => .ok []
  | (va, n, x) :: rest =>
    let one : AccRead :=
      if placeRemote x then
        match s.peekWords (w64 va) x n with
        | .ok bs => .ok bs
        | .error r => .stop r
      else if s.copyHeld (some s.core) x then .stop .wait
      else match s.readEng s.core x n with
        | some bs => .ok bs
        | none => .uncorr va
    match one with
    | .ok bs =>
      match State.accRead s rest with
      | .ok more => .ok (bs ++ more)
      | r => r
    | r => r

/-- The number under which a command that is refused with a STATUS waits for its write. -/
def refusedSet : Nat := 2 ^ 16

/-- A command taken in with its descriptor of n bytes: go answers what it becomes (R347). -/
def State.takeDesc (s : State) (h : Hdr) (sub n : Nat) (xa : XReg) (acq rel : OScope) (k : Ctr)
    (go : State → Word64 → List Byte → State × OpKind) : Host.Outcome State Fault Refusal :=
  let f := cmdForm h 0x2C sub [xa] []
  s.issueAsync f 0x2C sub k fun _ t =>
    t.acceptWith f 0x2C sub k acq fun u =>
      let addr := u.getX xa
      match u.checkParts .read 64 (lineCuts (n / 128 + 2) addr.toNat n) with
      | .error e => e.res
      | .ok via =>
        let u := u.touchVia via
        match u.accRead via with
        | .stop r => r
        | .uncorr va =>
          let op := u.cur.nextOp
          let u := u.addOp f 0x2C sub k acq rel .null false
          match u.cur.findOp op with
          | some o => .done (u.failOp u.core o 12 0 (w64 va) 0)
          | none => .done u
        | .ok bs =>
          let u := u.setCur (u.cur.dropProbesIn u.seq addr.toNat n)
          let (u, kind) := go u addr bs
          .done (u.addOp f 0x2C sub k acq rel kind false)

/-- The next number of a die's commands on a set (R158). -/
def State.nextOnSet (s : State) (die setId : Nat) : State × Nat :=
  let d := s.getDie die
  let n := Tbl.getD d.collCount setId 0
  (s.setDie die { d with collCount := Tbl.set d.collCount setId (n + 1) }, n)

/-- A collective descriptor breaks a rule of its own (R160). -/
def collBad (opc : Nat) (b : List Byte) : Bool :=
  let mode := fld b 1 1
  fld b 0 1 != opc || decide (2 < mode) || decide (2 < fld b 2 1) || decide (1 < fld b 3 1) ||
    (mode = 1 && fld b 2 1 != 0) || (mode = 2 && (opc = 0 || opc = 2)) ||
    !(decide (-512 ≤ (BitVec.ofNat 16 (fld b 6 2)).toInt ∧ (BitVec.ofNat 16 (fld b 6 2)).toInt ≤ 511)) ||
    fld b 8 4 = 0 || fld b 0x0C 4 != 0 || !((slice b 0x24 28).all fun x => x = 0)

def State.coll (s : State) (h : Hdr) (opc : Nat) (xa : XReg) (acq rel : OScope) (k : Ctr) : Host.Outcome State Fault Refusal :=
  s.takeDesc h opc 64 xa acq rel k fun u addr b =>
    let setId := fld b 4 2
    match u.collSet u.die setId with
    | none => (u, .coll addr b refusedSet 0 none)
    | some _ =>
      let (u, n) := u.nextOnSet u.die setId
      if collBad opc b then (u, .coll addr b refusedSet 0 none) else (u, .coll addr b setId n none)

def execCollAr (h : Hdr) (xa : XReg) (acq rel : OScope) (k : Ctr) (s : State) : Host.Outcome State Fault Refusal :=
  s.coll h 0 xa acq rel k

def execCollAg (h : Hdr) (xa : XReg) (acq rel : OScope) (k : Ctr) (s : State) : Host.Outcome State Fault Refusal :=
  s.coll h 1 xa acq rel k

def execCollRs (h : Hdr) (xa : XReg) (acq rel : OScope) (k : Ctr) (s : State) : Host.Outcome State Fault Refusal :=
  s.coll h 2 xa acq rel k

def execCollA2a (h : Hdr) (xa : XReg) (acq rel : OScope) (k : Ctr) (s : State) : Host.Outcome State Fault Refusal :=
  s.coll h 3 xa acq rel k

/-- Bytes of the key, coordinates or handle of a record (R170). -/
def keySize (kind dims : Nat) : Nat := match kind with | 0 => 8 | 3 => 4 | _ => 4 * dims

/-- A quadrille descriptor breaks a rule of its own (R170). -/
def repartBad (b : List Byte) : Bool :=
  let kind := fld b 0 1
  let dims := fld b 1 1
  let bits := fld b 2 1
  let rsize := fld b 6 2
  decide (3 < kind) || !(match kind with | 1 => decide (2 ≤ dims ∧ dims ≤ 4) | 2 => decide (2 ≤ dims ∧ dims ≤ 3) | _ => dims = 0) ||
    !(if kind = 3 then decide (1 ≤ bits ∧ bits ≤ 16) else bits = 0) || fld b 3 1 != 0 ||
    rsize % 16 != 0 || decide (rsize < 16) || decide (4096 < rsize) || fld b 8 8 % 16 != 0 || fld b 0x18 8 % 16 != 0 ||
    fld b 0x20 8 % 16 != 0 || decide (rsize < fld b 0x30 2 + keySize kind dims) ||
    (fld b 0x32 2 != 0xFFFF && decide (rsize < fld b 0x32 2 + 4)) || fld b 0x44 4 != 0 ||
    !((slice b 0x50 48).all fun x => x = 0)

def execRepart (h : Hdr) (xa : XReg) (acq rel : OScope) (k : Ctr) (s : State) : Host.Outcome State Fault Refusal :=
  s.takeDesc h 4 128 xa acq rel k fun u addr b =>
    let setId := fld b 4 2
    match u.collSet u.die setId with
    | none => (u, .repart addr b refusedSet 0 none)
    | some _ =>
      let (u, n) := u.nextOnSet u.die setId
      if repartBad b then (u, .repart addr b refusedSet 0 none) else (u, .repart addr b setId n none)

/-! ## Matching (R158, R159, R163) -/

/-- A command of a core here on a set: whether it is a `repart`, its descriptor and that one's address. -/
structure OnSet where
  core : Nat
  o : Op
  re : Bool
  desc : List Byte
  addr : Word64
  deriving DecidableEq, Repr

/-- Where a descriptor's STATUS lies, and PEERLOST, MISMATCH and BADREQ in it (R159, R170). -/
def OnSet.statusAt (x : OnSet) : Nat := if x.re then 0x34 else 0x20

def OnSet.lostBit (x : OnSet) : Nat := if x.re then 16 else 64

def OnSet.mismatchBit (x : OnSet) : Nat := if x.re then 8 else 32

def OnSet.badBit (x : OnSet) : Nat := if x.re then 4 else 16

/-- A participant of an operation: a command of a core here, or what another module has contributed. -/
inductive Party where
  | here (x : OnSet)
  | far (c : Contribution)
  | missing
  /-- its module cannot be reached, or it has failed here (R163, R347, R417) -/
  | gone
  deriving DecidableEq, Repr

/-- A command as one on this set with this number. -/
def onSetOf (setId n core : Nat) (o : Op) : Option OnSet :=
  if o.done then none
  else
    match o.kind with
    | .coll a d i k _ => if i = setId && k = n then some ⟨core, o, false, d, a⟩ else none
    | .repart a d i k _ => if i = setId && k = n then some ⟨core, o, true, d, a⟩ else none
    | _ => none

/-- The outstanding commands with one number on a set, of every die: COLLBASE is a die's own, so that these may be commands
of several sets (R158, R401). -/
def State.onSet (s : State) (setId n : Nat) : List OnSet :=
  (s.cores.map fun c => c.2.ops.filterMap (onSetOf setId n c.1)).flatten

/-- The participant of a rank; lost where the command here has failed at its source (R347). -/
def State.partyOf (s : State) (setId n : Nat) (l : List OnSet) (others : List Contribution) (e r : Nat) : Party :=
  if natBits e 0 12 = s.modId.toNat then
    match l.find? fun x => coreDie x.core = natBits e 14 2 with
    | some x => .here x
    | none => if (s.getDie (natBits e 14 2)).collFailed.contains (setId, n) then .gone else .missing
  else
    match others.find? fun c => c.rank = r with
    | some c => .far c
    | none => if s.mgmt.reachable.contains (natBits e 0 12) then .missing else .gone

def Party.isMissing : Party → Bool | .missing => true | _ => false

def Party.isLost : Party → Bool | .far c => c.lost | .gone => true | _ => false

/-! ### The writes of a matched command, which other agents can see one at a time (R40, R163, R174) -/

/-- A write cut at 128-byte lines. -/
def cutWrite (w : Nat × List Byte) : List (Nat × List Byte) :=
  (lineCuts (w.2.length / 128 + 2) w.1 w.2.length).map fun p => (p.1, slice w.2 (p.1 - w.1) p.2)

/-- A matched command's writes from here on, and whether it ends PEERLOST. -/
def OpKind.leave (k : OpKind) (ws : List (Nat × List Byte)) (lost : Bool) : OpKind :=
  match k with
  | .coll a d i n _ => .coll a d i n (some (ws, lost))
  | .repart a d i n _ => .repart a d i n (some (ws, lost))
  | k => k

def State.setLeft (s : State) (core id : Nat) (ws : List (Nat × List Byte)) (lost : Bool) : State :=
  s.setCore core ((s.getCore core).updOp id fun o => { o with kind := o.kind.leave ws lost })

/-- A command is to make these writes and then to end. -/
def State.collEnd (s : State) (x : OnSet) (ws : List (Nat × List Byte)) (lost : Bool) : State :=
  s.setLeft x.core x.o.id (ws.map cutWrite).flatten lost

/-- Commands of this module all end with a STATUS and no output (R159, R170). -/
def State.allStatus (s : State) (l : List OnSet) (bit : OnSet → Nat) : State :=
  l.foldl (fun t x => t.collEnd x [(x.addr.toNat + x.statusAt, leBytes 4 (bit x))] false) s

/-- Writes made in order up to one that cannot be: what is left, and why. -/
def State.writeList (s : State) (g : Agent) (ws : List (Nat × List Byte)) : State × List (Nat × List Byte) × Option EFail :=
  match ws with
  | [] => (s, [], none)
  | (a, bs) :: rest =>
    match s.vwrite g a bs with
    | (t, none) => State.writeList t g rest
    | (t, some e) => (if e.waits then s else t, ws, some e)

/-- A command whose writes have all been made: it ends once those to other modules that REL covers are acknowledged (R231);
where a participant was lost its record names the set (R163). -/
def State.collOver (s : State) (core : Nat) (o : Op) (setId : Nat) (lost : Bool) (dst : Word64) : State :=
  match s.counting core o none 0 dst with
  | .ok t => if lost then t.failOp core o 13 3 (w64 setId) 0 else t.doneOp core o.id
  | .wait t => t
  | .fail e => s.failOpE core o e 0

/-- A matched command makes some of its writes. -/
def State.collStep (s : State) (x : OnSet) : State :=
  let go (setId : Nat) (ws : List (Nat × List Byte)) (lost : Bool) : State :=
    let k := ws.length - s.freeBelow (2 ^ 96) ws.length
    match s.writeList (s.opAgent x.core x.o) (ws.take k) with
    | (t, [], none) =>
      let t := t.setLeft x.core x.o.id (ws.drop k) lost
      if ws.length ≤ k then t.collOver x.core x.o setId lost (w64 (fld x.desc 0x18 8)) else t
    | (t, rest, some e) =>
      if lost && !e.waits then t.setLeft x.core x.o.id (ws.drop (k - rest.length + 1)) lost
      else (t.setLeft x.core x.o.id (rest ++ ws.drop k) lost).failOpE x.core x.o e 0
    | (t, _, none) => t
  match x.o.kind with
  | .coll _ _ i _ (some (ws, lost)) => go i ws lost
  | .repart _ _ i _ (some (ws, lost)) => go i ws lost
  | _ => s

def OnSet.matched (x : OnSet) : Bool :=
  match x.o.kind with
  | .coll _ _ _ _ (some _) | .repart _ _ _ _ (some _) => true
  | _ => false

/-! ### Contributions -/

def collElem (b : List Byte) : Nat := if fld b 1 1 = 2 then 1 else 4

def collOutElem (b : List Byte) : Nat := if fld b 1 1 = 2 then 1 else if fld b 1 1 = 1 ∧ fld b 3 1 = 1 then 16 else 4

/-- Blocks of source and of destination. -/
def collBlocks (b : List Byte) (p : Nat) : Nat × Nat :=
  match fld b 0 1 with
  | 0 => (1, 1) | 1 => (1, p) | 2 => (p, 1) | _ => (p, p)

/-- Where a command reads its source, and where it receives. -/
def OnSet.source (x : OnSet) (p : Nat) : Nat × Nat :=
  if x.re then (fld x.desc 8 8, fld x.desc 6 2 * fld x.desc 0x10 4)
  else (fld x.desc 0x10 8, fld x.desc 8 4 * collElem x.desc * (collBlocks x.desc p).1)

def OnSet.dest (x : OnSet) (p : Nat) : Nat × Nat :=
  if x.re then (fld x.desc 0x18 8, fld x.desc 6 2 * fld x.desc 0x14 4)
  else (fld x.desc 0x18 8, fld x.desc 8 4 * collOutElem x.desc * (collBlocks x.desc p).2)

/-- The source bytes of a command here. -/
def State.collSrc (s : State) (p : Nat) (x : OnSet) : Except EFail (List Byte) :=
  s.vread (s.opAgent x.core x.o) x.o.answer (x.source p).1 (x.source p).2

/-- A participant was lost: free bytes in DST, PEERLOST in STATUS, a record that names the set (R163). -/
def State.peerLost (s : State) (p : Nat) (l : List OnSet) : State :=
  l.foldl (fun t x =>
    let r := x.dest p
    t.collEnd x [(r.1, (List.range r.2).map fun i => t.freeByte (r.1 + i + 2 ^ 93)), (x.addr.toNat + x.statusAt, leBytes 4 x.lostBit)]
      true) s

/-- The set has participants on other modules. -/
def CollSet.spans (cs : CollSet) (module : Nat) : Bool := cs.ranks.any fun e => natBits e 0 12 != module

/-- A participant's own source failed: its command fails, the others complete PEERLOST, those not yet issued as they come; other
modules hear of it (R347); bytes not yet here are asked for. -/
def State.sourceFails (s : State) (setId n : Nat) (cs : CollSet) (l : List OnSet) (x : OnSet) (e : EFail) : State :=
  let t := s.failOpE x.core x.o e 0
  if e.waits then t
  else
    let t := t.peerLost cs.p (l.filter fun y => y != x)
    let d := t.getDie (coreDie x.core)
    let t := t.setDie (coreDie x.core) { d with collFailed := (setId, n) :: d.collFailed }
    if cs.spans s.modId.toNat then t.emit (.collective setId n [] []) else t

/-! ### Keys (R171, R172) -/

/-- Digits of a node from the leaf up; none where a parent lies on another module or an index is out of range (R172).
fuel bounds the chain. -/
def State.treeDigits (s : State) (bits : Nat) (fuel : Nat) (hd : Word32) (acc : List Nat) : Option (List Nat) :=
  match fuel with
  | 0 => none
  | k + 1 =>
    let p := s.parentOf hd
    if nodeNull p then some acc
    else if !s.nodeHere p then none
    else
      let first := nodeLocal (BitVec.ofNat 32 (s.nodeFld p 24 4))
      let i := nodeLocal hd
      if first ≤ i ∧ i < first + s.nodeFld p 28 2 then
        State.treeDigits s bits k p (min (i - first + 1) (2 ^ bits - 1) :: acc)
      else none

/-- The key of digits from depth 1 on. -/
def treeKey (bits : Nat) (ds : List Nat) : Nat :=
  (ds.zipIdx.map fun d => if (d.2 + 1) * bits ≤ 64 then d.1 * 2 ^ (64 - (d.2 + 1) * bits) else 0).foldl (· + ·) 0

/-- The key of a record, and whether it is given the all-ones key. -/
def State.recKey (s : State) (d r : List Byte) : Nat × Bool :=
  let off := fld d 0x30 2
  let cs := (List.range (fld d 1 1)).map fun i => fld r (off + 4 * i) 4
  match fld d 0 1 with
  | 0 => (fld r off 8, false)
  | 1 => (curveKey false cs, false)
  | 2 => (curveKey true cs, false)
  | _ =>
    let hd : Word32 := BitVec.ofNat 32 (fld r off 4)
    let ds := if nodeNull hd || !s.nodeHere hd then none else s.treeDigits (fld d 2 1) (2 ^ 22) hd []
    match ds with
    | some l => (treeKey (fld d 2 1) l, false)
    | none => (2 ^ 64 - 1, true)

/-- What a participant contributes, its source read (R161, R173). -/
def State.givenOf (s : State) (x : OnSet) (bs : List Byte) : Given :=
  let n := fld x.desc 6 2
  let ks := if x.re then (List.range (fld x.desc 0x10 4)).map fun i => s.recKey x.desc (slice bs (n * i) n) else []
  ⟨bs, (ks.map fun k => leBytes 8 k.1).flatten, ks.countP fun k => k.2⟩

/-- The first command here that has not sent its source to the set's other modules does so, and keeps what it has sent; the
first that cannot is answered. -/
def State.contribute (s : State) (setId n : Nat) (cs : CollSet) (l : List OnSet) : State × Option (OnSet × EFail) :=
  match l with
  | [] => (s, none)
  | x :: rest =>
    if x.o.given.isSome then State.contribute s setId n cs rest
    else
      match s.collSrc cs.p x with
      | .error e => (s, some (x, e))
      | .ok bs =>
        let g := s.givenOf x bs
        State.contribute ((s.setCore x.core ((s.getCore x.core).updOp x.o.id fun y => { y with given := some g })).emit
          (.collective setId n (x.desc ++ cs.digest ++ g.keys) bs)) setId n cs rest

/-- A participant's descriptor bytes, the digest of its set, and which of the two commands it has issued. -/
def State.partyDesc (s : State) (setId : Nat) (p : Party) : List Byte × List Byte × Bool :=
  match p with
  | .here x => (x.desc, match s.collSet (coreDie x.core) setId with | some cs => cs.digest | none => [], x.re)
  | .far c => if c.desc.length = 96 then (slice c.desc 0 64, slice c.desc 64 32, false)
      else (slice c.desc 0 128, slice c.desc 128 32, true)
  | _ => ([], [], false)

/-- The fields in which a participant agrees with rank 0 (R159, R170). -/
def matchFields (re : Bool) : List (Nat × Nat) := if re then [(0, 3), (6, 2), (0x30, 4)] else [(0, 4), (6, 2), (8, 4)]

/-- Every participant agrees with rank 0 in the command, the fields named and the set (R159, R401). -/
def agree (ds : List (List Byte × List Byte × Bool)) : Bool :=
  match ds with
  | [] => true
  | d0 :: rest => rest.all fun d =>
      d.2 = d0.2 && (matchFields d0.2.2).all fun f => slice d.1 f.1 f.2 = slice d0.1 f.1 f.2

/-! ## Completion (R160 to R163, R173, R174) -/

/-- What all participants give, in rank order: what a command here has sent, or reads now; or the command that cannot read its
own. -/
def State.sources (s : State) (p : Nat) (ps : List Party) : Except (OnSet × EFail) (List Given) :=
  match ps with
  | [] => .ok []
  | q :: rest =>
    let one : Except (OnSet × EFail) Given := match q with
      | .here x =>
        match x.o.given with
        | some g => .ok g
        | none => match s.collSrc p x with | .ok bs => .ok (s.givenOf x bs) | .error e => .error (x, e)
      | .far c => .ok ⟨c.src, c.desc.drop 160, 0⟩
      | _ => .ok ⟨[], [], 0⟩
    match one with
    | .error e => .error e
    | .ok g =>
      match State.sources s p rest with
      | .ok more => .ok (g :: more)
      | .error e => .error e

/-- The output of each participant here. -/
def State.collDeliver (s : State) (cs : CollSet) (ps : List Party) (srcs : List (List Byte)) : State :=
  ps.zipIdx.foldl (fun t x =>
    match x.1 with
    | .here y =>
      let d := y.desc
      let c : CollFmt := ⟨fld d 1 1, fld d 2 1, fld d 3 1, (BitVec.ofNat 16 (fld d 6 2)).toInt⟩
      let out := collOutput (fld d 0 1) c (fld d 8 4) cs.route srcs x.2
      t.collEnd y [(fld d 0x18 8, out.1), (y.addr.toNat + 0x20, leBytes 4 (1 + out.2))] false
    | _ => t) s

/-- The records of a participant with their keys and loads (R171, R173). -/
def recsOf (d : List Byte) (g : Given) (rank : Nat) : List Rec :=
  let n := fld d 6 2
  (List.range (fld d 0x10 4)).map fun i =>
    let r := slice g.src (n * i) n
    ⟨fld g.keys (8 * i) 8, if fld d 0x32 2 = 0xFFFF then 1 else fld r (fld d 0x32 2) 4, rank, i, r⟩

/-- The descriptor of a participant, as the delivery needs it. -/
def Party.desc : Party → List Byte
  | .here x => x.desc
  | .far c => slice c.desc 0 128
  | _ => []

/-- The records of all participants, in rank order. -/
def allRecs (ps : List Party) (gs : List Given) : List Rec :=
  ((ps.zip gs).zipIdx.map fun x => recsOf x.1.1.desc x.1.2 x.2).flatten

/-- What a participant here receives, keeps and writes back (R173, R174). -/
def State.quadDeliver (s : State) (cs : CollSet) (ps : List Party) (gs : List Given) : State :=
  let rs := allRecs ps gs
  let splits := splitsOf rs cs.p
  let bound := (List.range cs.p).map fun d => boundFor rs splits cs.p d
  let caps := ps.map fun p => fld p.desc 0x14 4
  let left := (bound.zip caps).map fun e => e.1.drop e.2
  ps.zipIdx.foldl (fun t x =>
    match x.1 with
    | .here y =>
      let d := y.desc
      let got := (bound.getD x.2 []).take (fld d 0x14 4)
      let kept := (left.map fun l => l.filter fun r => r.sender = x.2)
      let spill := kept.flatten.mergeSort recBefore
      let turned := !(left.getD x.2 []).isEmpty || !spill.isEmpty
      let counts := if fld d 0x28 8 = 0 then [] else [(fld d 0x28 8, (kept.map fun l => leBytes 4 l.length).flatten)]
      let splitsW := if fld d 0x48 8 = 0 then [] else [(fld d 0x48 8, (splits.map fun v => leBytes 2 v).flatten)]
      t.collEnd y ([(fld d 0x18 8, (got.map (·.bytes)).flatten), (fld d 0x20 8, (spill.map (·.bytes)).flatten)] ++
        counts ++ splitsW ++
        [(y.addr.toNat + 0x34, leBytes 4 (1 + (if turned then 2 else 0)) ++ leBytes 4 got.length ++ leBytes 4 spill.length ++
          leBytes 4 ((gs[x.2]?.map (·.bad)).getD 0))])
        false
    | _ => t) s

/-- The participants here of one set with one number: matched, or told why they cannot be (R158, R159, R163). -/
def State.matchSet (s : State) (setId n : Nat) (others : List Contribution) (x : OnSet) (l : List OnSet) : State :=
  match s.collSet (coreDie x.core) setId with
  | none => s.allStatus [x] OnSet.badBit
  | some cs =>
    let here := l.filter fun y => y = x || cs.ranks.any fun e => natBits e 0 12 = s.modId.toNat && natBits e 14 2 = coreDie y.core
    let ps := cs.ranks.zipIdx.map fun e => s.partyOf setId n here others e.1 e.2
    if ps.any (·.isLost) then s.peerLost cs.p here
    else
      match if cs.spans s.modId.toNat then s.contribute setId n cs here else (s, none) with
      | (t, some (y, e)) => t.sourceFails setId n cs here y e
      | (t, none) =>
        if ps.any (·.isMissing) then t
        else if !agree (ps.map (t.partyDesc setId)) then t.allStatus here OnSet.mismatchBit
        else
          match t.sources cs.p ps with
          | .error (y, e) => t.sourceFails setId n cs here y e
          | .ok srcs => if x.re then t.quadDeliver cs ps srcs else t.collDeliver cs ps (srcs.map (·.src))

/-- One command of a set: it is matched with the others, or makes some of its writes. -/
def State.collTurn (s : State) (setId n : Nat) (others : List Contribution) (core id : Nat) : State :=
  match (s.onSet setId n).find? fun x => x.core = core && x.o.id = id with
  | none => s
  | some x =>
    if x.matched then s.collStep x
    else if setId = refusedSet then s.allStatus [x] OnSet.badBit
    else s.matchSet setId n others x ((s.onSet setId n).filter fun y => !y.matched)

/-- The commands of one kind with one number on a set each take a turn. -/
def State.collTurns (s : State) (re : Bool) (setId n : Nat) (others : List Contribution) : State :=
  ((s.onSet setId n).filter fun x => x.re = re).foldl (fun t x => t.collTurn setId n others x.core x.o.id) s

/-- A collective completes on each participant of this module once every participant has issued it and its output has been
performed (R163). -/
def execCollectiveComplete (setId n : Nat) (others : List Contribution) (s : State) : Host.Outcome State Fault Refusal :=
  .next (s.collTurns false setId n others)

/-- A quadrille likewise (R174). -/
def execRepartComplete (setId n : Nat) (others : List Contribution) (s : State) : Host.Outcome State Fault Refusal :=
  .next (s.collTurns true setId n others)

/-! ## Dispatch tables (R164 to R168, R348) -/

def State.getTable (s : State) (die t : Nat) : DTable := Tbl.getD (s.getDie die).dtables t DTable.start

def State.setTable (s : State) (die t : Nat) (v : DTable) : State :=
  let d := s.getDie die
  s.setDie die { d with dtables := Tbl.set d.dtables t v }

def DTable.valid (t : DTable) : Bool := t.flags.getLsbD 0

/-- FailoverTarget: the module, and FAILOVER (R168, R419). -/
def State.failTarget (s : State) (die t e : Nat) : Nat × Bool :=
  let w := Tbl.getD (s.getDie die).failover (1024 * t + e) 0
  if w.getLsbD 63 then (natBits w.toNat 16 12, true) else (natBits w.toNat 0 12, false)

/-- The bucket of n tokens and what is over (R165). -/
def DTable.bucket (t : DTable) (n : Nat) : Nat × Nat :=
  match (List.range 8).find? fun i => decide (n ≤ t.bound.getD i 0) with
  | some b => (b, 0)
  | none => (7, n - t.bound.getD 7 0)

def execDisp (h : Hdr) (xc xa xb : XReg) (pd : PReg) (t : BitVec 3) (s : State) : Host.Outcome State Fault Refusal :=
  s.issue (cmdForm h 0x2C 5 [xc, xPlus xc 1, xa, xb] [pd]) fun u =>
    let tb := u.getTable u.die t.toNat
    let e := (u.getX xa).toNat
    let n := (u.getX xb).toNat
    if !tb.valid || decide (tb.nexp ≤ e) || decide (2 ^ 32 ≤ n) then .trap .illegal 0
    else
      let (b, rest) := tb.bucket n
      let none_ := (List.range 8).all fun i => decide (tb.bound.getD i 0 < n)
      let (target, fo) := u.failTarget u.die t.toNat e
      let word := b + (if fo then 8 else 0) + 2 ^ 16 * target + 2 ^ 32 * tb.mb.toNat
      let tb := { tb with counts := Tbl.set tb.counts e (satU (Tbl.getD tb.counts e 0 + n) 32) }
      let u := u.setTable u.die t.toNat tb
      let u := ((u.setX xc (w64 word)).setX (xPlus xc 1) (w64 rest)).setFlag pd (!none_)
      let sched := tb.sched.getD b 0
      .done (if sched = 0 then u else u.setSq { u.sq with pc := sched.setWidth 54 })

/-- A shadow bias after a micro-batch (R166). -/
def DTable.bias (t : DTable) (e : Nat) : Word32 :=
  let v := Tbl.getD t.shadow e 0
  let n := Tbl.getD t.counts e 0
  if n < t.target then BitVec.ofNat 32 (f32.add v.toNat t.rate.toNat).1
  else if t.target < n then BitVec.ofNat 32 (f32.sub v.toNat t.rate.toNat).1
  else v

/-- The boundary is over: its writes have performed at .sys (R166). -/
def State.dispMbEnd (s : State) (core : Nat) (o : Op) (t : Nat) : State :=
  let die := coreDie core
  ((s.setTable die t { s.getTable die t with mb := (s.getTable die t).mb + 1 })).doneOp core o.id

/-- A boundary of the table is not over. -/
def State.mbPending (s : State) (die t : Nat) : Bool :=
  s.cores.any fun c => coreDie c.1 = die && c.2.ops.any fun o => !o.done && decide (o.kind = .dispMb t)

/-- The boundary of a micro-batch, which performs as it is accepted, after the one before it; a bank on another module is
acknowledged before MB changes (R166). -/
def execDispMb (h : Hdr) (t : BitVec 3) (k : Ctr) (s : State) : Host.Outcome State Fault Refusal :=
  let f := cmdForm h 0x2C 6 [] []
  s.issueAsync f 0x2C 6 k fun _ u =>
    let tb := u.getTable u.die t.toNat
    if !tb.valid then .trap .illegal 0
    else
      u.acceptWith f 0x2C 6 k none fun u =>
        if u.mbPending u.die t.toNat then .wait else
        let shadow := (List.range tb.nexp).map fun e => (e, tb.bias e)
        let bank := tb.biasaddr.toNat + 4096 * ((tb.mb + 1).toNat % 2)
        let bytes := (shadow.map fun e => leBytes 4 e.2.toNat).flatten
        let op := u.cur.nextOp
        match u.vwriteWaits u.selfAgent (parts bank bytes.length) with
        | some (.pend m off _) => .hold fun v => v.askPage v.asid m off
        | some _ => .wait
        | none =>
          let u := u.addOp f 0x2C 6 k none (some .sys) (.dispMb t.toNat) false
          let u := u.setTable u.die t.toNat { tb with shadow := shadow, counts := [] }
          match u.cur.findOp op with
          | none => .done u
          | some o =>
            match u.vwrite (u.opAgent u.core o) bank bytes with
            | (v, none) => .done (if v.acked v.core op then v.dispMbEnd v.core o t.toNat else v)
            | (v, some e) => .done (v.failOpE v.core o e 0)

end Sys2Proof.Machine
end

