-- ==== Sys2Proof/Machine/EvGraph.lean ====
section
/-! DEFINITION. The graph unit: nodes, runs, NOWAIT work, their ends; replays and aborts by the host; host rings as the host
and their timers move them (R141 to R149, R396 to R398, R422, R423). -/

namespace Sys2Proof.Machine

open Sys2Proof

/-! ## Nodes (R142) -/

/-- A node's 64 bytes with the gp registers as they stand when it starts. -/
structure GNode where
  bytes : List Byte
  gp : Tbl Word64
  deriving DecidableEq, Repr

def GNode.kind (n : GNode) : Nat := fld n.bytes 0 1
def GNode.flag (n : GNode) (i : Nat) : Bool := natBits (fld n.bytes 1 1) i 1 = 1
def GNode.nowait (n : GNode) : Bool := n.flag 0
def GNode.gprel (n : GNode) : Bool := n.flag 1
def GNode.stopfail (n : GNode) : Bool := n.flag 2
def GNode.drop (n : GNode) : Bool := n.flag 3
def GNode.flush (n : GNode) : Bool := n.flag 4
def GNode.deadline (n : GNode) : BitVec 48 := BitVec.ofNat 48 (fld n.bytes 8 6)

/-- What GPREL adds to every address field. -/
def GNode.base (n : GNode) : Nat := if n.gprel then (Tbl.getD n.gp (fld n.bytes 2 1 % 32) 0).toNat else 0

/-- An address field of the payload. -/
def GNode.addr (n : GNode) (o : Nat) : Nat := (fld n.bytes o 8 + n.base) % 2 ^ 64

/-- EVT of a LAUNCH or ENGINE node; 0 stays none. -/
def GNode.evt (n : GNode) : Nat :=
  let o := if n.kind = 1 then 0x18 else 0x20
  if n.kind != 1 && n.kind != 2 then 0 else if fld n.bytes o 8 = 0 then 0 else n.addr o

/-- Offsets and lengths of the payload fields of a kind (R142 Table 5). -/
def payloadFields (kind : Nat) : List (Nat × Nat) :=
  match kind with
  | 1 => [(0x10, 8), (0x18, 8)]
  | 2 => [(0x10, 1), (0x12, 2), (0x18, 8), (0x20, 8)]
  | 3 => [(0x10, 8), (0x18, 1), (0x19, 1)]
  | 4 => [(0x10, 8), (0x18, 8), (0x20, 8), (0x28, 1), (0x29, 1), (0x2A, 2), (0x2C, 4)]
  | 5 => [(0x10, 1), (0x11, 1), (0x18, 8)]
  | 6 => [(0x10, 1), (0x18, 8), (0x20, 8), (0x28, 8), (0x30, 1), (0x34, 4)]
  | _ => []

/-- Every byte no field of the node covers is zero. -/
def GNode.clean (n : GNode) : Bool :=
  let fs := [(0, 3), (8, 6)] ++ payloadFields n.kind
  (List.range 64).all fun i => n.bytes.getD i 0 = 0 || fs.any fun f => decide (f.1 ≤ i ∧ i < f.1 + f.2)

/-- The record size of an ENGINE node's list. -/
def engRecord (eng : Nat) : Nat := if eng = 3 then 32 else 64

/-- The node breaks a rule that ends the run BADNODE (R145). -/
def GNode.bad (n : GNode) (nodes : Nat) : Bool :=
  !n.clean || decide (32 ≤ fld n.bytes 1 1) || decide (32 ≤ fld n.bytes 2 1) || decide (n.evt % 8 ≠ 0) ||
    (n.deadline != 0 && n.kind != 1 && n.kind != 2 && n.kind != 5) ||
    match n.kind with
    | 0 | 1 => false
    | 2 => decide (3 < fld n.bytes 0x10 1) || fld n.bytes 0x12 2 = 0 || decide (n.addr 0x18 % engRecord (fld n.bytes 0x10 1) ≠ 0)
    | 3 => decide (n.addr 0x10 % 8 ≠ 0) || decide (32 ≤ fld n.bytes 0x18 1) || fld n.bytes 0x19 1 = 0 ||
        decide (32 < fld n.bytes 0x18 1 + fld n.bytes 0x19 1)
    | 4 => decide (n.addr 0x10 % 8 ≠ 0) || decide (3 < fld n.bytes 0x28 1) || decide (2 < fld n.bytes 0x29 1) ||
        (fld n.bytes 0x29 1 = 0 && decide (nodes ≤ fld n.bytes 0x2A 2))
    | 5 => decide (64 ≤ fld n.bytes 0x10 1) || fld n.bytes 0x11 1 = 0 || decide (16 < fld n.bytes 0x11 1) ||
        decide (n.addr 0x18 % 32 ≠ 0)
    | 6 => decide (1 < fld n.bytes 0x10 1) || decide (n.addr 0x18 % 8 ≠ 0) || decide (3 < fld n.bytes 0x30 1)
    | _ => true

/-! ## Reads of the graph unit -/

/-- The number of the job that holds other modules' bytes for a slot. -/
def readJob (slot : Nat) : Nat := slot

/-- A slot reads n bytes of its space. -/
def State.slotRead (s : State) (die slot va n : Nat) : Except EFail (List Byte) :=
  s.vread (unitAgent (s.getSlot die slot).asid) (s.jobAnswer die (readJob slot)) va n

/-- Another module is asked once for what a slot needs. -/
def State.slotAsk (s : State) (die slot : Nat) (e : EFail) : State :=
  match e with
  | .pend m off n => s.jobAsk die (readJob slot) (s.getSlot die slot).asid m off n
  | _ => s

/-- Bytes answered for a slot are not kept for its next node. -/
def State.dropRead (s : State) (die slot : Nat) : State := s.dropJob die (readJob slot)

/-! ## Status words, and the end of a run (R145, R146, R422) -/

/-- A record with MAJ 0 in the slot's fault area. -/
def State.slotRecord (s : State) (die slot cause reason addr : Nat) : State :=
  s.slotFault die slot ⟨cause, reason, 0, .control, 0, false, 0, 0, 0, w64 addr, 0, (s.getSlot die slot).group⟩

/-- The final status of a node's work written to EVT; a write that fails is reported (R422). -/
def State.evtWrite (s : State) (die slot evt code : Nat) (late : Bool) : State :=
  if evt = 0 then s
  else
    match s.postAs (unitCore die slot, slotWrites + recordOp evt false) (s.getSlot die slot).asid evt (completionWord code late s.time) with
    | .ok t => t
    | .error e => s.slotRecord die slot e.codes.1 e.codes.2 evt

/-- The completion record has been written: the interrupt, and the next run if a replay is pending (R141, R146). -/
def State.slotOver (s : State) (die slot : Nat) : State :=
  let s := (if (s.getSlot die slot).irqEnd then s.irq (s.getSlot die slot).vec else s).dropRead die slot
  let g := s.getSlot die slot
  let g := { g with phase := .idle, nowait := [], failing := false, evt := 0, stopfail := false }
  s.setSlot die slot (if g.pending = 0 then g else { g.begin with pending := g.pending - 1 })

/-- A run ends once every write of its own has performed: its completion record, then the rest (R144, R146). -/
def State.endRun (s : State) (die slot code : Nat) : State :=
  let g := s.getSlot die slot
  if g.out ≠ 0 then s.setSlot die slot { g with phase := .ending code }
  else
    let bs := leBytes 4 code ++ leBytes 4 g.iter.toNat ++ leBytes 8 s.time.toNat
    match s.postAs (unitCore die slot, slotWrites + recordOp g.gcomp.toNat false) g.asid g.gcomp.toNat bs with
    | .ok t =>
      if (t.getSlot die slot).out = 0 then t.slotOver die slot
      else t.setSlot die slot { t.getSlot die slot with phase := .recorded }
    | .error e => (s.slotRecord die slot e.codes.1 e.codes.2 g.gcomp.toNat).slotOver die slot

/-- Some NOWAIT work of the run has not ended. -/
def GSlot.busy (g : GSlot) : Bool := g.nowait.any fun w => w.code.isNone

/-- A run that has reached its end waits for its NOWAIT work; work with STOPFAIL that failed makes it FAILED (R143, R145). -/
def State.finishRun (s : State) (die slot code : Nat) : State :=
  let g := s.getSlot die slot
  if g.busy then s.setSlot die slot { g with phase := .ending code }
  else s.endRun die slot (if g.failing then 3 else code)

def State.goTo (s : State) (die slot n : Nat) : State := (s.dropRead die slot).setSlot die slot
  { (s.dropRead die slot).getSlot die slot with phase := .ready n, evt := 0, stopfail := false }

/-- A node's work has ended with a status: EVT, STOPFAIL, the next node (R145). -/
def State.workEnd (s : State) (die slot n evt code : Nat) (late stopfail : Bool) : State :=
  let s := s.evtWrite die slot evt code late
  if code != 1 && stopfail then s.finishRun die slot 3 else s.goTo die slot (n + 1)

/-- NOWAIT work taken in: the node completes at issue (R143). -/
def State.goOn (s : State) (die slot n : Nat) (w : NoWait) : State :=
  let g := s.getSlot die slot
  (s.setSlot die slot { g with nowait := g.nowait ++ [w] }).goTo die slot (n + 1)

/-- Data of a node that cannot be read ends the run FAILED with a record; bytes of another module are asked for (R145). -/
def State.dataFails (s : State) (die slot : Nat) (e : EFail) : State :=
  match e with
  | .fault c r a => (s.slotRecord die slot c.code.toNat r a.toNat).finishRun die slot 3
  | e => s.slotAsk die slot e

/-! ## Commands of the graph unit itself (R143, R423) -/

/-- The unit's core of a slot with its space and group; every sequencer of it has ended. -/
def State.unitReady (s : State) (die slot : Nat) : Core :=
  let g := s.getSlot die slot
  let q := { Seqr.start 0 0 false with ended := true }
  { s.getCore (unitCore die slot) with
    inst := some { placeInst with launch := 0, asid := g.asid, group := g.group },
    seqC := q, seqL := q, seqX := q, seqS := q }

/-- Commands put on a slot's unit, all at once: the first one's number is the unit's next. They end as the node's work does,
with their writes performed at .sys (R144). -/
def State.unitOps (s : State) (die slot maj : Nat) (ks : List (Nat × OpKind)) : State :=
  let c := s.unitReady die slot
  let g := (s.getSlot die slot).group
  let ops : List Op := ks.mapIdx fun i k =>
    ⟨c.nextOp + i, .control, none, 0, maj, k.1, g, false, none, some .sys, k.2, 0, false, none, [], 0, [], [], none⟩
  s.setCore (unitCore die slot) { c with ops := c.ops ++ ops, nextOp := c.nextOp + ks.length }

/-- The number of a die's next job; those below 64 are the slots' own. -/
def State.jobNo (s : State) (die : Nat) : Nat := (s.getDie die).nextJob + 64

/-- A job recorded under the die's next number. -/
def State.addJob (s : State) (die : Nat) (j : Job) : State :=
  let d := s.getDie die
  s.setDie die { d with jobs := Tbl.set d.jobs (s.jobNo die) j, nextJob := d.nextJob + 1 }

/-- A copy record that the run refuses (R423). -/
def copyBad (r : List Byte) : Bool :=
  decide (2 ≤ fld r 0x14 4) || (fld r 0x14 4 = 0 && fld r 0x18 8 != 0) || decide (fld r 0x18 8 % 16 ≠ 0)

def copyKind (r : List Byte) : Nat × OpKind :=
  (0, .xfer .copy (w64 (fld r 0 8)) (w64 (fld r 8 8)) 0 (fld r 0x10 4) (if fld r 0x14 4 = 1 then some (w64 (fld r 0x18 8)) else none)
    none none)

/-- A collective of an ENGINE node takes its number on its set, or is refused (R158, R347). -/
def State.collKinds (s : State) (die : Nat) (list i : Nat) (ds : List (List Byte)) : State × List (Nat × OpKind) :=
  match ds with
  | [] => (s, [])
  | b :: rest =>
    let a := w64 (list + 64 * i)
    let setId := fld b 4 2
    let opc := fld b 0 1
    let (s, k) : State × OpKind :=
      match s.collSet die setId with
      | none => (s, .coll a b refusedSet 0 none)
      | some _ =>
        let (t, n) := s.nextOnSet die setId
        if 4 ≤ opc || collBad opc b then (t, .coll a b refusedSet 0 none) else (t, .coll a b setId n none)
    let (s, ks) := State.collKinds s die list (i + 1) rest
    (s, (opc % 16, k) :: ks)

/-- A job's number, or why the node goes no further. -/
inductive Engaged where
  | job (s : State)
  | badNode
  | ask (e : EFail)

/-- The work of an ENGINE node issued on the die's engine under the slot's group, as the die's next job (R143, R423). -/
def State.engage (s : State) (die slot eng nreq list : Nat) : Engaged :=
  let g := s.getSlot die slot
  let j : Job := ⟨eng, w64 list, nreq, 0, g.asid, g.group, slot, false, false, false, false, [], [], 0, none⟩
  let d := s.getDie die
  match eng with
  | 0 => let t := s.addJob die j
    .job (t.setDie die { t.getDie die with sampler := d.sampler ++ [.job (s.jobNo die)] })
  | 1 => let t := s.addJob die j
    .job (t.setDie die { t.getDie die with beam := d.beam ++ [.job (s.jobNo die)] })
  | _ =>
    let w := engRecord eng
    match s.slotRead die slot list (w * nreq) with
    | .error (.fault c r a) =>
      .job ((s.slotRecord die slot c.code.toNat r a.toNat).addJob die { j with failed := true, done := true })
    | .error e => .ask e
    | .ok bs =>
      let rs := (List.range nreq).map fun i => slice bs (w * i) w
      let first := (s.getCore (unitCore die slot)).nextOp
      if eng = 3 then
        if rs.any copyBad then .badNode
        else .job ((s.unitOps die slot 0x10 (rs.map copyKind)).addJob die { j with next := first })
      else
        let (t, ks) := s.collKinds die list 0 rs
        .job ((t.unitOps die slot 0x2C ks).addJob die { j with next := first })

/-- The status of a job that has ended. -/
def State.jobCode (s : State) (die slot job : Nat) : Option Nat :=
  match s.getJob die job with
  | none => some 3
  | some j =>
    let over_ := if j.eng < 2 then j.done
      else j.done || !((s.getCore (unitCore die slot)).ops.any fun o => !o.done && decide (j.next ≤ o.id ∧ o.id < j.next + j.n))
    if over_ then some (if j.failed then 3 else if j.cancelled then 11 else if j.expired then 2 else 1) else none

def State.endJob (s : State) (die job : Nat) : State :=
  let d := s.getDie die
  s.setDie die { d with jobs := Tbl.erase d.jobs job }

/-! ## Nodes as they start (R143) -/

/-- The template of a LAUNCH node with the gp snapshot (R141, R392). -/
def snapshot (t : List Byte) (gp : Tbl Word64) : List Byte :=
  slice t 0 0x100 ++ ((List.range 32).map fun i => leBytes 8 (Tbl.getD gp i 0).toNat).flatten

def State.startLaunch (s : State) (die slot n : Nat) (nd : GNode) : State :=
  let pkt := nd.addr 0x10
  let refuse (t : State) : State :=
    if nd.nowait then
      (t.evtWrite die slot nd.evt 8 false).setSlot die slot
        { (t.evtWrite die slot nd.evt 8 false).getSlot die slot with
          failing := ((t.evtWrite die slot nd.evt 8 false).getSlot die slot).failing || nd.stopfail } |>.goTo die slot (n + 1)
    else t.workEnd die slot n nd.evt 8 false nd.stopfail
  if pkt % 64 ≠ 0 then refuse s
  else
    match s.slotRead die slot pkt 512 with
    | .error (.fault ..) => refuse s
    | .error e => s.slotAsk die slot e
    | .ok bs =>
      let id := s.nextLaunch
      let t := s.submit 0 (.graph die slot n) die (snapshot bs nd.gp)
      if nd.nowait then t.goOn die slot n ⟨n, w64 nd.evt, nd.stopfail, some id, none, none, none⟩
      else
        let t := t.dropRead die slot
        t.setSlot die slot { t.getSlot die slot with phase := .launch n id, evt := w64 nd.evt, stopfail := nd.stopfail }

def State.startEngine (s : State) (die slot n : Nat) (nd : GNode) : State :=
  let job := s.jobNo die
  match s.engage die slot (fld nd.bytes 0x10 1) (fld nd.bytes 0x12 2) (nd.addr 0x18) with
  | .badNode => s.finishRun die slot 12
  | .ask e => s.slotAsk die slot e
  | .job t =>
    if nd.nowait then t.goOn die slot n ⟨n, w64 nd.evt, nd.stopfail, none, some job, none, none⟩
    else
      let t := t.dropRead die slot
      t.setSlot die slot { t.getSlot die slot with phase := .engine n job, evt := w64 nd.evt, stopfail := nd.stopfail }

def State.startPatch (s : State) (die slot n : Nat) (nd : GNode) : State :=
  let k := fld nd.bytes 0x19 1
  match s.slotRead die slot (nd.addr 0x10) (8 * k) with
  | .error e => s.dataFails die slot e
  | .ok bs =>
    let g := s.getSlot die slot
    let gp := (List.range k).foldl (fun t i => Tbl.set t (fld nd.bytes 0x18 1 + i) (w64 (fld bs (8 * i) 8))) g.gp
    (s.setSlot die slot { g with gp := gp }).goTo die slot (n + 1)

def State.startCond (s : State) (die slot n : Nat) (nd : GNode) : State :=
  match s.slotRead die slot (nd.addr 0x10) 8 with
  | .error e => s.dataFails die slot e
  | .ok bs =>
    if !gtest (fld nd.bytes 0x28 1) (w64 (leNat bs)) (w64 (fld nd.bytes 0x18 8)) (w64 (fld nd.bytes 0x20 8)) then
      s.goTo die slot (n + 1)
    else
      match fld nd.bytes 0x29 1 with
      | 0 => s.goTo die slot (fld nd.bytes 0x2A 2)
      | 1 =>
        let g := s.getSlot die slot
        let it := g.iter + 1
        let maxit := fld nd.bytes 0x2C 4
        let t := s.setSlot die slot { g with iter := it }
        if maxit != 0 && it.toNat = maxit then t.finishRun die slot 9 else t.goTo die slot 0
      | _ => s.finishRun die slot 1

/-- An append of an HRING node from where it stands: done, waiting, or failed (R147, R148). -/
def State.slotRing (s : State) (die slot ring src left : Nat) (flush drop : Bool) : State × Appended :=
  s.ringGo (unitAgent (s.getSlot die slot).asid) (s.jobAnswer die (readJob slot)) die ring flush drop left src 0

/-- An HRING node of the run that waits or goes on. -/
def State.ringNode (s : State) (die slot n ring src left : Nat) (flush drop : Bool) : State :=
  match s.slotRing die slot ring src left flush drop with
  | (t, .all) => t.goTo die slot (n + 1)
  | (t, .waits src' left') =>
    t.setSlot die slot { t.getSlot die slot with phase := .hring n ring (w64 src') left' flush drop }
  | (t, .fails (.fault c r a) _ _) => t.dataFails die slot (.fault c r a)
  | (t, .fails e src' left') =>
    (t.setSlot die slot { t.getSlot die slot with phase := .hring n ring (w64 src') left' flush drop }).slotAsk die slot e

def State.startHring (s : State) (die slot n : Nat) (nd : GNode) : State :=
  let ring := fld nd.bytes 0x10 1
  let r := s.getHring die ring
  if !r.enabled || r.asid != (s.getSlot die slot).asid then s.finishRun die slot 12
  else if nd.nowait then
    s.goOn die slot n ⟨n, 0, nd.stopfail, none, none, some (ring, w64 (nd.addr 0x18), fld nd.bytes 0x11 1, nd.flush, nd.drop), none⟩
  else s.ringNode die slot n ring (nd.addr 0x18) (fld nd.bytes 0x11 1) nd.flush nd.drop

def State.startWait (s : State) (die slot n : Nat) (nd : GNode) : State :=
  let tmo := fld nd.bytes 0x34 4
  let till := if tmo = 0 then none else some (s.time.toNat + 1000 * tmo)
  let g := s.getSlot die slot
  if fld nd.bytes 0x10 1 = 0 then s.setSlot die slot { g with phase := .waitDrain n till }
  else
    let t := s.dropRead die slot
    let addr := w64 (nd.addr 0x18)
    let at_ := match t.agentXlat (unitAgent g.asid) .read addr.toNat with | .ok x => some x | .error _ => none
    let me := (unitCore die slot, SeqId.control)
    { t.setSlot die slot { t.getSlot die slot with
        phase := .waitWord n till addr (w64 (fld nd.bytes 0x20 8)) (w64 (fld nd.bytes 0x28 8)) (fld nd.bytes 0x30 1) at_ false } with
      waiters := if t.waiters.contains me then t.waiters else t.waiters ++ [me] }

/-- A node that has been read starts, as of a module time, is discarded past its deadline, or ends the run. -/
def State.startNode (s : State) (die slot n : Nat) (began : Word64) (nd : GNode) : State :=
  let g := s.getSlot die slot
  if nd.bad g.gnodes then s.finishRun die slot 12
  else if passed began nd.deadline then
    (s.groupCount g.group true).workEnd die slot n nd.evt 2 false nd.stopfail
  else
    match nd.kind with
    | 0 => s.finishRun die slot 1
    | 1 => s.startLaunch die slot n nd
    | 2 => s.startEngine die slot n nd
    | 3 => s.startPatch die slot n nd
    | 4 => s.startCond die slot n nd
    | 5 => s.startHring die slot n nd
    | _ => s.startWait die slot n nd

/-- A node that has started goes on: its bytes are read, and then what they name (R88, R145). -/
def State.nodeGo (s : State) (die slot n : Nat) (began : Word64) (bytes : Option (List Byte)) (gp : Tbl Word64) : State :=
  let g := s.getSlot die slot
  let at_ (b : Option (List Byte)) : State := s.setSlot die slot { g with phase := .begun n began b gp }
  match bytes with
  | some bs => (at_ (some bs)).startNode die slot n began ⟨bs, gp⟩
  | none =>
    match s.slotRead die slot (g.gbase.toNat + 64 * n) 64 with
    | .error (.fault ..) => s.finishRun die slot 12
    | .error e => (at_ none).slotAsk die slot e
    | .ok bs => (at_ (some bs)).startNode die slot n began ⟨bs, gp⟩

/-- GRAPH_NODE_START (R143 to R146, R423): a node boundary, or a node that has passed it and waits for other modules. -/
def execGraphNodeStart (die slot : Nat) (s : State) : Host.Outcome State Fault Refusal :=
  let g := s.getSlot die slot
  match g.phase with
  | .ready n =>
    if g.out ≠ 0 then .next s
    else if !s.alive g.group then .next ((s.setSlot die slot { g with pending := 0 }).finishRun die slot 11)
    else if g.failing then .next (s.finishRun die slot 3)
    else if g.gnodes ≤ n then .next (s.finishRun die slot 12)
    else .next (s.nodeGo die slot n s.time none g.gp)
  | .begun n t bytes gp => .next (s.nodeGo die slot n t bytes gp)
  | _ => .next s

/-! ## Ends of nodes and of NOWAIT work -/

/-- A launch's code and LATE once it is complete and its own writes have performed (R144). -/
def State.launchCode (s : State) (id : Nat) : Option (Nat × Bool) :=
  match Tbl.get? s.launches id with
  | some l => if l.out ≠ 0 then none else l.done.map fun c => (c, l.parts.any fun p => p.late)
  | none => if (Tbl.get? s.arriving id).isSome then none else some (8, false)

/-- The word a WAIT node tests, on an access of its own. -/
def State.waitTest (s : State) (die slot n : Nat) (addr mask value : Word64) (op : Nat) : State :=
  match s.slotRead die slot addr.toNat 8 with
  | .error e => s.dataFails die slot e
  | .ok bs =>
    if gtest op (w64 (leNat bs)) mask value then s.goTo die slot (n + 1) else s.dropRead die slot

/-- GRAPH_NODE_COMPLETE (R143 to R145): the work of the node that runs has ended, or what it waits for has come. -/
def execGraphNodeComplete (die slot : Nat) (s : State) : Host.Outcome State Fault Refusal :=
  let g := s.getSlot die slot
  match g.phase with
  | .launch n id =>
    match s.launchCode id with
    | some (c, late) => .next (s.workEnd die slot n g.evt.toNat c late g.stopfail)
    | none => .next s
  | .engine n job =>
    match s.jobCode die slot job with
    | some c => .next ((s.endJob die job).workEnd die slot n g.evt.toNat c false g.stopfail)
    | none => .next s
  | .hring n ring src left flush drop => .next (s.ringNode die slot n ring src.toNat left flush drop)
  | .waitDrain n _ => .next (if g.busy then s else s.goTo die slot (n + 1))
  | .waitWord n _ addr mask value op _ met =>
    .next (if met then s.goTo die slot (n + 1) else s.waitTest die slot n addr mask value op)
  | .ending code => .next (if g.busy then s else s.finishRun die slot code)
  | .recorded => .next (if g.out = 0 then s.slotOver die slot else s)
  | _ => .next s

/-- The work of NOWAIT entry i has ended with a status (R145). -/
def State.noWaitEnd (s : State) (die slot i : Nat) (w : NoWait) (code : Nat) (late : Bool) : State :=
  let s := s.evtWrite die slot w.evt.toNat code late
  let g := s.getSlot die slot
  s.setSlot die slot { g with
    nowait := g.nowait.set i { w with code := some code, hring := none },
    failing := g.failing || (w.stopfail && code != 1) }

/-- An append of a NOWAIT node goes on. -/
def State.noWaitRing (s : State) (die slot i : Nat) (w : NoWait) (ring src left : Nat) (flush drop : Bool) : State :=
  match s.slotRing die slot ring src left flush drop with
  | (t, .all) => t.noWaitEnd die slot i w 1 false
  | (t, .waits src' left') =>
    let g := t.getSlot die slot
    t.setSlot die slot { g with nowait := g.nowait.set i { w with hring := some (ring, w64 src', left', flush, drop) } }
  | (t, .fails (.fault c r a) _ _) =>
    (t.slotRecord die slot c.code.toNat r a.toNat).noWaitEnd die slot i { w with stopfail := true } 3 false
  | (t, .fails e src' left') =>
    let g := t.getSlot die slot
    (t.setSlot die slot { g with nowait := g.nowait.set i { w with hring := some (ring, w64 src', left', flush, drop) } }).slotAsk
      die slot e

/-- NOWAIT_WORK_END (R143, R145). -/
def execNowaitWorkEnd (die slot idx : Nat) (s : State) : Host.Outcome State Fault Refusal :=
  match (s.getSlot die slot).nowait[idx]? with
  | none => .next s
  | some w =>
    if w.code.isSome then .next s
    else
      match w.launch, w.job, w.hring with
      | some id, _, _ =>
        match s.launchCode id with
        | some (c, late) => .next (s.noWaitEnd die slot idx w c late)
        | none => .next s
      | _, some job, _ =>
        match s.jobCode die slot job with
        | some c => .next ((s.endJob die job).noWaitEnd die slot idx w c false)
        | none => .next s
      | _, _, some (ring, src, left, flush, drop) => .next (s.noWaitRing die slot idx w ring src.toNat left flush drop)
      | _, _, _ => .next s

/-- WAIT_NODE_TIMEOUT (R143). -/
def execWaitNodeTimeout (die slot : Nat) (s : State) : Host.Outcome State Fault Refusal :=
  let late (till : Option Nat) : Bool := match till with | some t => decide (t ≤ s.time.toNat) | none => false
  match (s.getSlot die slot).phase with
  | .waitDrain _ till => .next (if late till then s.finishRun die slot 10 else s)
  | .waitWord _ till _ _ _ _ _ _ => .next (if late till then s.finishRun die slot 10 else s)
  | _ => .next s

/-! ## The host on slots and rings (R141, R396, R398) -/

/-- GREPLAY (R141, R396). -/
def execGreplay (die slot : Nat) (s : State) : Host.Outcome State Fault Refusal :=
  .next (if s.takesHost && decide (slot < 64) then s.replay die slot else s)

/-- GABORT (R396): the run ends at once FAILED, without its pending replays; one whose record is on its way to another module has
ended already. -/
def execGabort (die slot : Nat) (s : State) : Host.Outcome State Fault Refusal :=
  let g := s.getSlot die slot
  if !s.takesHost || g.phase = .idle then .next s
  else if g.phase = .recorded then .next (s.setSlot die slot { g with pending := 0 })
  else .next ((s.setSlot die slot { g with pending := 0, nowait := [] }).endRun die slot 3)

/-- Appends of cores of a die that wait on a ring go on (R148). -/
def State.ringWakes (s : State) (die ring : Nat) : State :=
  (s.cores.map fun c => (c.2.ops.filterMap fun o =>
    match o.kind with
    | .hring r _ _ _ _ => if r = ring && !o.done && coreDie c.1 = die then some (c.1, o.id) else none
    | _ => none)).flatten.foldl (fun t e =>
      match (t.getCore e.1).findOp e.2 with
      | some o => t.hringOp e.1 o
      | none => t) s

/-- HRCCNT_WRITE (R148, R398): ignored where PCNT - CCNT would exceed 2^n. -/
def execHrccntWrite (die ring : Nat) (value : BitVec 64) (s : State) : Host.Outcome State Fault Refusal :=
  let r := s.getHring die ring
  let c : BitVec 32 := value.setWidth 32
  if !s.takesHost || decide (64 ≤ ring) || decide (2 ^ r.n < (r.pcnt - c).toNat) then .next s
  else .next ((s.setHring die ring { r with ccnt := c }).ringWakes die ring)

/-- The defined fields of HRCFG. -/
def hrcfgMask : Word64 := 0x07FF_FFFF_FFFF_0FFF

/-- HRCFG_WRITE (R398). -/
def execHrcfgWrite (die ring : Nat) (value : BitVec 64) (s : State) : Host.Outcome State Fault Refusal :=
  let r := s.getHring die ring
  let v := value &&& hrcfgMask
  if !s.takesHost || decide (64 ≤ ring) then .next s
  else if r.enabled then
    .next (if v.getLsbD 5 then s else s.setHring die ring { r with hrcfg := setBit r.hrcfg 5 false })
  else if !v.getLsbD 5 then .next (s.setHring die ring { r with hrcfg := v })
  else
    let n := natBits v.toNat 0 5
    if 4 ≤ n ∧ n ≤ 20 ∧ r.hrbase.toNat % (32 * 2 ^ n) = 0 then
      .next (s.setHring die ring { r with hrcfg := v, pcnt := 0, pend := 0, oldest := 0 })
    else .next s

/-- HOST_RING_TIMER (R149): TUS µs after the oldest pending record was appended. -/
def execHostRingTimer (die ring : Nat) (s : State) : Host.Outcome State Fault Refusal :=
  let r := s.getHring die ring
  if r.enabled && r.pend != 0 && r.tus != 0 && decide (r.oldest + 1000 * r.tus ≤ s.time.toNat) then
    .next (((s.ringCopy die ring).irq r.vec).ringDue die ring)
  else .next s

end Sys2Proof.Machine
end

