-- ==== Sys2Proof/Machine/EvHost.lean ====
section
/-! DEFINITION. The host on the module: invalidation of translations, key slots, dispatch tables, registers without behaviour of
their own, the aperture (R5, R8, R166, R236, R383, R384, R387, R390, R391, R396, R398, R419). -/

namespace Sys2Proof.Machine

open Sys2Proof

/-! ## Invalidation (R390) -/

/-- What an invalidation covers. -/
inductive TlbiRange where
  | page (asid va : Nat)
  | space (asid : Nat)
  | all
  deriving DecidableEq, Repr

/-- An address of a space lies in the range, where the page that holds it has a size. -/
def TlbiRange.has (c : TlbiRange) (asid va size : Nat) : Bool :=
  match c with
  | .page a v => asid = a && va / size = v / size
  | .space a => asid = a
  | .all => true

/-- A held translation is dropped. -/
def TlbiRange.tlb (c : TlbiRange) (k : Nat) (e : TlbEntry) : Bool :=
  c.has (k / 2 ^ 42) (k % 2 ^ 40 * pageSize (k / 2 ^ 40 % 4)) (pageSize e.level)

/-- A held translation of a remote page is dropped. -/
def TlbiRange.far (c : TlbiRange) (k : Nat) : Bool :=
  c.has (k / 2 ^ 39) (2 ^ 55 + natBits k 27 12 * 2 ^ 43 + k % 2 ^ 27 * 2 ^ 16) (2 ^ 16)

/-- The physical page of a held translation: base and size. -/
def TlbEntry.extent (e : TlbEntry) : Nat × Nat := (natBits e.entry.toNat 16 36 * 2 ^ 16, pageSize e.level)

/-- An LM line of the covered range: of the space, or in the physical pages of the dropped translations. -/
def TlbiRange.line (c : TlbiRange) (pages : List (Nat × Nat)) (k : Nat) (l : LmLine) : Bool :=
  if l.remote then c.has l.asid (2 ^ 55 + k % 2 ^ 54 * 128) (2 ^ 16)
  else
    (match c with | .page .. => false | .space a => decide (l.asid = a) | .all => true) ||
      pages.any fun p => decide (p.1 ≤ 128 * k ∧ 128 * k < p.1 + p.2)

/-- The lines of a core's LM that are covered. -/
def TlbiRange.lines (c : TlbiRange) (pages : List (Nat × Nat)) (core : Core) : List (Nat × LmLine) :=
  core.lm.filter fun e => c.line pages e.1 e.2

/-- The covered lines of a core are written back and dropped, its L1 lines dropped. -/
def State.coreInvalidate (s : State) (c : TlbiRange) (pages : List (Nat × Nat)) (core : Nat) : State :=
  ((c.lines pages (s.getCore core)).foldl (fun t e => t.lmDrop core e.1) s).l1Clear core

/-- An invalidation begins with the range that its two registers then name (R390). A write while GO reads 1 is ignored. -/
def State.tlbiBegin (s : State) (ctl : Nat) : State :=
  if s.tlbiGo || !s.takesHost then s
  else { s with tlbictl := w64 ctl, tlbiGo := true, tlbiRun := (s.tlbiva, w64 ctl), tlbiOps := [], tlbiOld := none }

/-- TLBI_ONE_PAGE (R390). -/
def execTlbiOnePage (asid : BitVec 6) (s : State) : Host.Outcome State Fault Refusal := .next (s.tlbiBegin asid.toNat)

/-- TLBI_ONE_SPACE (R390). -/
def execTlbiOneSpace (asid : BitVec 6) (s : State) : Host.Outcome State Fault Refusal := .next (s.tlbiBegin (asid.toNat + 256))

/-- TLBI_ALL (R390): a write with KIND 2 and no space number; one that carries a number is a REGISTER_WRITE. -/
def execTlbiAll (s : State) : Host.Outcome State Fault Refusal := .next (s.tlbiBegin 512)

/-- The range of the invalidation in progress. -/
def State.tlbiCover (s : State) : TlbiRange :=
  let asid := natBits s.tlbiRun.2.toNat 0 6
  match natBits s.tlbiRun.2.toNat 8 2 with
  | 0 => .page asid (natBits s.tlbiRun.1.toNat 16 40 * 2 ^ 16)
  | 1 => .space asid
  | _ => .all

/-- The size of the page a translation now has, for an address that has one. -/
def State.pageNow (s : State) (asid va : Nat) : Option (Nat × Nat) :=
  match s.walkAs asid va with
  | .leaf e l => some (natBits e 16 36 * 2 ^ 16, pageSize l)
  | _ => none

/-- The physical pages of the range: those of the translations held, and that of the entry as it stands (R49, R390). -/
def State.tlbiPages (s : State) (c : TlbiRange) : List (Nat × Nat) :=
  (s.tlb.flatMap fun e => (e.2.filter (c.tlb e.1)).map (·.extent)) ++
    (match c with | .page a v => (s.pageNow a v).toList | _ => [])

/-- An access of a core that has been translated lies in the range: by its page's virtual address, or in one of the physical
pages. -/
def TlbiRange.access (c : TlbiRange) (pages : List (Nat × Nat)) (asid : Nat) (v : Nat × Nat × Xl) : Bool :=
  match v.2.2.place with
  | .scratch _ => false
  | .remote _ _ => c.has asid v.1 (2 ^ 16)
  | .dev pa => c.has asid v.1 (2 ^ 16) || pages.any fun p => decide (p.1 ≤ pa ∧ pa < p.1 + p.2)

/-- The operations of a core that used a translation of the range, or whose writes have not been acknowledged. -/
def TlbiRange.awaits (c : TlbiRange) (pages : List (Nat × Nat)) (asid : Nat) (core : Core) : List Nat :=
  (core.ops.filter fun o => !o.done && (o.out != 0 || o.via.any (c.access pages asid))).map (·.id) ++ core.sent.map (·.1)

/-- A sequencer asleep in wait4 on a word of the range whose page has another translation now, or is another module's, wakes
with 7 (R233). -/
def State.tlbiWake (s : State) (c : TlbiRange) (w : Nat × SeqId) : State :=
  let core := s.getCore w.1
  let asid := s.asidOf w.1
  match (core.seqr w.2).sleep with
  | .wait4 armed =>
    let changed := armed.any fun a =>
      c.access [] asid (a.1.toNat, 8, a.2.2) && s.xlat (some w.1) asid (core.seqr w.2).sup .read a.1.toNat != .ok a.2.2
    if changed then s.setCore w.1 (core.setSeqr w.2 { core.seqr w.2 with sleep := .woken 7 }) else s
  | _ => s

/-- What the TLBs hold of the range is dropped, with the covered lines of every core; the accesses that used it are noted
(R390). -/
def State.tlbiDrop (s : State) (c : TlbiRange) : State :=
  let pages := s.tlbiPages c
  let s := s.cores.foldl (fun t e => t.coreInvalidate c pages e.1) s
  let s := { s with
    tlb := Tbl.keep (Tbl.mapVals s.tlb fun k l => l.filter fun t => !c.tlb k t) fun _ l => !l.isEmpty,
    remotePages := Tbl.keep s.remotePages fun k _ => !c.far k }
  let s := s.waiters.foldl (fun t w => t.tlbiWake c w) s
  { s with tlbiOps := Tbl.mapVals s.cores fun n core => c.awaits pages (s.asidOf n) core, tlbiOld := some pages }

/-- An access that used a dropped translation has not performed yet (R390). -/
def State.tlbiBusy (s : State) : Bool :=
  s.tlbiOps.any fun e =>
    let core := s.getCore e.1
    e.2.any fun n => core.ops.any (fun o => o.id = n && !o.done) || core.sent.any (fun w => w.1 = n)

/-- A write-back of a covered line of another module is out, or waits behind one. -/
def TlbiRange.backs (c : TlbiRange) (core : Core) : Bool :=
  let covered (k : Nat) : Bool := c.has (k % 2 ^ 62 / 2 ^ 54) (2 ^ 55 + k % 2 ^ 54 * 128) (2 ^ 16)
  core.wbs.any (fun w => covered w.2) || core.wbq.any fun w => covered w.1

/-- TLBI_DONE (R49, R390): until now an access may have used either translation; what is held of the range goes. Once every
access that used a dropped translation has performed, what it left in LM and in the L1 goes too, and GO reads 0. -/
def execTlbiDone (s : State) : Host.Outcome State Fault Refusal :=
  let c := s.tlbiCover
  if !s.tlbiGo then .next s
  else
    match s.tlbiOld with
    | none => .next (s.tlbiDrop c)
    | some pages =>
      if s.tlbiBusy then .next s
      else
        let t := s.cores.foldl (fun t e => t.coreInvalidate c pages e.1) s
        .next (if t.cores.any fun e => c.backs e.2 then t else { t with tlbiGo := false, tlbiOps := [], tlbiOld := none })

/-! ## Key slots (R391) -/

/-- A command that names a slot in a state it does not act on. -/
def State.keyError (s : State) (slot : BitVec 12) : State := { s with keyErr := true, keyLast := slot.toNat }

def State.setKey (s : State) (slot : BitVec 12) (k : KeySlot) : State :=
  { s with keys := Tbl.set s.keys slot.toNat k, keyErr := false, keyLast := slot.toNat }

/-- KEY_LOAD (R391): KEYDATA becomes the slot's key and reads zero. -/
def execKeyLoad (slot : BitVec 12) (s : State) : Host.Outcome State Fault Refusal :=
  if !s.takesHost then .next s
  else if (s.getKey slot.toNat).loaded then .next (s.keyError slot)
  else
    .next { (s.setKey slot ⟨true, some (ofBytes 512 (s.keydata.flatMap fun w => leBytes 8 w.toNat)), none⟩) with
      keydata := List.replicate 8 0 }

/-- KEY_RETIRE (R391): FREE at once, so that a new key may be loaded; the material goes at KEY_ERASE. -/
def execKeyRetire (slot : BitVec 12) (s : State) : Host.Outcome State Fault Refusal :=
  let k := s.getKey slot.toNat
  if !s.takesHost then .next s
  else if k.loaded then .next (s.setKey slot { k with loaded := false, group := none })
  else .next (s.keyError slot)

/-- An access translated under this key material has not performed yet. -/
def State.keyBusy (s : State) (k : Option KeyMat) : Bool :=
  s.cores.any fun c => c.2.ops.any fun o => !o.done && o.via.any fun v => v.2.2.key = k

/-- KEY_ERASE (R391): the material of a retired slot goes; cancels of other modules that waited for it are answered (R82,
R86). -/
def execKeyErase (slot : BitVec 12) (s : State) : Host.Outcome State Fault Refusal :=
  let k := s.getKey slot.toNat
  if k.loaded || k.key.isNone || s.keyBusy k.key then .next s
  else
    let t := { s with keys := Tbl.set s.keys slot.toNat { k with key := none } }
    .next (if t.keysErased then { t with owed := 0, out := t.out ++ List.replicate t.owed (.remoteAnswer true []) } else t)

/-- KEY_BIND (R391). -/
def execKeyBind (slot : BitVec 12) (group : BitVec 16) (s : State) : Host.Outcome State Fault Refusal :=
  let k := s.getKey slot.toNat
  if !s.takesHost then .next s
  else if k.loaded then .next (s.setKey slot { k with group := some group.toNat })
  else .next (s.keyError slot)

/-- KEY_UNBIND (R391). -/
def execKeyUnbind (slot : BitVec 12) (s : State) : Host.Outcome State Fault Refusal :=
  let k := s.getKey slot.toNat
  if !s.takesHost then .next s
  else if k.loaded then .next (s.setKey slot { k with group := none })
  else .next (s.keyError slot)

/-! ## Dispatch tables (R164, R166, R384) -/

/-- Entry i of a list replaced. -/
def putAt {α : Type} (l : List α) (i : Nat) (v : α) : List α := l.set i v

def loHalf (v : Word64) : Nat := natBits v.toNat 0 32

def hiHalf (v : Word64) : Nat := natBits v.toNat 32 32

/-- A table with one of its words written. -/
def DTable.putWord (t : DTable) (off : Nat) (v : Word64) : DTable :=
  if off = 0 then
    { t with nexp := natBits v.toNat 0 16, flags := BitVec.ofNat 16 (natBits v.toNat 16 1), mb := BitVec.ofNat 32 (hiHalf v) }
  else if off < 0x28 then
    let i := (off - 8) / 4
    { t with bound := putAt (putAt t.bound i (loHalf v)) (i + 1) (hiHalf v) }
  else if off < 0x68 then { t with sched := putAt t.sched ((off - 0x28) / 8) v }
  else if off = 0x68 then { t with rate := BitVec.ofNat 32 (loHalf v), target := hiHalf v }
  else if off = 0x70 then { t with biasaddr := v }
  else t

/-- Strictly ascending. -/
def ascending : List Nat → Bool
  | [] => true
  | [_] => true
  | a :: b :: rest => decide (a < b) && ascending (b :: rest)

/-- A table's capacities are in order: all of them where VALID is set, else those written so far. -/
def DTable.ordered (t : DTable) : Bool :=
  if t.valid then ascending t.bound else ascending (t.bound.filter fun b => b != 0)

/-- DISPATCH_TABLE_WRITE (R164, R166, R384): clearing VALID is always accepted; a valid table takes nothing else; setting
VALID sets MB and every count to 0. -/
def execDispatchTableWrite (die : Nat) (t : BitVec 3) (off : Nat) (value : BitVec 64) (s : State) :
    Host.Outcome State Fault Refusal :=
  let old := s.getTable die t.toNat
  let new := old.putWord off value
  if !s.takesHost || decide (off % 8 ≠ 0 ∨ 0x78 < off) then .next s
  else if old.valid then .next (if new.valid then s else s.setTable die t.toNat new)
  else if !new.ordered then .next s
  else .next (s.setTable die t.toNat (if new.valid then { new with mb := 0, counts := [] } else new))

/-! ## Registers without behaviour of their own (R383, R384, R396, R398, R419) -/

/-- Some KV root is LIVE. -/
def State.anyLive (s : State) : Bool := s.roots.any fun r => r.2.live

/-- A launch, graph slot or host ring of a space is active (R384). -/
def State.spaceActive (s : State) (a : Nat) : Bool :=
  (s.launches.any fun l => l.2.done.isNone && decide (l.2.asid = a)) ||
    s.dies.any fun d =>
      (d.2.slots.any fun g => g.2.phase != .idle && decide (natBits g.2.gcfg.toNat 0 6 = a)) ||
        d.2.hrings.any fun r => r.2.enabled && decide (natBits r.2.hrcfg.toNat 6 6 = a)

/-- ASROOT, ASTVEC, ASCTL of a space. ASTVEC keeps bits [53:0], the width of TVEC that it loads (R357); R383 Table 1 names no
width (DESIGN CHOICE, log entry 36). -/
def State.putSpace (s : State) (a off : Nat) (v : Word64) : State :=
  let sp := s.getSpace a
  let put (sp : Space) : State := { s with spaces := Tbl.set s.spaces a sp }
  match off with
  | 0 => put { sp with root := v }
  | 8 => put { sp with tvec := v.setWidth 54 }
  | 16 => if sp.en && !v.getLsbD 0 && s.spaceActive a then s else put { sp with en := v.getLsbD 0 }
  | _ => s

/-- KEYCMD with OP 0 or 5 to 7: ERR is set and nothing else changes (R391); OP 1 to 4 are events of their own. -/
def State.keyOther (s : State) (v : Word64) : State :=
  if natBits v.toNat 12 3 = 0 ∨ 5 ≤ natBits v.toNat 12 3 then s.keyError (v.setWidth 12) else s

/-- The registers of the module. TLBICTL with GO begins an invalidation; with a KIND that Table 1 does not define, and without
GO, it takes the fields and GO stays 0 (R8, R390; DESIGN CHOICE, log entry 66). -/
def State.putModule (s : State) (off : Nat) (v : Word64) : State :=
  if 0x1000 ≤ off ∧ off < 0x1000 + 32 * 64 then s.putSpace ((off - 0x1000) / 32) ((off - 0x1000) % 32) v
  else if off = 0x2000 then { s with tlbiva := v &&& 0x00FF_FFFF_FFFF_0000 }
  else if off = 0x2008 then
    if v.getLsbD 31 && natBits v.toNat 8 2 != 3 then s.tlbiBegin (v &&& 0x33F).toNat
    else if s.tlbiGo then s else { s with tlbictl := v &&& 0x33F }
  else if 0x2100 ≤ off ∧ off < 0x2140 then { s with keydata := putAt s.keydata ((off - 0x2100) / 8) v }
  else if off = 0x2140 then s.keyOther v
  else if off = 0x3000 then { s with aperbase := v &&& 0x000F_FFF0_0000_0000 }
  else if off = 0x3008 then { s with farbase := v }
  else s

/-- Registers of a graph slot: the five are writable only while it is IDLE (R396). -/
def State.putSlotReg (s : State) (die slot off : Nat) (v : Word64) : State :=
  let g := s.getSlot die slot
  let idle := g.phase = .idle
  if 0x100 ≤ off then s.setSlot die slot { g with gp := Tbl.set g.gp ((off - 0x100) / 8) v }
  else if !idle then s
  else match off with
  | 0x00 => s.setSlot die slot { g with gbase := v }
  | 0x08 => s.setSlot die slot { g with gcfg := v &&& 0x0003_07FF_FFFF_003F }
  | 0x10 => s.setSlot die slot { g with gcomp := v }
  | 0x18 => s.setSlot die slot { g with gfault := v }
  | 0x38 => s.setSlot die slot { g with gnodes := natBits v.toNat 0 16 }
  | _ => s

/-- HRBASE and HRPCOPY, only while ENABLE is clear (R398). -/
def State.putRingReg (s : State) (die ring off : Nat) (v : Word64) : State :=
  let r := s.getHring die ring
  if r.enabled then s
  else match off with
  | 0x00 => s.setHring die ring { r with hrbase := v }
  | 0x10 => s.setHring die ring { r with hrpcopy := v }
  | _ => s

/-- A failover entry: the host writes PRIM and STBY, never FAILED (R419). -/
def failoverHost (old v : Word64) : Word64 := (old &&& 0x8000_0000_0000_0000) ||| (v &&& 0x0FFF_0FFF)

/-- Two entries of a table's shadow vector (R166). -/
def State.putShadow (s : State) (die t e : Nat) (v : Word64) : State :=
  let d := s.getTable die t
  let put (m : Tbl Word32) (e n : Nat) : Tbl Word32 := if e < d.nexp then Tbl.set m e (BitVec.ofNat 32 n) else m
  if d.valid then s else s.setTable die t { d with shadow := put (put d.shadow e (loHalf v)) (e + 1) (hiHalf v) }

/-- The bases that nothing changes while a root is LIVE, and the other plain registers of a die. -/
def State.putDieReg (s : State) (die off : Nat) (v : Word64) : State :=
  let d := s.getDie die
  let kv (d' : Die) : State := if s.anyLive then s else s.setDie die d'
  match off with
  | 0x20 => s.setDie die { d with pctx := v.toNat }
  | 0x28 => s.setDie die { d with pstatDone := d.pstatDone && !v.getLsbD 1 }
  | 0x38 => s.setDie die { d with dvec := v.setWidth 11 }
  | 0x100 => s.setDie die { d with wsreg := v }
  | 0x108 => kv { d with kvrootb := v }
  | 0x110 => kv { d with sstb := v }
  | 0x118 => kv { d with sstn := v }
  | 0x120 => kv { d with kvas := v }
  | 0x128 => s.setDie die { d with collbase := v }
  | _ => s

/-- The registers of a die's block. -/
def State.putDieBlock (s : State) (die off : Nat) (v : Word64) : State :=
  if off < 0x1000 then s.putDieReg die off v
  else if 0x1_0000 ≤ off ∧ off < 0x2_0000 then
    let n := (off - 0x1_0000) / 8
    let d := s.getDie die
    s.setDie die { d with failover := Tbl.set d.failover n (failoverHost (Tbl.getD d.failover n 0) v) }
  else if 0x2_0000 ≤ off ∧ off < 0x2_8000 then
    s.putShadow die ((off - 0x2_0000) / 0x1000) ((off - 0x2_0000) % 0x1000 / 4) v
  else if 0x8_0000 ≤ off ∧ off < 0x8_8000 then s.putSlotReg die ((off - 0x8_0000) / 0x200) ((off - 0x8_0000) % 0x200) v
  else if 0xC_0000 ≤ off ∧ off < 0xC_1000 then s.putRingReg die ((off - 0xC_0000) / 0x40) ((off - 0xC_0000) % 0x40) v
  else s

/-- REGISTER_WRITE (R8, R383): an aligned write of one whole register; any other is ignored, and so is one at an offset that
is reserved, read only, or of a register whose write is an event of its own. -/
def execRegisterWrite (off : Nat) (value : BitVec 64) (s : State) : Host.Outcome State Fault Refusal :=
  if off % 8 ≠ 0 ∨ !s.takesHost then .next s
  else if off < 0x10_0000 then .next (s.putModule off value)
  else if off < 0x50_0000 then .next (s.putDieBlock (off / 0x10_0000 - 1) (off % 0x10_0000) value)
  else .next s

/-! ## What the host's register reads give (R8, R383, R396, R398) -/

/-- The registers of the module that can be read: DEVID, DEVSTAT, MEAS0 to MEAS7, a space's, TLBIVA, TLBICTL with GO,
KEYSTAT, the two bases; write-only and reserved ones read zero. -/
def State.hostModule (s : State) (off : Nat) : Word64 :=
  if off = 0 then 0x0B96_10A1
  else if off = 8 then w64 (s.boot + 2 ^ 8 * s.booterr + 2 ^ 16 * s.svn)
  else if 0x100 ≤ off ∧ off < 0x200 then (Tbl.getD s.meas ((off - 0x100) / 32) 0).extractLsb' (8 * (off % 32)) 64
  else if 0x1000 ≤ off ∧ off < 0x1800 then
    let sp := s.getSpace ((off - 0x1000) / 32)
    match off % 32 with
    | 0 => sp.root
    | 8 => sp.tvec.setWidth 64
    | 16 => w64 sp.en.toNat
    | _ => 0
  else if off = 0x2000 then s.tlbiva
  else if off = 0x2008 then s.tlbictl ||| w64 (2 ^ 31 * s.tlbiGo.toNat)
  else if off = 0x2148 then w64 ((s.getKey s.keyLast).loaded.toNat + 2 ^ 8 * s.keyErr.toNat)
  else if off = 0x3000 then s.aperbase
  else if off = 0x3008 then s.farbase
  else 0

/-- The registers of a graph slot (R396 Table 10). -/
def GSlot.hostWord (g : GSlot) (off : Nat) : Word64 :=
  if 0x100 ≤ off then Tbl.getD g.gp ((off - 0x100) / 8) 0
  else match off with
  | 0x00 => g.gbase
  | 0x08 => g.gcfg
  | 0x10 => g.gcomp
  | 0x18 => g.gfault
  | 0x28 => w64 ((g.phase != .idle).toNat + 2 ^ 8 * g.pending + 2 ^ 16 * g.errs + 2 ^ 32 * g.iter.toNat)
  | 0x38 => w64 g.gnodes
  | _ => 0

/-- The registers of a host ring (R398 Table 11). -/
def HRing.hostWord (r : HRing) (off : Nat) : Word64 :=
  match off with
  | 0x00 => r.hrbase
  | 0x08 => r.hrcfg
  | 0x10 => r.hrpcopy
  | 0x18 => r.ccnt.setWidth 64
  | 0x20 => w64 r.drop
  | 0x28 => r.pcnt.setWidth 64
  | _ => 0

/-- The words of a dispatch table (R164 Table 3). -/
def DTable.hostWord (t : DTable) (off : Nat) : Word64 :=
  if off = 0 then w64 (t.nexp + 2 ^ 16 * t.flags.toNat + 2 ^ 32 * t.mb.toNat)
  else if off < 0x28 then w64 (t.bound.getD ((off - 8) / 4) 0 + 2 ^ 32 * t.bound.getD ((off - 8) / 4 + 1) 0)
  else if off < 0x68 then t.sched.getD ((off - 0x28) / 8) 0
  else if off = 0x68 then w64 (t.rate.toNat + 2 ^ 32 * t.target)
  else if off = 0x70 then t.biasaddr
  else 0

/-- The registers of a die's block. HLSTAT of an empty queue reads 16 free entries, as its field is worded, though the Reset
column of R383 Table 1 says 0; PREQ and RESUME, whose access Table 1 does not name, read 0 (both DESIGN CHOICE, log entry
36). -/
def State.hostDie (s : State) (die off : Nat) : Word64 :=
  let d := s.getDie die
  let pair (f : Nat → Nat) (e : Nat) : Word64 := w64 (f e + 2 ^ 32 * f (e + 1))
  if off < 0x1000 then
    match off with
    | 0x08 => w64 (16 - d.hlaunch.length + 2 ^ 32 * d.hlDropped)
    | 0x20 => w64 d.pctx
    | 0x28 => w64 (d.pstatBusy.toNat + 2 * d.pstatDone.toNat + 16 * d.pstatResult)
    | 0x38 => d.dvec.setWidth 64
    | 0x100 => d.wsreg
    | 0x108 => d.kvrootb
    | 0x110 => d.sstb
    | 0x118 => d.sstn
    | 0x120 => d.kvas
    | 0x128 => d.collbase
    | _ => 0
  else if off < 0x1400 then (s.getTable die ((off - 0x1000) / 0x80)).hostWord (off % 0x80)
  else if 0x1_0000 ≤ off ∧ off < 0x2_0000 then Tbl.getD d.failover ((off - 0x1_0000) / 8) 0
  else if 0x2_0000 ≤ off ∧ off < 0x2_8000 then
    let t := s.getTable die ((off - 0x2_0000) / 0x1000)
    pair (fun e => (Tbl.getD t.shadow e 0).toNat) (off % 0x1000 / 4)
  else if 0x3_0000 ≤ off ∧ off < 0x3_8000 then
    let t := s.getTable die ((off - 0x3_0000) / 0x1000)
    pair (fun e => Tbl.getD t.counts e 0) (off % 0x1000 / 4)
  else if 0x8_0000 ≤ off ∧ off < 0x8_8000 then (s.getSlot die ((off - 0x8_0000) / 0x200)).hostWord (off % 0x200)
  else if 0xC_0000 ≤ off ∧ off < 0xC_1000 then (s.getHring die ((off - 0xC_0000) / 0x40)).hostWord (off % 0x40)
  else 0

/-- What a host read of the 8-byte register at an offset of BAR0 gives: zero for an offset that is not aligned, reserved or
write only, and for all but DEVSTAT in RECOVERY (R5, R8, R383, R386). A read changes nothing, so it is no step. -/
def State.hostRegister (s : State) (off : Nat) : Word64 :=
  if off % 8 ≠ 0 ∨ (s.boot = 2 ∧ off ≠ 8) then 0
  else if off < 0x10_0000 then s.hostModule off
  else if off < 0x50_0000 then s.hostDie (off / 0x10_0000 - 1) (off % 0x10_0000)
  else 0

/-! ## The aperture (R69, R236, R387) -/

/-- Lines that a write covers wholly stand under no key any more. -/
def State.unstamp (s : State) (pa n : Nat) : State :=
  { s with stamps := Tbl.keep s.stamps fun l _ => !decide (pa ≤ 128 * l ∧ 128 * l + 128 ≤ pa + n) }

/-- Every byte of a range is backed: it lies in one region, or in HBM. -/
def backedRange (pa n : Nat) : Bool :=
  (regionOf pa).isSome && decide (n = 0 ∨ regionOf (pa + n - 1) = regionOf pa ∨ pa + n ≤ 0x180_0000_0000)

/-- HOST_APERTURE_ACCESS (R236, R387): an offset in BAR2 counts from APERBASE. -/
def execHostApertureAccess (req : HostReq) (s : State) : Host.Outcome State Fault Refusal :=
  match req with
  | .read off n =>
    let pa := s.aperbase.toNat + off
    if !s.takesHost || decide (2 ^ 36 < off + n) then .next (s.emit (.hostRead (List.replicate n 0)))
    else if !backedRange pa n || s.badRange pa n then
      .next ((s.countBelow pa n).emit (.hostRead ((List.range n).map fun i => s.freeByte (2 ^ 66 + i))))
    else .next (s.emit (.hostRead (s.physBytes pa n)))
  | .write off bytes =>
    let pa := s.aperbase.toNat + off
    if !s.takesHost || decide (2 ^ 36 < off + bytes.length) || !backedRange pa bytes.length then .next s
    else
      match s.storePhys pa bytes with
      | some t => .next (t.unstamp pa bytes.length)
      | none => .next (s.countBelow pa bytes.length)

end Sys2Proof.Machine
end

