-- ==== Sys2Proof/Machine/EvMgmt.lean ====
section
/-! DEFINITION. Resets, boot, and the management endpoint (R385, R386, R406 to R421). -/

namespace Sys2Proof.Machine

open Sys2Proof

/-! ## Boot (R386, R420) -/

/-- Bytes of a firmware image before its payload: the header with its signature (R386 Table 3). -/
def imgHeaderSize : Nat := 16320

def imgPayload (bs : List Byte) : List Byte := slice bs imgHeaderSize (fld bs 8 8)

/-- Why an image does not pass steps 2 to 4: 2 no image, 5 digest, 3 signature, 4 SVN. -/
def imageFails (svnMin : Nat) (bs : List Byte) : Option Nat :=
  if bs.length < imgHeaderSize ∨ fld bs 0 4 ≠ 0x4F56_4657 ∨ bs.length < imgHeaderSize + fld bs 8 8 ∨ 255 < fld bs 4 4 then some 2
  else if sha256 (imgPayload bs) ≠ slice bs 0x10 32 then some 5
  else if leNat (sha256 (slice bs 0x30 48)) ≠ Config.romKeyHash ∨
      !Config.slhDsaVerify (slice bs 0x30 48) (slice bs 0 0x60) (slice bs 0x60 16224) then some 3
  else if fld bs 4 4 < max 1 svnMin then some 4
  else none

/-- The contents of a flash bank. -/
def Mgmt.bank (m : Mgmt) (b : Bool) : List Byte := if b then m.flash1 else m.flash0

def Mgmt.putBank (m : Mgmt) (b : Bool) (bs : List Byte) : Mgmt := if b then { m with flash1 := bs } else { m with flash0 := bs }

/-- The bank that boots, and the first failure's code; or the last failure's code. -/
def Mgmt.bootBank (m : Mgmt) : Except Nat (Bool × Nat) :=
  match imageFails m.svnMin (m.bank m.marked) with
  | none => .ok (m.marked, 0)
  | some c =>
    match imageFails m.svnMin (m.bank (!m.marked)) with
    | none => .ok (!m.marked, c)
    | some c' => .error c'

def Mgmt.modValid (m : Mgmt) : Bool := m.modid.getLsbD 12

/-- MEAS1 to MEAS7: the firmware's own configuration, which the manual does not give. -/
def State.freeMeas (s : State) (i : Nat) : BitVec 256 :=
  (s.free (2 ^ 90 + 4 * i)).setWidth 256 ||| (s.free (2 ^ 90 + 4 * i + 1)).setWidth 256 <<< 64 |||
    (s.free (2 ^ 90 + 4 * i + 2)).setWidth 256 <<< 128 ||| (s.free (2 ^ 90 + 4 * i + 3)).setWidth 256 <<< 192

/-- Firmware runs and MOD_ID is there: STATE reads READY; a raise of the minimum SVN asked for takes effect (R420). -/
def State.bootReady (s : State) : State :=
  let m := s.mgmt
  let raise := m.svnRaise && m.running == m.marked
  { s with
    boot := 1, modId := m.modid.setWidth 12,
    mgmt := { m with svnMin := if raise then max m.svnMin s.svn else m.svnMin, svnRaise := m.svnRaise && !raise } }

/-- Tile banks that three events have mapped out at boot (R412): each takes 4 tiles (R1, R19). -/
def Mgmt.tilesLost (m : Mgmt) (die : Nat) : Nat := 4 * (m.parity.filter fun e => e.1 / 8 = die && 3 ≤ e.2).length

/-- TILECAP of a die as boot sets it: 32, 28, 24 and so on down to 4 (R19). -/
def Mgmt.bootCap (m : Mgmt) (die : Nat) : Nat := max 4 (32 - 4 * (Config.bootBanks die % 8) - m.tilesLost die)

/-- HBM fails to train, and the links do: what the units themselves show, free (R386; log entry 37). -/
def State.hbmFails (s : State) : Bool := s.freeBool (2 ^ 93)

def State.linksFail (s : State) : Bool := s.freeBool (2 ^ 93 + 1)

/-- Boot stops at a step (R386): RECOVERY. -/
def State.bootStops (s : State) (code : Nat) : State := { s with boot := 2, booterr := code }

/-- The boot sequence (R386): HBM trains; the marked bank boots, or the other; the links train; MOD_ID is taken. -/
def State.bootUp (s : State) : State :=
  let s := { s with dies := (List.range 4).map fun d => (d, { s.getDie d with tilecap := s.mgmt.bootCap d }) }
  if s.hbmFails then { s with mgmt := { s.mgmt with running := s.mgmt.marked } }.bootStops 1 else
  match s.mgmt.bootBank with
  | .error c => { s with mgmt := { s.mgmt with running := s.mgmt.marked } }.bootStops c
  | .ok (b, c) =>
    let bs := s.mgmt.bank b
    let meas0 : BitVec 256 := BitVec.ofNat 256 (leNat (sha256 (slice bs 0 (imgHeaderSize + fld bs 8 8))))
    let s := { s with
      boot := 0, booterr := c, svn := fld bs 4 4,
      meas := (0, meas0) :: (List.range 7).map fun i => (i + 1, s.freeMeas (i + 1)),
      mgmt := { s.mgmt with running := b } }
    if s.linksFail then s.bootStops 6 else if s.mgmt.modValid then s.bootReady else s

/-- Firmware runs and waits for MOD_ID. -/
def State.waitsModid (s : State) : Bool := s.boot = 0 && s.svn != 0

/-! ## Reset levels (R385) -/

/-- Key material that no slot holds, and that nothing tells (R385). -/
def State.lostKey (s : State) : KeyMat := (List.range 8).foldl (fun k i => k <<< 64 ||| (s.free (2 ^ 95 + i)).setWidth 512) 0

/-- HBM is kept but unreadable, because every key slot is erased (R385): a line that stands under no key stands under a lost
one (log entry 48). -/
def State.lockHbm (s : State) : State :=
  let ls := (s.mem.filter fun c => match regionOf c.1 with | some (.hbm _) => true | _ => false).map fun c => c.1 / 128
  { s with stamps := ls.foldl (fun t l => if (Tbl.get? t l).isSome then t else Tbl.set t l s.lostKey) s.stamps }

/-- Vaults and node memory read zero, and their bad units are good (R69, R385). -/
def State.zeroSram (s : State) : State :=
  let keep (pa : Nat) : Bool := match regionOf pa with | some (.vault ..) | some (.node _) => false | _ => true
  { s with mem := s.mem.filter fun c => keep c.1, bad := s.bad.filter fun u => keep u.1 }

/-- A die after level FUNCTION: what is fixed at boot or measured stays. -/
def Die.cleared (d : Die) : Die :=
  { Die.start with tilecap := d.tilecap, hot := d.hot, arrgate := d.arrgate, vecgate := d.vecgate, lnkgate := d.lnkgate, age := d.age }

/-- Level FUNCTION (R385): every launch ends without a completion event; other modules' parts of a launch are aborted. -/
def State.functionReset (s : State) : State :=
  let s := s.launches.foldl (fun t l => l.2.parts.foldl (fun t (p : Part) =>
    if p.module = t.modId.toNat || l.2.done.isSome then t else t.emit (.remoteAbort p.module p.die l.1 4)) t) s
  let s := s.lockHbm.zeroSram
  { s with
    cores := [], clusters := [], dies := Tbl.mapVals s.dies fun _ d => d.cleared,
    tlb := [], waiters := [], remotePages := [], groups := [(0, Group.root)], launches := [], arriving := [], images := [],
    spaces := [], keys := [], owed := 0, keydata := List.replicate 8 0, keyErr := false, keyLast := 0,
    tlbiva := 0, tlbictl := 0, tlbiGo := false, tlbiRun := (0, 0), tlbiOps := [], tlbiOld := none, aperbase := 0, farbase := 0, roots := [],
    sbt := [], out := s.out ++ List.replicate s.owed (.remoteAnswer true []) }

/-- The management registers after a MODULE or POWER reset: what flash and fuses hold stays (R407, R412, R420). -/
def Mgmt.cleared (m : Mgmt) (now : Word64) : Mgmt :=
  { Mgmt.start with
    modid := m.modid, unlockAt := now, flash0 := m.flash0, flash1 := m.flash1, marked := m.marked, running := m.running,
    svnMin := m.svnMin, svnRaise := m.svnRaise, parity := m.parity }

/-- Level MODULE (R385): FUNCTION, then the boot sequence. -/
def State.moduleReset (s : State) : State :=
  let s := s.functionReset
  { s with dies := [], boot := 0, booterr := 0, svn := 0, meas := [], modId := 0, mgmt := s.mgmt.cleared s.time }.bootUp

/-- Level POWER (R385): everything goes, and device memory and module time are lost as well; other modules hear of it as of
FUNCTION. What flash and fuses hold stays, as does host memory, which is no part of the module. -/
def State.powerReset (s : State) : State :=
  { State.reset with
    turns := s.turns, core := s.core, seq := s.seq, fresh := s.fresh, host := s.host, nextLaunch := s.nextLaunch,
    mgmt := s.mgmt.cleared 0, out := s.functionReset.out }.bootUp

/-- RESETCTL_MODULE (R383, R385). -/
def execResetctlModule (s : State) : Host.Outcome State Fault Refusal := .next (if s.takesHost then s.moduleReset else s)

/-- RESETCTL_FUNCTION (R383, R385). -/
def execResetctlFunction (s : State) : Host.Outcome State Fault Refusal := .next (if s.takesHost then s.functionReset else s)

/-- PCIE_FLR (R385). -/
def execPcieFlr (s : State) : Host.Outcome State Fault Refusal := .next s.functionReset

/-- POWER_ON (R385, R386). -/
def execPowerOn (s : State) : Host.Outcome State Fault Refusal := .next s.powerReset

/-- MODID_TIMEOUT (R386, R407): firmware has waited 10 s for VALID. -/
def execModidTimeout (s : State) : Host.Outcome State Fault Refusal :=
  .next (if s.waitsModid && !s.mgmt.modValid then { s with boot := 2, booterr := 7 } else s)

/-! ## The management registers (R406 to R418) -/

/-- The completion of a request: a code, and a value read. -/
def State.answer (s : State) (code : Nat) (v : Word64) : State := s.emit (.mctp code v)

/-- TERR (R408): it grows by 20 ns per ms since the servo unlocked. -/
def State.terr (s : State) : Nat :=
  let m := s.mgmt
  if m.lock then m.terr.toNat
  else satU (m.terr.toNat + 20 * ((s.time.toNat - m.unlockAt.toNat) / 1_000_000)) 32

/-- LINKSTAT (R416). -/
def Port.word (p : Port) : Word64 :=
  w64 (p.lanes.toNat * 2 ^ 24 + p.nport.toNat * 2 ^ 20 + p.nmod.toNat * 2 ^ 8 + (if p.loop then 4 else 0) +
    (if p.up && p.lanes = 4 then 2 else 0) + (if p.up then 1 else 0))

/-- Some die gates its arrays for heat (R409). -/
def State.anyHot (s : State) : Bool := s.dies.any fun d => d.2.hot

/-- Whether an offset names a register, and the value it reads; a WO one reads zero. -/
def State.mgmtGet (s : State) (off : Nat) : Option Word64 :=
  let m := s.mgmt
  if off % 8 ≠ 0 then none
  else if 0x100 ≤ off ∧ off < 0x200 then
    let d := s.getDie ((off - 0x100) / 0x40)
    match (off - 0x100) % 0x40 with
    | 0x00 => some d.arrgate
    | 0x08 => some d.vecgate
    | 0x10 => some d.lnkgate
    | _ => none
  else if 0x200 ≤ off ∧ off < 0x300 then if off % 0x40 = 0 then some (s.getDie ((off - 0x200) / 0x40)).age else none
  else if 0x400 ≤ off ∧ off < 0x480 then some (s.getPort ((off - 0x400) / 8)).word
  else if 0x500 ≤ off ∧ off < 0x700 then some (Tbl.getD m.kvdrain ((off - 0x500) / 8) 0)
  else if 0x1000 ≤ off ∧ off < 0x1400 then
    some (if (off - 0x1000) / 8 % 32 < 17 then Tbl.getD m.errcnt ((off - 0x1000) / 8) 0 else 0)
  else match off with
  | 0x000 => some m.modid
  | 0x008 => some (w64 (s.terr * 2 ^ 32 + (if m.ever then 2 else 0) + (if m.lock then 1 else 0)))
  | 0x010 => some (w64 m.pcapNext)
  | 0x018 => some (w64 m.pfloorNext)
  | 0x020 => some (w64 (m.pwr % 2 ^ 13 + (if m.capped then 2 ^ 16 else 0) + (if s.anyHot then 2 ^ 17 else 0)))
  | 0x028 => some (m.eol.setWidth 64)
  | 0x030 => some (m.eolwarn.setWidth 64)
  | 0x038 => some (m.hbp.setWidth 64)
  | 0x040 => some 0
  | _ => none

/-- CNTCLR (R414): word [63:62] names 64 units, bit b unit b of them. -/
def State.putCntclr (s : State) (v : Word64) : State :=
  let w := natBits v.toNat 62 2
  { s with mgmt := { s.mgmt with errcnt := Tbl.keep s.mgmt.errcnt fun u _ => !(u / 64 = w && v.getLsbD (u % 64)) } }

/-- The caps after a write of PCAP or PFLOOR, which the next period takes (R409); none: denied. -/
def capsAllowed (cap floor : Nat) : Bool := decide (floor + 1000 ≤ cap)

/-- PCAP written (R409). -/
def State.putPcap (s : State) (v : Word64) : State × Nat :=
  let c := natBits v.toNat 0 13
  if decide (c < 1000 ∨ 4000 < c) || !capsAllowed c s.mgmt.pfloorNext then (s, 2)
  else ({ s with mgmt := { s.mgmt with pcapNext := c } }, 0)

/-- PFLOOR written (R409). -/
def State.putPfloor (s : State) (v : Word64) : State × Nat :=
  let f := natBits v.toNat 0 12
  if !capsAllowed s.mgmt.pcapNext f then (s, 2) else ({ s with mgmt := { s.mgmt with pfloorNext := f } }, 0)

/-- MODID written (R407): it waits in flash for the next reset, unless boot is waiting for it. -/
def State.putModid (s : State) (v : Word64) : State :=
  let s := { s with mgmt := { s.mgmt with modid := v &&& 0x1FFF } }
  if s.waitsModid && s.mgmt.modValid then s.bootReady else s

/-- A register written, with the completion code; writes to read-only registers are ignored (R8). -/
def State.mgmtPut (s : State) (off : Nat) (v : Word64) : State × Nat :=
  if (s.mgmtGet off).isNone then (s, 1)
  else if 0x500 ≤ off ∧ off < 0x700 then
    ({ s with mgmt := { s.mgmt with kvdrain := Tbl.set s.mgmt.kvdrain ((off - 0x500) / 8) v } }, 0)
  else match off with
  | 0x000 => (s.putModid v, 0)
  | 0x010 => s.putPcap v
  | 0x018 => s.putPfloor v
  | 0x030 => ({ s with mgmt := { s.mgmt with eolwarn := v.setWidth 16 } }, 0)
  | 0x038 => ({ s with mgmt := { s.mgmt with hbp := v.setWidth 16 } }, 0)
  | 0x040 => (s.putCntclr v, 0)
  | _ => (s, 0)

/-- A request that a module in RECOVERY does not serve answers BUSY (R406). -/
def State.served (s : State) (f : State → State × Nat) : State :=
  if s.boot = 2 then s.answer 3 0 else (f s).1.answer (f s).2 0

/-- The binding of a request whose event does not name it is free: the host's, or I3C (R406; log entry 72). -/
def State.hostBinding (s : State) : Bool := s.freeBool (2 ^ 93 + 2)

/-- A request that the host binding may not start: DENIED there, without effect (R406). -/
def State.unlessHost (s t : State) : State := if s.hostBinding then s.answer 2 0 else t

def State.servedBound (s : State) (f : State → State × Nat) : State :=
  s.served fun t => if s.hostBinding then (t, 2) else f t

/-- MCTP_READ (R406). -/
def execMctpRead (_hostBinding : Bool) (off : Nat) (s : State) : Host.Outcome State Fault Refusal :=
  if s.boot = 2 && off != 0 then .next (s.answer 3 0)
  else
    match s.mgmtGet off with
    | some v => .next (s.answer 0 v)
    | none => .next (s.answer 1 0)

/-- MCTP_WRITE (R406). -/
def execMctpWrite (hostBinding : Bool) (off : Nat) (value : BitVec 64) (s : State) : Host.Outcome State Fault Refusal :=
  if hostBinding then .next (s.answer (if s.boot = 2 then 3 else 2) 0) else .next (s.served fun t => t.mgmtPut off value)

/-- CNTCLR (R414). -/
def execCntclr (value : BitVec 64) (s : State) : Host.Outcome State Fault Refusal := .next (s.served fun t => (t.putCntclr value, 0))

/-- PCAP_WRITE (R409). -/
def execPcapWrite (value : BitVec 64) (s : State) : Host.Outcome State Fault Refusal := .next (s.served fun t => t.putPcap value)

/-- PFLOOR_WRITE (R409). -/
def execPfloorWrite (value : BitVec 64) (s : State) : Host.Outcome State Fault Refusal := .next (s.served fun t => t.putPfloor value)

/-- MODID_WRITE (R407). -/
def execModidWrite (value : BitVec 64) (s : State) : Host.Outcome State Fault Refusal :=
  .next (s.served fun t => (t.putModid value, 0))

/-- The heartbeats a module missed count from nothing again; one that is out stays out. -/
def forgive (d : Die) (m : Nat) : Die := { d with missed := Tbl.set d.missed m (Tbl.getD d.missed m 0 % 2) }

/-- FAILED_CLEAR (R168, R419): three further missed intervals set the bit again. -/
def execFailedClear (die : Nat) (t : BitVec 3) (expert : Nat) (s : State) : Host.Outcome State Fault Refusal :=
  .next (s.servedBound fun u =>
    if 1024 ≤ expert then (u, 1) else
    let d := u.getDie die
    let n := 1024 * t.toNat + expert
    let w := Tbl.getD d.failover n 0
    (u.setDie die { forgive d (natBits w.toNat 0 12) with failover := Tbl.set d.failover n (w &&& 0x7FFF_FFFF_FFFF_FFFF) }, 0))

/-- MANAGEMENT_MODULE_RESET (R385, R406). -/
def execManagementModuleReset (s : State) : Host.Outcome State Fault Refusal :=
  .next (if s.boot = 2 then s.answer 3 0 else s.unlessHost s.moduleReset)

/-- SET_EVENT_RECEIVER (R415). -/
def execSetEventReceiver (receiver : Nat) (s : State) : Host.Outcome State Fault Refusal :=
  .next (s.servedBound fun t => ({ t with mgmt := { t.mgmt with receiver := some receiver } }, 0))

/-- PLATFORM_EVENT_MESSAGE (R415): the oldest waiting event goes to the receiver, once one is set. -/
def execPlatformEventMessage (s : State) : Host.Outcome State Fault Refusal :=
  match s.mgmt.waiting, s.mgmt.receiver with
  | (c, u, a) :: rest, some _ => .next ({ s with mgmt := { s.mgmt with waiting := rest } }.emit (.event c u a))
  | _, _ => .next s

/-! ## Firmware update and attestation (R420, R421) -/

/-- REQUEST_UPDATE (R406, R420). -/
def execRequestUpdate (hostBinding : Bool) (s : State) : Host.Outcome State Fault Refusal :=
  if hostBinding then .next (s.answer 2 0)
  else if s.mgmt.upd != .none then .next (s.answer 3 0)
  else
    .next ({ s with mgmt := { s.mgmt with upd := .requested, saved := s.mgmt.bank (!s.mgmt.running) } }.answer 0 0)

/-- Bytes of a bank replaced from an offset on. -/
def putImage (bank : List Byte) (off : Nat) (bs : List Byte) : List Byte :=
  let b := bank ++ List.replicate (off - bank.length) 0
  b.take off ++ bs ++ b.drop (off + bs.length)

/-- FIRMWARE_IMAGE_TRANSFER (R420). -/
def execFirmwareImageTransfer (off : Nat) (bytes : List Byte) (s : State) : Host.Outcome State Fault Refusal :=
  let m := s.mgmt
  .next (s.unlessHost
    (if m.upd = .requested then { s with mgmt := m.putBank (!m.running) (putImage (m.bank (!m.running)) off bytes) } else s))

/-- VERIFY_COMPLETE (R420): an image that fails leaves both banks as they were. -/
def execVerifyComplete (s : State) : Host.Outcome State Fault Refusal :=
  let m := s.mgmt
  .next (s.unlessHost
    (if m.upd = .requested then
      match imageFails m.svnMin (m.bank (!m.running)) with
      | none => { s with mgmt := { m with upd := .verified } }.answer 0 0
      | some c => { s with mgmt := { m.putBank (!m.running) m.saved with upd := .none, saved := [] } }.answer 4 (w64 c)
    else s))

/-- ACTIVATE_FIRMWARE (R420): the new bank boots at the next POWER or MODULE reset. -/
def execActivateFirmware (svnRaise : Bool) (s : State) : Host.Outcome State Fault Refusal :=
  let m := s.mgmt
  .next (s.unlessHost
    (if m.upd = .verified then
      { s with mgmt := { m with upd := .none, saved := [], marked := !m.running, svnRaise := svnRaise } }.answer 0 0
    else s))

/-- 32 bytes of a measurement. -/
def measBytes (v : BitVec 256) : List Byte := leBytes 32 v.toNat

/-- The measurements a report carries: in RECOVERY the ROM's own, which the manual does not give, and zeros. -/
def State.reportMeas (s : State) (i : Nat) : BitVec 256 :=
  if s.boot = 2 then if i = 0 then s.freeMeas 0 else 0 else Tbl.getD s.meas i 0

/-- The signed bytes of an attestation report (R421 Table 4). -/
def State.reportBody (s : State) (nonce : BitVec 256) : List Byte :=
  let valid := if s.boot = 1 then true else s.mgmt.modValid
  leBytes 4 0x4F56_4154 ++ leBytes 2 1 ++ leBytes 2 (s.modId.toNat + (if valid then 2 ^ 12 else 0)) ++ leBytes 1 s.svn ++
    leBytes 1 (s.boot % 16 + s.booterr % 16 * 16) ++ leBytes 2 s.mgmt.eol.toNat ++ leBytes 4 0 ++ leBytes 8 s.time.toNat ++
    leBytes 32 nonce.toNat ++ ((List.range 8).map fun i => measBytes (s.reportMeas i)).flatten ++ leBytes 8 0

/-- ATTEST (R421 Table 4): the report with its signature, the identity key, and the certificate of that key. -/
def execAttest (nonce : BitVec 256) (s : State) : Host.Outcome State Fault Refusal :=
  let body := s.reportBody nonce
  let meas0 := (s.reportMeas 0).toNat
  .next (s.emit (.report (body ++ leBytes 16224 (Config.slhDsaSign meas0 body).toNat) (leBytes 48 (Config.identityKey meas0).toNat)
    (Config.identityCert meas0)))

/-! ## Power, heat and health (R409 to R411) -/

/-- Clocks of a 4 µs period. -/
def periodClocks : Nat := 3760

/-- Clocks in which a domain is gated that was granted less than its demand; the last fraction of a clock is free. -/
def State.gatedClocks (s : State) (salt demand grant : Nat) : Nat :=
  if demand ≤ grant then 0
  else
    let n := periodClocks * (demand - grant)
    n / demand + (if n % demand = 0 then 0 else s.freeBelow salt 2)

def addSat (v : Word64) (n : Nat) : Word64 := w64 (satU (v.toNat + n) 64)

/-- Grants of links, vector and arrays out of a budget, once SRAM and HBM have all they ask for (R409). -/
def grants (cap floor sram hbm links vector arrays : Nat) : Nat × Nat × Nat :=
  let left := cap - sram - hbm
  let gl := min links (left - floor)
  let gv := min vector (left - gl - floor)
  (gl, gv, min arrays (left - gl - gv))

/-- ARBITER_PERIOD (R409): the demands measured in the period before are met out of PCAP and PFLOOR as they stand. -/
def execArbiterPeriod (sram hbm links vector arrays : Nat) (s : State) : Host.Outcome State Fault Refusal :=
  let m := s.mgmt
  let (gl, gv, ga) := grants m.pcapNext m.pfloorNext sram hbm links vector arrays
  let nl := s.gatedClocks (2 ^ 91) links gl
  let nv := s.gatedClocks (2 ^ 91 + 1) vector gv
  let na := s.gatedClocks (2 ^ 91 + 2) arrays ga
  .next { s with
    dies := (List.range 4).foldl (fun t i =>
      let d := Tbl.getD t i Die.start
      Tbl.set t i { d with
        arrgate := addSat d.arrgate (if d.hot then periodClocks else na),
        vecgate := addSat d.vecgate nv, lnkgate := addSat d.lnkgate nl }) s.dies,
    mgmt := { m with
      pcap := m.pcapNext, pfloor := m.pfloorNext,
      capped := decide (gl < links ∨ gv < vector ∨ ga < arrays), pwr := s.freeBelow (2 ^ 91 + 3) (2 ^ 13) } }

/-- THERMAL_TRIP (R409, R415). -/
def execThermalTrip (die : Nat) (s : State) : Host.Outcome State Fault Refusal :=
  if die < 4 then .next ((s.setDie die { s.getDie die with hot := true }).pldm 2 die 0) else .next s

/-- THERMAL_CLEAR (R409). -/
def execThermalClear (die : Nat) (s : State) : Host.Outcome State Fault Refusal :=
  if die < 4 then .next (s.setDie die { s.getDie die with hot := false }) else .next s

/-- AGE_REFRESH (R410). -/
def execAgeRefresh (die : Nat) (value : BitVec 64) (s : State) : Host.Outcome State Fault Refusal :=
  if die < 4 then .next (s.setDie die { s.getDie die with age := value }) else .next s

/-- EOL_RECOMPUTE (R411): one event each time the prediction falls below EOLWARN. -/
def execEolRecompute (months : BitVec 16) (s : State) : Host.Outcome State Fault Refusal :=
  let m := s.mgmt
  let low := decide (months.toNat < m.eolwarn.toNat)
  let high := decide (m.eolwarn.toNat < months.toNat)
  let t := { s with mgmt := { m with eol := months, eolSent := low || (m.eolSent && !high) } }
  .next (if low && !m.eolSent then t.pldm 3 0 0 else t)

/-! ## Heartbeats and failover (R168, R419) -/

/-- Failover entries of a die's experts, by number, with their words. -/
def Die.experts (d : Die) : List (Nat × Word64) :=
  (d.dtables.map fun t => (List.range t.2.nexp).map fun e => (1024 * t.1 + e, Tbl.getD d.failover (1024 * t.1 + e) 0)).flatten

def primOf (w : Word64) : Nat := natBits w.toNat 0 12

/-- The entries of a module whose heartbeats have been missed three times are FAILED, each with an event. -/
def State.failModule (s : State) (die m : Nat) : State :=
  (s.getDie die).experts.foldl (fun t e =>
    if primOf e.2 = m && !e.2.getLsbD 63 then
      let d := t.getDie die
      (t.setDie die { d with failover := Tbl.set d.failover e.1 (e.2 ||| 0x8000_0000_0000_0000) }).pldm 1 (8192 * die + e.1) (w64 m)
    else t) s

/-- An interval ends for one primary: a heartbeat still out was missed; the next one goes out. -/
def State.beat (s : State) (die m : Nat) : State :=
  if m = s.modId.toNat then s else
  let d := s.getDie die
  let v := Tbl.getD d.missed m 0
  let n := v / 2 + v % 2
  let s := s.setDie die { d with missed := Tbl.set d.missed m (2 * n + 1) }
  (if 3 ≤ n then s.failModule die m else s).emit (.heartbeat die m)

/-- HEARTBEAT (R168, R419): nothing before the interval has ended; the next one lasts HBP as it then stands. -/
def execHeartbeat (die : Nat) (s : State) : Host.Outcome State Fault Refusal :=
  let d := s.getDie die
  let ms := (d.experts.map fun e => primOf e.2).eraseDups
  if s.time.toNat < d.beatAt then .next s
  else .next (ms.foldl (fun t m => t.beat die m)
    (s.setDie die { d with beatAt := s.time.toNat + 1000 * max 1 s.mgmt.hbp.toNat }))

/-- HEARTBEAT_ANSWER (R168). -/
def execHeartbeatAnswer (die : Nat) (module : BitVec 12) (s : State) : Host.Outcome State Fault Refusal :=
  let d := s.getDie die
  .next (s.setDie die { d with missed := Tbl.erase d.missed module.toNat })

/-! ## Time and links (R407, R408, R416, R417) -/

/-- What the servo adds to module time when it locks: more than 1 ms once, or nothing; time never runs backwards. -/
def State.timeStep (s : State) : Nat :=
  let n := s.freeBelow (2 ^ 92) (2 ^ 64 - s.time.toNat)
  if n ≤ 1_000_000 then 0 else n

/-- TIME_LOCK (R408): the bound TERR is the servo's own. -/
def execTimeLock (s : State) : Host.Outcome State Fault Refusal :=
  .next { s with
    time := s.time + BitVec.ofNat 64 s.timeStep,
    mgmt := { s.mgmt with lock := true, ever := true, terr := (s.free (2 ^ 92 + 1)).setWidth 32 } }

/-- TIME_UNLOCK (R408, R415). -/
def execTimeUnlock (s : State) : Host.Outcome State Fault Refusal :=
  if s.mgmt.lock then .next ({ s with mgmt := { s.mgmt with lock := false, unlockAt := s.time } }.pldm 5 0 0) else .next s

/-- PORT_DOWN (R416). -/
def execPortDown (port : Nat) (s : State) : Host.Outcome State Fault Refusal :=
  .next (if port < 16 then s.portFails port else s)

/-- PORT_RETRAIN (R407, R416): a neighbour that claims this module's number leaves the port down and marked LOOP. -/
def execPortRetrain (port : Nat) (lanes : BitVec 4) (nport : BitVec 4) (nmod : BitVec 12) (s : State) :
    Host.Outcome State Fault Refusal :=
  if 16 ≤ port ∨ (s.getPort port).up ∨ ¬ (lanes = 8 ∨ lanes = 4) then .next s
  else
    let same := decide (nmod = s.modId)
    .next (s.setPort port ⟨if same then 0 else lanes, nport, nmod, same, !same⟩)

/-- ROUTE_RECOMPUTE (R417): the modules some route reaches. -/
def execRouteRecompute (reachable : List (BitVec 12)) (s : State) : Host.Outcome State Fault Refusal :=
  .next { s with mgmt := { s.mgmt with reachable := reachable.map fun m => m.toNat } }

end Sys2Proof.Machine
end

