-- ==== Sys2Proof/Machine/EvRemote.lean ====
section
/-! DEFINITION. What arrives from other modules: their accesses to this one, and their answers to its requests (R32, R43, R44,
R91, R97, R119 to R122, R235). -/

namespace Sys2Proof.Machine

open Sys2Proof

/-! ## Accesses of other modules (R43, R44, R235) -/

/-- Another module's agent: it reaches no scratch window. -/
def farAgent (asid : Nat) (sup : Bool) : Agent := ⟨none, asid, sup, none, false⟩

/-- An atomic of another module at a place of this one (R65). -/
def State.amoFar (s : State) (x : Xl) (op : AmoOp) (dword : Bool) (b c : Word64) : Option (State × Word64) :=
  match x.place with
  | .dev pa =>
    let n := wordBytes dword
    if s.badRange pa n then none
    else
      let old := ofBytes 64 (s.keyBytes x.key pa n)
      match amoApply op dword old b c with
      | some v => (s.storeKeyed x.key pa (leBytes n v.toNat)).map fun t => (t, old)
      | none => some (s, old)
  | _ => none

/-- The answer to a failed access of a space: its cause, and the reason remote for a translation (R44). Nothing here changes
but the count of an uncorrectable error that was met (R413). -/
def State.denied (s : State) (asid : Nat) (e : EFail) : State :=
  let s := match e with | .fault .uncorr _ a => s.countSeen none asid a.toNat | _ => s
  s.emit (.remoteAnswer false (leBytes 1 e.codes.1 ++ leBytes 1 (if e.codes.1 = 3 then 2 else 0)))

/-- A row stored in a block of a die here: the answer is the block and its TIER (R118, R121). -/
def State.kvRowIn (s : State) (die slot : Nat) (sup : Bool) (row : List Byte) (t : State) (g : Nat) : State :=
  match t.vwrite (kvAgent t die sup) (t.blockAddr die g + slot * row.length) row with
  | (u, none) => u.emit (.remoteAnswer true (leBytes 4 g ++ leBytes 4 (u.blockTier die g)))
  | (_, some e) => s.denied (s.kvSpace die) e

/-- A row of an append stored in a block of a die here: a fresh one when none is named, or a copy of a shared one (R121). -/
def State.kvRowHere (s : State) (die slot : Nat) (gbn : Option Nat) (row : List Byte) (sup : Bool) : State :=
  let g := kvAgent s die sup
  let refuse := s.emit (.remoteAnswer false [])
  let fresh (bs : State → Except EFail (List Byte)) (drop : State → State) : State :=
    match s.freeBlock die slot with
    | none => refuse
    | some n =>
      match bs s with
      | .error e => s.denied (s.kvSpace die) e
      | .ok l =>
        match s.vwrite g (s.blockAddr die n) l with
        | (_, some e) => s.denied (s.kvSpace die) e
        | (t, none) => s.kvRowIn die slot sup row (drop (t.setRefcnt die n 1)) n
  match gbn with
  | some b =>
    if s.refcnt die b ≤ 1 then s.kvRowIn die slot sup row s b
    else fresh (fun u => u.vread g none (u.blockAddr die b) (64 * row.length)) fun t => t.setRefcnt die b (t.refcnt die b - 1)
  | none => fresh (fun _ => .ok (List.replicate (64 * row.length) 0)) id

/-- A root of a die here with its table, for a reorder elsewhere; zeros where it is not live (R127). -/
def State.kvRootHere (s : State) (die sid : Nat) : List Byte :=
  match s.getRoot (sidRoot sid) with
  | some k => if s.isHome sid && k.live then k.bytes ++ ((s.rootEntries die k).map fun e => leBytes 8 e).flatten else List.replicate 128 0
  | none => List.replicate 128 0

/-- A thief of another module served (R32): the range granted, or 0 for a refusal. -/
def State.stealHere (s : State) (launch level inst : Nat) : State :=
  match s.cores.find? fun c => match c.2.inst with | some i => i.launch = launch && i.inst = inst | none => false with
  | some (_, c) =>
    match c.inst with
    | some i =>
      let (t, lo, hi) := s.serveSteal launch level i.coords
      t.emit (.remoteAnswer true (leBytes 4 lo ++ leBytes 4 hi))
    | none => s.emit (.remoteAnswer false [])
  | none => s.emit (.remoteAnswer false [])

/-- The answer to an access to node memory here that meets uncorrectable data, which is counted (R69, R413). -/
def State.nodeDenied (s : State) (pa n : Nat) : State :=
  (s.countBelow pa n).emit (.remoteAnswer false (leBytes 1 12 ++ leBytes 1 0))

/-- Words of a page here that another module fetches: the page needs X (R45). -/
def State.fetchHere (s : State) (asid : Nat) (sup : Bool) (va n : Nat) : Except EFail (List Byte) :=
  match s.agentXlat (farAgent asid sup) .fetch va with
  | .error e => .error e
  | .ok x => match s.readEng 0 x n with | some bs => .ok bs | none => .error (.fault .uncorr 0 (w64 va))

/-- REMOTE_ACCESS (R43, R44, R235): it is translated here, in the space of the same number, and performs, or fails without
any effect. -/
def execRemoteAccess (asid : Nat) (off : BitVec 43) (sup : Bool) (req : RemoteReq) (s : State) :
    Host.Outcome State Fault Refusal :=
  let g := farAgent asid sup
  let va := off.toNat
  match req with
  | .read n =>
    match s.vread g none va n with
    | .ok bs => .next ((s.vtouch asid va n).emit (.remoteAnswer true bs))
    | .error e => .next (s.denied asid e)
  | .fetch n =>
    match s.fetchHere asid sup va n with
    | .ok bs => .next ((s.vtouch asid va n).emit (.remoteAnswer true bs))
    | .error e => .next (s.denied asid e)
  | .write bytes =>
    match s.vwrite g va bytes with
    | (t, none) => .next (t.emit (.remoteAnswer true []))
    | (_, some e) => .next (s.denied asid e)
  | .amo op dword b c =>
    if va % wordBytes dword ≠ 0 then .next (s.denied asid (.fault .misalign 0 (w64 va)))
    else
      match s.agentXlat g .amo va with
      | .error e => .next (s.denied asid e)
      | .ok x =>
        match (s.touch asid va).amoFar x op dword b c with
        | some (t, old) => .next (t.emit (.remoteAnswer true (leBytes 8 old.toNat)))
        | none => .next (s.denied asid (.fault .uncorr 0 (w64 va)))
  | .count =>
    match (List.range 2).mapM fun i => s.agentXlat g .amo (va + i) with
    | .error e => .next (s.denied asid e)
    | .ok xs =>
      match xs.mapM fun x => s.historyByte g x with
      | none => .next (s.denied asid (.fault .uncorr 0 (w64 va)))
      | some bs =>
        let t := (xs.zip (leBytes 2 (historyNew true 0 (leNat bs)))).foldlM (fun (t : State) e => t.historyPut g e.1 e.2) ((s.touch asid va).touch asid (va + 1))
        .next ((t.getD s).emit (.remoteAnswer true (leBytes 8 (leNat bs))))
  | .nodeRead hd o n =>
    if nodeNull hd || !s.nodeHere hd then .next (s.emit (.remoteAnswer false []))
    else if s.badRange (nodeAddr hd + o) n then .next (s.nodeDenied (nodeAddr hd + o) n)
    else .next (s.emit (.remoteAnswer true (s.physBytes (nodeAddr hd + o) n)))
  | .nodeWrite hd o bytes =>
    if nodeNull hd || !s.nodeHere hd then .next (s.emit (.remoteAnswer false []))
    else
      match s.storePhys (nodeAddr hd + o) bytes with
      | some t => .next (t.emit (.remoteAnswer true []))
      | none => .next (s.nodeDenied (nodeAddr hd + o) bytes.length)
  | .nodeSel child n sum c f l =>
    if nodeNull child || !s.nodeHere child then .next (s.emit (.remoteAnswer false []))
    else
      match s.selectHere child n sum c f l with
      | .child i => .next (s.emit (.remoteAnswer true (leBytes 8 i)))
      | .nobody => .next (s.emit (.remoteAnswer true (leBytes 8 0xFFFF)))
      | .uncorr => .next (s.nodeDenied (nodeAddr child) (64 * n))
  | .steal launch level inst => .next (s.stealHere launch level inst)
  | .kvRef die gbn up =>
    let n := s.refcnt die gbn
    .next ((s.setRefcnt die gbn (if up then n + 1 else n - 1)).emit (.remoteAnswer true []))
  | .kvRow die slot gbn row => .next (s.kvRowHere die slot gbn row sup)
  | .kvRoot die sid => .next (s.emit (.remoteAnswer true (s.kvRootHere die sid.toNat)))
  | .kvSst die gbn => .next (s.emit (.remoteAnswer true (s.sstEntry die gbn)))
  | .kvEntry die sid blk =>
    match s.getRoot (sidRoot sid.toNat) with
    | some k =>
      if s.isHome sid.toNat && k.live && decide (blk < k.nblk) then
        .next (s.emit (.remoteAnswer true (leBytes 8 (s.sbtRead die k blk) ++ leBytes 4 k.epoch.toNat)))
      else .next (s.emit (.remoteAnswer true (List.replicate 12 0)))
    | none => .next (s.emit (.remoteAnswer true (List.replicate 12 0)))
  | .preempt origin number die pctx packet => .next (s.preemptHere origin number die pctx packet)
  | .context launch coord ws => .next (s.contextIn launch coord ws)
  | .resume origin number die insts => .next (s.resumeHere origin number die insts)

/-! ## Answers of other modules -/

/-- The line of a global address, as a line key of LM has it. -/
def globalLine (va : Nat) : Nat := va % 2 ^ 55 / 128

/-- What a core's waiting operations know once a line of another module has come. -/
def Op.sawLine (o : Op) (line : Nat) : Op :=
  match o.kind with
  | .xfer .pref .. => { o with asked := o.asked.map fun e => if e.1 / 128 = line then (e.1, 0) else e }
  | _ => o

/-- A question for a word or line of this line of another module that has no answer. -/
def Op.asksLine (o : Op) (line : Nat) : Bool :=
  match o.kind with
  | .probe a => o.answer.isNone && decide (2 ^ 55 ≤ a.toNat ∧ a.toNat < 2 ^ 56) && globalLine a.toNat = line
  | _ => false

/-- A line of another module that has been asked for enters a core's LM, unless an acquire or a drop has come between: it may
then not be kept, and is asked for again (R53). -/
def State.lineIn (s : State) (core key : Nat) (data : BitVec 1024) : State :=
  match Tbl.get? (s.getCore core).asked key with
  | none => s
  | some keep =>
    let line := key % 2 ^ 54
    let s := if keep && (Tbl.get? (s.getCore core).lm key).isNone then s.lmRoom core key else s
    let c := s.getCore core
    let l := Tbl.getD c.lm key ⟨0, 0, 0, key % 2 ^ 62 / 2 ^ 54, none, true, false⟩
    let c := if keep then c.badWords key l else c
    let l := l.fill ((List.range 128).map fun i => byteAt data i)
    s.setCore core { c with
      lm := if keep then Tbl.set c.lm key l else c.lm,
      asked := Tbl.erase c.asked key,
      ops := (c.ops.filter fun o => !o.asksLine line).map fun o => o.sawLine line }

/-- The lines of other modules that an operation may have asked for. -/
def Op.askedLines (o : Op) : List Nat :=
  (o.via.filterMap fun v => if placeRemote v.2.2 then some (globalLine v.1) else none) ++
    (match o.kind with | .probe a => [globalLine a.toNat] | _ => []) ++ o.asked.filterMap fun e => if e.2 = 128 then some (e.1 / 128) else none

/-- Lines that an operation asked for in vain may be asked for again, by it or another (R235). -/
def Core.unaskOp (c : Core) (o : Op) : Core :=
  { c with
    asked := Tbl.keep c.asked fun k _ => !o.askedLines.contains (k % 2 ^ 54),
    ops := c.ops.map fun p => { p with asked := p.asked.filter fun e => !(e.2 = 128 && o.askedLines.contains (e.1 / 128)) } }

/-- A write of a completed operation has been acknowledged (R144). -/
def State.ackSent (s : State) (core op : Nat) : State :=
  let c := s.getCore core
  match Tbl.get? c.sent op with
  | some n => s.setCore core { c with sent := if n ≤ 1 then Tbl.erase c.sent op else Tbl.set c.sent op (n - 1) }
  | none => s

/-- A write-back, or a write of an operation to another module, has been acknowledged; where the operation has sent none, the
acknowledgement is the answer it waits for (R53, R231, R235). -/
def State.ackOp (s : State) (core op : Nat) : State :=
  let c := s.getCore core
  match Tbl.get? c.wbs op with
  | some key => s.ackBack core op key
  | none =>
    let s := s.ackSent core op
    match s.openOp core op with
    | none => s
    | some o =>
      if o.out = 0 then
        (match o.kind with | .nwr .. => s.doneOp core op | _ => s.putOpAt core { o with answer := some (.ack core op) })
      else
        let t := s.putOpAt core { o with out := o.out - 1 }
        match o.kind with
        | .dispMb n => if o.out = 1 then t.dispMbEnd core { o with out := 0 } n else t
        | _ => t

/-- An operation's request has been refused by its owner or lost with its module (R44, R69): the answer says so. -/
def State.refusedOp (s : State) (core op : Nat) (ans : RemoteAnswer) : State :=
  let c := s.getCore core
  match Tbl.get? c.wbs op with
  | some key => s.ackBack core op key
  | none =>
    let s := s.ackSent core op
    match s.openOp core op, answerWhy (some ans) with
    | some o, some (cause, reason) =>
      let s := s.setCore core ((s.getCore core).unaskOp o)
      match o.kind with
      | .xfer .pref .. => s.setCore core ((s.getCore core).updOp op fun p => { p with asked := o.asked.map fun e => (e.1, 0) })
      | .nwr hd _ _ _ => s.failOp core o cause.code.toNat reason (hd.setWidth 64) 0
      | .hring _ src _ _ _ => s.failOp core o cause.code.toNat reason src o.prog
      | .dispMb n => s.failOp core o cause.code.toNat reason (s.getTable (coreDie core) n).biasaddr 0
      | _ => s.setCore core ((s.getCore core).updOp op fun p => { p with answer := some ans })
    | _, _ => s

/-- A victim on another module has answered a thief (R32). -/
def State.stealBack (s : State) (core j : Nat) (v : Word64) : State :=
  match (s.getCore core).inst with
  | none => s
  | some i =>
    match i.lvl[j]? with
    | some st =>
      if st.asking < 2 ^ 16 then s
      else s.setCore core ((s.getCore core).setLvl j
        { st with asking := st.asking % 2 ^ 16, reply := some (natBits v.toNat 0 32, natBits v.toNat 32 32) })
    | none => s

/-- The place lies on a line of another module, for a core. -/
def hitFar (core line : Nat) (k : Nat) (x : Xl) : Bool :=
  k = core && (match x.place with | .remote m off => (m * 2 ^ 43 + off) / 128 = line | _ => false)

/-- The word an operation asked for has come; a sleeper that has armed a word of its line sees a write (R233). -/
def State.valueOp (s : State) (core op : Nat) (v : Word64) : State :=
  match s.openOp core op with
  | none => s
  | some o =>
    let s := s.putOpAt core { o with answer := some (.value core op v) }
    match o.kind with
    | .probe a => if 2 ^ 55 ≤ a.toNat ∧ a.toNat < 2 ^ 56 then s.wake (hitFar core (globalLine a.toNat)) else s
    | _ => s

/-- A part of a launch on another module has ended with a code in bits 15 to 0 and LATE in bit 16 (R21, R394), or was lost
with its module, which counts as a fault. -/
def State.partBack (s : State) (id pi : Nat) (v : Nat) : State :=
  match Tbl.get? s.launches id with
  | none => s
  | some l =>
    match l.parts[pi]? with
    | none => s
    | some p =>
      let code := v % 2 ^ 16
      let late := natBits v 16 1 = 1
      let end_ (l : Launch) (st : Stage) : Launch := l.updPart pi fun p => { p with stage := st, late := p.late || late }
      if p.module = s.modId.toNat || l.done.isSome then s
      else if l.abort.isSome then (s.setLaunch id (end_ l .discarded)).launchCheck id
      else if code = 1 then (s.setLaunch id (end_ l .ended)).launchCheck id
      else if code = 3 then (s.setLaunch id (end_ { l with faults := l.faults + 1 } .ended)).launchCheck id
      else (s.setLaunch id (end_ l .discarded)).abortLaunch id code

/-- Numbers that stand for a die's jobs in requests to other modules. -/
def isJobCore (core : Nat) : Bool := 2048 ≤ core && core < 2052

/-- Bytes come for a job of a graph unit. -/
def State.jobBytes (s : State) (die j : Nat) (cells : List (Nat × Byte)) : State :=
  match s.getJob die j with
  | some b => s.setJob die j { b with cells := cells.foldl (fun t c => Tbl.set t c.1 c.2) b.cells }
  | none => s

/-- The word an atomic of a job has answered. -/
def State.jobWord (s : State) (die j : Nat) (v : Word64) : State :=
  match s.getJob die j with | some b => s.setJob die j { b with word := some v } | none => s

def State.jobAck (s : State) (die j : Nat) : State :=
  match s.getJob die j with | some b => s.setJob die j { b with out := b.out - 1 } | none => s

/-- A job's request was refused or lost: its unit finds the cause in the answer (R44). -/
def State.jobRefused (s : State) (die j : Nat) (cause reason : Nat) : State :=
  match s.getJob die j with
  | some b => s.setJob die j { b with failed := true, word := some (w64 (cause + 256 * reason)) }
  | none => s

/-- A record that a unit has sent to another module: it performed, or why not. Then the interrupt that announces it (R399,
R422). -/
def State.slotBack (s : State) (die slot op : Nat) (why : Option (Nat × Nat)) : State :=
  let g := s.getSlot die slot
  let s := s.setSlot die slot { g with out := g.out - 1 }
  let va := op % 2 ^ 60
  let fa := g.gfault.toNat % 2 ^ 60
  let s := match why with
    | some (c, r) => if va = fa ∨ va = fa + 0x20 then s else s.slotRecord die slot c r va
    | none => s
  if natBits op 60 1 = 1 && why.isNone then s.dvec die else s

def State.launchBack (s : State) (id op : Nat) (why : Option (Nat × Nat)) : State :=
  match Tbl.get? s.launches id with
  | none => s
  | some l =>
    let s := s.setLaunch id { l with out := l.out - 1 }
    let word := decide (op % 2 ^ 60 = l.evt.toNat % 2 ^ 60)
    let s := match why with
      | some (c, r) => if word then s.evtFails id l c r else s
      | none => s
    let s := if natBits op 60 1 = 1 && (word || why.isNone) then s.dvec l.home else s
    s.dvecFor (if natBits op 61 3 = 0 then none else some (natBits op 61 3 - 1))

def State.ropeBack (s : State) (g : Nat) (why : Option (Nat × Nat)) : State :=
  match why, (s.getGroup g).bind (·.rope) with
  | some (c, r), some rp => s.ropeFails rp c r
  | _, _ => s

/-- An acknowledgement, or why there is none, by whom it is for. -/
def State.answered (s : State) (core op : Nat) (ans : RemoteAnswer) : State :=
  let why := (answerWhy (some ans)).map fun w => (w.1.code.toNat, w.2)
  if binWrites ≤ core then s.binBack (core - binWrites) op why.isSome
  else if ropeWrites ≤ core then s.ropeBack op why
  else if launchWrites ≤ core then s.launchBack (core - launchWrites) op why
  else if partCore ≤ core then s.partBack (core - partCore) op (if why.isSome then 3 else 1)
  else if isUnit core && decide (slotWrites ≤ op) then s.slotBack (coreDie core) (core % 64) (op - slotWrites) why
  else if isJobCore core then
    (match why with
      | some (c, r) => s.jobRefused (core - 2048) op c r
      | none => s.jobAck (core - 2048) op)
  else if stealOp 0 ≤ op then s.stealBack core (op - stealOp 0) 0
  else if why.isSome then s.refusedOp core op ans
  else s.ackOp core op

/-- REMOTE_RESPONSE (R43, R44, R53, R235): an owner's translation, line, word, bytes, acknowledgement, or its loss. -/
def execRemoteResponse (ans : RemoteAnswer) (s : State) : Host.Outcome State Fault Refusal :=
  match ans with
  | .page asid page kind r w x su uncached =>
    if asid < 64 ∧ page < 2 ^ 39 ∧ kind < 3 then
      .next ({ s with remotePages := Tbl.set s.remotePages (asid * 2 ^ 39 + page) ⟨kind, r, w, x, su, uncached, none⟩ }.ringsAgain)
    else .next s
  | .pageFail asid page reason =>
    if asid < 64 ∧ page < 2 ^ 39 ∧ (reason = 1 ∨ reason = 2) then
      .next ({ s with remotePages := Tbl.set s.remotePages (asid * 2 ^ 39 + page) ⟨0, false, false, false, false, true, some reason⟩ }.ringsAgain)
    else .next s
  | .line core key data => .next (s.lineIn core key data)
  | .value core op v =>
    if isJobCore core then .next (s.jobWord (core - 2048) op v)
    else if partCore ≤ core then .next (s.partBack (core - partCore) op v.toNat)
    else if stealOp 0 ≤ op then .next (s.stealBack core (op - stealOp 0) v)
    else .next (s.valueOp core op v)
  | .bytes core op cells =>
    if isJobCore core then .next (s.jobBytes (core - 2048) op cells)
    else
      match s.openOp core op with
      | some o => .next ((s.putOpAt core { o with answer := some (mergeCells o.answer core op cells) }).ringAgain core op)
      | none => .next s
  | .ack core op | .lost core op => .next (s.answered core op ans)
  | .denied core op _ _ => .next (s.answered core op ans)

end Sys2Proof.Machine
end

