-- ==== Sys2Proof/Machine/EvTree.lean ====
section
/-! DEFINITION. What the tree engine and the batch former do of their own: hand-offs, bins, the sweep, references and cancels
from other modules, groups that return to the pool (R75, R82, R83, R87, R99, R100, R116). -/

namespace Sys2Proof.Machine

open Sys2Proof

/-- EVAL_HANDOFF (R83, R99, R337): the first record of a die's queue, if it is an EVAL task, is checked and joins a bin;
while no bin can take it, and while other records stand before it, it stays queued. -/
def execEvalHandoff (die : Nat) (s : State) : Host.Outcome State Fault Refusal :=
  match firstTask (s.queued die) with
  | none => .next s
  | some (slot, t) =>
    if !t.isEval then .next s else
    match s.failsCheck t with
    | some r => .next (s.endTask die slot r)
    | none => .next ((s.handOff die slot).getD s)

/-- BIN_WINDOW_EXPIRY (R100). -/
def execBinWindowExpiry (die bin : Nat) (s : State) : Host.Outcome State Fault Refusal :=
  match s.getBin die bin with
  | some b => .next (if !b.frozen && s.windowOver b then s.freeze die bin else s)
  | none => .next s

/-- BIN_LAUNCH (R100, R116): the first frozen bin that can goes on. -/
def execBinLaunch (die : Nat) (s : State) : Host.Outcome State Fault Refusal :=
  match (s.getDie die).bins.find? fun b => s.binReady die b.2 with
  | some (n, _) => .next (s.launchBin die n)
  | none => .next s

/-- SWEEP (R83): the records of a die that are no longer issuable end. -/
def execSweep (die : Nat) (s : State) : Host.Outcome State Fault Refusal :=
  .next ((s.queued die).foldl (fun t e =>
    match t.failsCheck e.2 with
    | some r => t.endTask die e.1 r
    | none => t) s)

/-- REMOTE_TREF (R75): another module raises or drops a cairn's task reference count here; a raise at 65,535 fails. -/
def execRemoteTref (raise : Bool) (handle : BitVec 32) (s : State) : Host.Outcome State Fault Refusal :=
  if nodeNull handle || !s.nodeHere handle then .next (s.emit (.remoteAnswer false []))
  else
    let n := s.nodeFld handle 34 2
    if raise && n = 65535 then .next (s.emit (.remoteAnswer false []))
    else .next ((s.tref handle raise).emit (.remoteAnswer true []))

/-- REMOTE_TCANCEL (R82): a cancel from another module is performed; group 0 cannot be cancelled (R81). The answer waits
until the key slots it retired are erased (R86). -/
def execRemoteTcancel (group : BitVec 16) (s : State) : Host.Outcome State Fault Refusal :=
  let t := s.cancelGroup group.toNat none
  .next (if t.keysErased then t.emit (.remoteAnswer true []) else { t with owed := t.owed + 1 })

/-- A task counts toward its group: QUEUED, RUNNING, or a BINNED row (R87). -/
def Task.counts (t : Task) (g : Nat) : Bool :=
  t.group = g && match t.state with
    | .free | .waiting => false
    | _ => true

/-- A core, or a core as an image keeps it, has a command of the group in flight (R87). -/
def Core.inFlight (c : Core) (g : Nat) : Bool := c.ops.any fun o => o.group = g && !o.done && !o.kind.isProbe

/-- What keeps a dead group from the pool (R87). -/
def State.groupBusy (s : State) (g : Nat) : Bool :=
  (s.dies.any fun d => (d.2.tasks.any fun t => t.2.counts g) || d.2.jobs.any fun j => j.2.group = g && !j.2.done) ||
    (s.cores.any fun c => c.2.inFlight g) || (s.images.any fun (m : Image) => match m.core with | some c => c.inFlight g | none => false) ||
    (s.groups.any fun e => e.1 != g && e.2.parent = g && e.1 != 0) || s.keys.any fun k => k.2.group = some g

/-- GROUP_FREE (R81, R87, R106): a dead group that nothing counts toward any more returns to the pool. -/
def execGroupFree (group : Nat) (s : State) : Host.Outcome State Fault Refusal :=
  match s.getGroup group with
  | none => .next s
  | some e =>
    if group = 0 || s.alive group || s.groupBusy group then .next s
    else .next (s.dropGroup group e).ropesSettle

end Sys2Proof.Machine
end

