-- ==== Sys2Proof/Machine/Fpu.lean ====
section
/-! DEFINITION. Majors 0x05 and 0x06: scalar floating point (R243 to R246). -/

namespace Sys2Proof.Machine

open Sys2Proof

/-- An FP32 result placed in xD, its events in STATUS (R177, R243). -/
def State.putFp (s : State) (d : XReg) (r : Nat × Ev) : State := (s.setX d (w64 r.1)).scalarEv r.2

/-- An FP32 operation of two operands and the old destination. -/
def State.fpXX (s : State) (sub : Nat) (h : Hdr) (d a b : XReg) (f : Nat → Nat → Nat → Nat × Ev) :
    Host.Outcome State Fault Refusal :=
  s.issue (scalar h false 0x05 sub [d, a, b] []) fun t =>
    .done (t.putFp d (f (lo32 (t.getX a)) (lo32 (t.getX b)) (lo32 (t.getX d))))

def State.fpXI (s : State) (sub : Nat) (h : Hdr) (d a : XReg) (imm : BitVec 28) (f : Nat → Nat → Nat → Nat × Ev) :
    Host.Outcome State Fault Refusal :=
  s.issue (scalar h true 0x05 sub [d, a] []) fun t =>
    .done (t.putFp d (f (lo32 (t.getX a)) (fpImm imm) (lo32 (t.getX d))))

def execFadd (h : Hdr) (d a b : XReg) (s : State) : Host.Outcome State Fault Refusal :=
  s.fpXX 0 h d a b (fun a b _ => f32.add a b)

def execFaddImm (h : Hdr) (d a : XReg) (imm : BitVec 28) (s : State) : Host.Outcome State Fault Refusal :=
  s.fpXI 0 h d a imm (fun a b _ => f32.add a b)

def execFsub (h : Hdr) (d a b : XReg) (s : State) : Host.Outcome State Fault Refusal :=
  s.fpXX 1 h d a b (fun a b _ => f32.sub a b)

def execFsubImm (h : Hdr) (d a : XReg) (imm : BitVec 28) (s : State) : Host.Outcome State Fault Refusal :=
  s.fpXI 1 h d a imm (fun a b _ => f32.sub a b)

def execFmul (h : Hdr) (d a b : XReg) (s : State) : Host.Outcome State Fault Refusal :=
  s.fpXX 2 h d a b (fun a b _ => f32.mul a b)

def execFmulImm (h : Hdr) (d a : XReg) (imm : BitVec 28) (s : State) : Host.Outcome State Fault Refusal :=
  s.fpXI 2 h d a imm (fun a b _ => f32.mul a b)

def execFma (h : Hdr) (d a b : XReg) (s : State) : Host.Outcome State Fault Refusal :=
  s.fpXX 3 h d a b (fun a b c => f32.fma a b c)

def execFmaImm (h : Hdr) (d a : XReg) (imm : BitVec 28) (s : State) : Host.Outcome State Fault Refusal :=
  s.fpXI 3 h d a imm (fun a b c => f32.fma a b c)

def execFmin (h : Hdr) (d a b : XReg) (s : State) : Host.Outcome State Fault Refusal :=
  s.fpXX 4 h d a b (fun a b _ => f32.minMax false a b)

def execFminImm (h : Hdr) (d a : XReg) (imm : BitVec 28) (s : State) : Host.Outcome State Fault Refusal :=
  s.fpXI 4 h d a imm (fun a b _ => f32.minMax false a b)

def execFmax (h : Hdr) (d a b : XReg) (s : State) : Host.Outcome State Fault Refusal :=
  s.fpXX 5 h d a b (fun a b _ => f32.minMax true a b)

def execFmaxImm (h : Hdr) (d a : XReg) (imm : BitVec 28) (s : State) : Host.Outcome State Fault Refusal :=
  s.fpXI 5 h d a imm (fun a b _ => f32.minMax true a b)

/-- An integer result extended to 64 bits by its type; a floating-point one zero-extended (R245). -/
def placeElem (t : ElemTy) (b : Nat) : Word64 := if t.isFloat then w64 b else BitVec.ofInt 64 (t.toInt b)

/-- `fcvt` (R245). -/
def execFcvt (h : Hdr) (d a : XReg) (src dst : ElemTy) (rm : RMode) (sat : Bool) (s : State) : Host.Outcome State Fault Refusal :=
  s.issue (scalar h true 0x05 6 [d, a] []) fun t =>
    let r := convert src dst rm sat 0 (t.getX a).toNat
    .done ((t.setX d (placeElem dst r.1)).scalarEv r.2)

/-- `fcmp` (R246). -/
def State.fcmp (s : State) (c : FCond) (d : PReg) (a b : Nat) : State :=
  let r := f32.cond c a b
  (s.setPair d r.1).scalarEv r.2

def execFcmp (h : Hdr) (c : FCond) (d : PReg) (a b : XReg) (s : State) : Host.Outcome State Fault Refusal :=
  s.issue (scalar h false 0x06 0 [a, b] [d, d ^^^ 1]) fun t => .done (t.fcmp c d (lo32 (t.getX a)) (lo32 (t.getX b)))

def execFcmpImm (h : Hdr) (c : FCond) (d : PReg) (a : XReg) (imm : BitVec 28) (s : State) : Host.Outcome State Fault Refusal :=
  s.issue (scalar h true 0x06 0 [a] [d, d ^^^ 1]) fun t => .done (t.fcmp c d (lo32 (t.getX a)) (fpImm imm))

end Sys2Proof.Machine
end

