-- ==== Sys2Proof/Machine/Reel.lean ====
section
/-! DEFINITION. Major 0x0B, the reel, and major 0x2F, the bivouac (R259 to R265). -/

namespace Sys2Proof.Machine

open Sys2Proof

/-- Value row v of a push: the row of TB, or the v-th after it in its tile (R260). -/
def State.valueRow (s : State) (vals : TileOp) (v : Nat) : Row :=
  match vals with
  | .tile t r => s.cur.row t.toNat (r.toNat + v)
  | op => s.readOp op 4

/-- `dqpush` (R260). -/
def State.dqpush (s : State) (g : Pred) (pr : PReg) (tag vals : TileOp) (n : Nat) : State :=
  let es := predElems 4 g
  if 256 < s.cur.reel.length + es.length then s.setFlag pr false
  else
    let tags := s.readOp tag 4
    let rows := (List.range n).map (s.valueRow vals)
    let new : List ReelEntry := es.map fun e =>
      ⟨BitVec.ofNat 32 (elem tags 4 e), rows.map fun r => BitVec.ofNat 32 (elem r 4 e)⟩
    let c := s.cur
    (s.setCur { c with reel := c.reel ++ new }).setFlag pr true

def execDqpush (h : Hdr) (_et : ElemTy) (pr : PReg) (tag vals : TileOp) (n : BitVec 3) (s : State) :
    Host.Outcome State Fault Refusal :=
  let rows := match vals with
    | .tile t r => rowsOf t.toNat r.toNat (max 1 n.toNat)
    | _ => []
  let f := tileForm h 0x0B 0 [] [tag, vals] [pr]
  s.issue { f with rr := rowOf tag ++ rows } fun t => .done (t.dqpush (t.guard h) pr tag vals n.toNat)

/-- `dqdrain` (R261): the oldest entries to tag and value rows; nothing below 64 entries unless forced. -/
def State.dqdrain (s : State) (t row : Nat) (force : Bool) (pm : PReg) (n : Nat) : State :=
  let c := s.cur
  let cnt := c.reel.length
  if 64 ≤ cnt ∨ (force ∧ 0 < cnt) then
    let m := min cnt 64
    let es := c.reel.take m
    let rowAt (f : ReelEntry → Word32) : Row := rowOfElems 4 (es.map fun e => (f e).toNat)
    let rows := rowAt (·.tag) :: (List.range n).map fun v => rowAt fun e => e.vals.getD v 0
    let c := { c with reel := c.reel.drop m, lr := rows.getLast?.getD 0 }
    (s.setCur (c.setRows t row rows)).setP pm (lowBits (4 * m))
  else s.setP pm 0

def execDqdrain (h : Hdr) (_et : ElemTy) (t : BitVec 5) (row : BitVec 4) (force : Bool) (pm : PReg) (n : BitVec 3)
    (s : State) : Host.Outcome State Fault Refusal :=
  let f := tileForm h 0x0B 1 [.tile t row] [] [pm]
  s.issue { f with guarded := true, rw := rowsOf t.toNat row.toNat (n.toNat + 1) } fun u =>
    .done (u.dqdrain t.toNat row.toNat force pm n.toNat)

/-- `dqcnt` (R262). -/
def execDqcnt (h : Hdr) (xd : XReg) (s : State) : Host.Outcome State Fault Refusal :=
  s.issue (scalar h true 0x0B 2 [xd] []) fun t => .done (t.setX xd (w64 t.cur.reel.length))

/-! ## The bivouac -/

/-- The control L1 without the scratch lines of [off, off + n) (R265). -/
def Core.l1ClearScr (c : Core) (core off n : Nat) : Core :=
  { c with l1 := Tbl.keep c.l1 fun k _ => !(scrLineKey core (off / 128) ≤ k && k < scrLineKey core ((off + n) / 128)) }

/-- The pinned lines of one bank, with their full/empty bits, copied to the other (R264): from and to are line numbers. -/
def Core.copyLines (c : Core) (src dst n : Nat) : Core :=
  { c with pins := (List.range n).foldl (fun p i => Tbl.set p (dst + i) (Tbl.getD c.pins (src + i) ⟨0, 0⟩)) c.pins }

/-- First line of bank k of a region. -/
def bankLine (base len k : Nat) : Nat := (base + k * len) / 128

/-- A virtual address of the scratch window. -/
def scrAddr (off : Nat) : Word64 := w64 (scratchBase + off)

/-- The first line of [off, off + n) that is not pinned, as an offset. -/
def Core.firstUnpinned (c : Core) (off n : Nat) : Option Nat :=
  ((List.range (n / 128)).map fun i => off + 128 * i).find? fun o => (Tbl.get? c.pins (o / 128)).isNone

/-- The checks of `spbeg` (R264). -/
def State.spbegStop (s : State) (b l : Word64) : Option (Cause × Word64) :=
  if b.toNat % 128 ≠ 0 ∨ l.toNat % 128 ≠ 0 then some (.misalign, w64 scratchBase + b)
  else if l = 0 ∨ 0x1_0000 < l.toNat ∨ 0x10_0000 < b.toNat + 2 * l.toNat then
    some (.page, pageVal 0 (w64 scratchBase + b))
  else
    match s.cur.firstUnpinned b.toNat (2 * l.toNat) with
    | some o => some (.page, pageVal 3 (scrAddr o))
    | none => if s.cur.biv.active then some (.illegal, 0) else none

/-- The bivouac opened (R264). -/
def Core.openBivouac (c : Core) (core b l : Nat) : Core :=
  let o := c.biv
  let same := decide (o.base = b ∧ o.len = l)
  let c := if o.configured && !same && o.cur then
      c.copyLines (bankLine o.base o.len 1) (bankLine o.base o.len 0) (o.len / 128)
    else c
  let cur := o.configured && same && o.cur
  let k := if cur then 1 else 0
  let c := c.copyLines (bankLine b l k) (bankLine b l (1 - k)) (l / 128)
  { c with biv := ⟨b, l, true, cur, true, true, 0, 0⟩ }.l1ClearScr core b (2 * l)

def bivForm (h : Hdr) (sub : Nat) (xs : List XReg) : Form := scalar h false 0x2F sub xs []

/-- A switch waits for the control sequencer's earlier stores and atomics to the window (R264, R265), and for its earlier
loads: R265's results allow no load that reaches the bank selected after it (DEDUCED, log entry 62). -/
def State.ownStoresDone (s : State) : Bool := !s.cur.scratchPending s.seq

def execSpbeg (h : Hdr) (xa xb : XReg) (s : State) : Host.Outcome State Fault Refusal :=
  s.issue (bivForm h 0 [xa, xb]) fun t =>
    match t.spbegStop (t.getX xa) (t.getX xb) with
    | some (c, v) => .trap c v
    | none =>
      if t.ownStoresDone then .later (t.setCur (t.cur.openBivouac t.core (t.getX xa).toNat (t.getX xb).toNat)) else .wait

/-- The end of a bivouac, kept or dropped (R265). -/
def Core.closeBivouac (c : Core) (core : Nat) (keep : Bool) : Core :=
  let o := c.biv
  if o.active then
    { c with biv := { o with active := false, cur := if keep then !o.cur else o.cur } }.l1ClearScr core o.base (2 * o.len)
  else c

def execSpcom (h : Hdr) (s : State) : Host.Outcome State Fault Refusal :=
  s.issue (bivForm h 1 []) fun t =>
    if t.ownStoresDone then .done (t.setCur (t.cur.closeBivouac t.core true)) else .wait

def execSpabt (h : Hdr) (s : State) : Host.Outcome State Fault Refusal :=
  s.issue (bivForm h 2 []) fun t =>
    if t.ownStoresDone then .done (t.setCur (t.cur.closeBivouac t.core false)) else .wait

end Sys2Proof.Machine
end

