-- ==== Sys2Proof/Machine/Dispatch.lean ====
section
/-! DEFINITION. One arm for each row of the opcode table: a call of its meaning. -/

namespace Sys2Proof.Machine

open Sys2Proof

def exec (i : Instr) (s : State) : Host.Outcome State Fault Refusal :=
  match i with
  | .add h d a b => Sys2Proof.Machine.execAdd h d a b s
  | .addImm h d a imm => Sys2Proof.Machine.execAddImm h d a imm s
  | .sub h d a b => Sys2Proof.Machine.execSub h d a b s
  | .subImm h d a imm => Sys2Proof.Machine.execSubImm h d a imm s
  | .mul h d a b => Sys2Proof.Machine.execMul h d a b s
  | .mulImm h d a imm => Sys2Proof.Machine.execMulImm h d a imm s
  | .mulh h d a b => Sys2Proof.Machine.execMulh h d a b s
  | .mulhImm h d a imm => Sys2Proof.Machine.execMulhImm h d a imm s
  | .mulhu h d a b => Sys2Proof.Machine.execMulhu h d a b s
  | .mulhuImm h d a imm => Sys2Proof.Machine.execMulhuImm h d a imm s
  | .div h d a b => Sys2Proof.Machine.execDiv h d a b s
  | .divImm h d a imm => Sys2Proof.Machine.execDivImm h d a imm s
  | .divu h d a b => Sys2Proof.Machine.execDivu h d a b s
  | .divuImm h d a imm => Sys2Proof.Machine.execDivuImm h d a imm s
  | .rem h d a b => Sys2Proof.Machine.execRem h d a b s
  | .remImm h d a imm => Sys2Proof.Machine.execRemImm h d a imm s
  | .remu h d a b => Sys2Proof.Machine.execRemu h d a b s
  | .remuImm h d a imm => Sys2Proof.Machine.execRemuImm h d a imm s
  | .and h d a b => Sys2Proof.Machine.execAnd h d a b s
  | .andImm h d a imm => Sys2Proof.Machine.execAndImm h d a imm s
  | .or h d a b => Sys2Proof.Machine.execOr h d a b s
  | .orImm h d a imm => Sys2Proof.Machine.execOrImm h d a imm s
  | .xor h d a b => Sys2Proof.Machine.execXor h d a b s
  | .xorImm h d a imm => Sys2Proof.Machine.execXorImm h d a imm s
  | .andn h d a b => Sys2Proof.Machine.execAndn h d a b s
  | .andnImm h d a imm => Sys2Proof.Machine.execAndnImm h d a imm s
  | .shl h d a b => Sys2Proof.Machine.execShl h d a b s
  | .shlImm h d a imm => Sys2Proof.Machine.execShlImm h d a imm s
  | .shr h d a b => Sys2Proof.Machine.execShr h d a b s
  | .shrImm h d a imm => Sys2Proof.Machine.execShrImm h d a imm s
  | .sra h d a b => Sys2Proof.Machine.execSra h d a b s
  | .sraImm h d a imm => Sys2Proof.Machine.execSraImm h d a imm s
  | .min h d a b => Sys2Proof.Machine.execMin h d a b s
  | .minImm h d a imm => Sys2Proof.Machine.execMinImm h d a imm s
  | .max h d a b => Sys2Proof.Machine.execMax h d a b s
  | .maxImm h d a imm => Sys2Proof.Machine.execMaxImm h d a imm s
  | .minu h d a b => Sys2Proof.Machine.execMinu h d a b s
  | .minuImm h d a imm => Sys2Proof.Machine.execMinuImm h d a imm s
  | .maxu h d a b => Sys2Proof.Machine.execMaxu h d a b s
  | .maxuImm h d a imm => Sys2Proof.Machine.execMaxuImm h d a imm s
  | .clz h d a => Sys2Proof.Machine.execClz h d a s
  | .popc h d a => Sys2Proof.Machine.execPopc h d a s
  | .sext h d a w => Sys2Proof.Machine.execSext h d a w s
  | .zext h d a w => Sys2Proof.Machine.execZext h d a w s
  | .movXX h d a => Sys2Proof.Machine.execMovXX h d a s
  | .movXA h d a => Sys2Proof.Machine.execMovXA h d a s
  | .movAX h d a => Sys2Proof.Machine.execMovAX h d a s
  | .sel h d a b p => Sys2Proof.Machine.execSel h d a b p s
  | .li h d v => Sys2Proof.Machine.execLi h d v s
  | .liExt h d v => Sys2Proof.Machine.execLiExt h d v s
  | .cmp h c d a b => Sys2Proof.Machine.execCmp h c d a b s
  | .cmpImm h c d a imm => Sys2Proof.Machine.execCmpImm h c d a imm s
  | .fadd h d a b => Sys2Proof.Machine.execFadd h d a b s
  | .faddImm h d a imm => Sys2Proof.Machine.execFaddImm h d a imm s
  | .fsub h d a b => Sys2Proof.Machine.execFsub h d a b s
  | .fsubImm h d a imm => Sys2Proof.Machine.execFsubImm h d a imm s
  | .fmul h d a b => Sys2Proof.Machine.execFmul h d a b s
  | .fmulImm h d a imm => Sys2Proof.Machine.execFmulImm h d a imm s
  | .fma h d a b => Sys2Proof.Machine.execFma h d a b s
  | .fmaImm h d a imm => Sys2Proof.Machine.execFmaImm h d a imm s
  | .fmin h d a b => Sys2Proof.Machine.execFmin h d a b s
  | .fminImm h d a imm => Sys2Proof.Machine.execFminImm h d a imm s
  | .fmax h d a b => Sys2Proof.Machine.execFmax h d a b s
  | .fmaxImm h d a imm => Sys2Proof.Machine.execFmaxImm h d a imm s
  | .fcvt h d a src dst rm sat => Sys2Proof.Machine.execFcvt h d a src dst rm sat s
  | .fcmp h c d a b => Sys2Proof.Machine.execFcmp h c d a b s
  | .fcmpImm h c d a imm => Sys2Proof.Machine.execFcmpImm h c d a imm s
  | .pand h d a b => Sys2Proof.Machine.execPand h d a b s
  | .por h d a b => Sys2Proof.Machine.execPor h d a b s
  | .pxor h d a b => Sys2Proof.Machine.execPxor h d a b s
  | .pandn h d a b => Sys2Proof.Machine.execPandn h d a b s
  | .pmov h d a => Sys2Proof.Machine.execPmov h d a s
  | .pset h w d a => Sys2Proof.Machine.execPset h w d a s
  | .pcnt h w d a => Sys2Proof.Machine.execPcnt h w d a s
  | .pfirst h w d a => Sys2Proof.Machine.execPfirst h w d a s
  | .br h off => Sys2Proof.Machine.execBr h off s
  | .brExt h off => Sys2Proof.Machine.execBrExt h off s
  | .call h off => Sys2Proof.Machine.execCall h off s
  | .callExt h off => Sys2Proof.Machine.execCallExt h off s
  | .brq h pol off => Sys2Proof.Machine.execBrq h pol off s
  | .brqExt h pol off => Sys2Proof.Machine.execBrqExt h pol off s
  | .loop h xc off => Sys2Proof.Machine.execLoop h xc off s
  | .loopExt h xc off => Sys2Proof.Machine.execLoopExt h xc off s
  | .jr h xa => Sys2Proof.Machine.execJr h xa s
  | .ret h => Sys2Proof.Machine.execRet h s
  | .nop h => Sys2Proof.Machine.execNop h s
  | .pool h n => Sys2Proof.Machine.execPool h n s
  | .tkwB h n => Sys2Proof.Machine.execTkwB h n s
  | .tkwA h n => Sys2Proof.Machine.execTkwA h n s
  | .tksB h n => Sys2Proof.Machine.execTksB h n s
  | .tksA h n => Sys2Proof.Machine.execTksA h n s
  | .qpush h xa => Sys2Proof.Machine.execQpush h xa s
  | .qpop h xd => Sys2Proof.Machine.execQpop h xd s
  | .kwait h k n => Sys2Proof.Machine.execKwait h k n s
  | .rnext h xd pa j => Sys2Proof.Machine.execRnext h xd pa j s
  | .lvlBase h xd j => Sys2Proof.Machine.execLvlBase h xd j s
  | .lvlLimit h xd j => Sys2Proof.Machine.execLvlLimit h xd j s
  | .lvlTrip h xd j => Sys2Proof.Machine.execLvlTrip h xd j s
  | .lvlCoord h xd j => Sys2Proof.Machine.execLvlCoord h xd j s
  | .ldlW h xd off => Sys2Proof.Machine.execLdlW h xd off s
  | .ldlWExt h xd off => Sys2Proof.Machine.execLdlWExt h xd off s
  | .ldlD h xd off => Sys2Proof.Machine.execLdlD h xd off s
  | .ldlDExt h xd off => Sys2Proof.Machine.execLdlDExt h xd off s
  | .ld h xd a sz fe k => Sys2Proof.Machine.execLd h xd a sz fe k s
  | .ldOffset h xd a sz fe k off => Sys2Proof.Machine.execLdOffset h xd a sz fe k off s
  | .st h xs a sz k => Sys2Proof.Machine.execSt h xs a sz k s
  | .stOffset h xs a sz k off => Sys2Proof.Machine.execStOffset h xs a sz k off s
  | .dqpush h et pr tag vals n => Sys2Proof.Machine.execDqpush h et pr tag vals n s
  | .dqdrain h et t row force pm n => Sys2Proof.Machine.execDqdrain h et t row force pm n s
  | .dqcnt h xd => Sys2Proof.Machine.execDqcnt h xd s
  | .ldt h t row nr a off fe k => Sys2Proof.Machine.execLdt h t row nr a off fe k s
  | .stt h t row nr a off k => Sys2Proof.Machine.execStt h t row nr a off k s
  | .copy h a b c acq rel k cnt fill => Sys2Proof.Machine.execCopy h a b c acq rel k cnt fill s
  | .gath h a b c esz acq rel k cnt fill => Sys2Proof.Machine.execGath h a b c esz acq rel k cnt fill s
  | .scat h a b c esz acq rel k cnt fill => Sys2Proof.Machine.execScat h a b c esz acq rel k cnt fill s
  | .pref h a c k => Sys2Proof.Machine.execPref h a c k s
  | .invr h a c k => Sys2Proof.Machine.execInvr h a c k s
  | .sppin h pc xa xb => Sys2Proof.Machine.execSppin h pc xa xb s
  | .spunp h xa xb => Sys2Proof.Machine.execSpunp h xa xb s
  | .feclr h xa xb => Sys2Proof.Machine.execFeclr h xa xb s
  | .feset h xa xb => Sys2Proof.Machine.execFeset h xa xb s
  | .racq h b a => Sys2Proof.Machine.execRacq h b a s
  | .rrel h b => Sys2Proof.Machine.execRrel h b s
  | .rwait h b a n => Sys2Proof.Machine.execRwait h b a n s
  | .radv h b n => Sys2Proof.Machine.execRadv h b n s
  | .rcfg h b base lines slots => Sys2Proof.Machine.execRcfg h b base lines slots s
  | .amoAdd h dword a b c acq rel k off => Sys2Proof.Machine.execAmoAdd h dword a b c acq rel k off s
  | .amoMin h dword a b c acq rel k off => Sys2Proof.Machine.execAmoMin h dword a b c acq rel k off s
  | .amoMax h dword a b c acq rel k off => Sys2Proof.Machine.execAmoMax h dword a b c acq rel k off s
  | .amoAnd h dword a b c acq rel k off => Sys2Proof.Machine.execAmoAnd h dword a b c acq rel k off s
  | .amoOr h dword a b c acq rel k off => Sys2Proof.Machine.execAmoOr h dword a b c acq rel k off s
  | .amoXor h dword a b c acq rel k off => Sys2Proof.Machine.execAmoXor h dword a b c acq rel k off s
  | .amoXchg h dword a b c acq rel k off => Sys2Proof.Machine.execAmoXchg h dword a b c acq rel k off s
  | .amoCas h dword a b c acq rel k off => Sys2Proof.Machine.execAmoCas h dword a b c acq rel k off s
  | .vamoAdd h dword a acq rel k tv rv ti ri => Sys2Proof.Machine.execVamoAdd h dword a acq rel k tv rv ti ri s
  | .vamoMin h dword a acq rel k tv rv ti ri => Sys2Proof.Machine.execVamoMin h dword a acq rel k tv rv ti ri s
  | .vamoMax h dword a acq rel k tv rv ti ri => Sys2Proof.Machine.execVamoMax h dword a acq rel k tv rv ti ri s
  | .vamoAnd h dword a acq rel k tv rv ti ri => Sys2Proof.Machine.execVamoAnd h dword a acq rel k tv rv ti ri s
  | .vamoOr h dword a acq rel k tv rv ti ri => Sys2Proof.Machine.execVamoOr h dword a acq rel k tv rv ti ri s
  | .vamoXor h dword a acq rel k tv rv ti ri => Sys2Proof.Machine.execVamoXor h dword a acq rel k tv rv ti ri s
  | .vamoXchg h dword a acq rel k tv rv ti ri => Sys2Proof.Machine.execVamoXchg h dword a acq rel k tv rv ti ri s
  | .vamoCas h dword a acq rel k tv rv ti ri => Sys2Proof.Machine.execVamoCas h dword a acq rel k tv rv ti ri s
  | .fence h sc k cv => Sys2Proof.Machine.execFence h sc k cv s
  | .fwait h => Sys2Proof.Machine.execFwait h s
  | .wait4 h xa n => Sys2Proof.Machine.execWait4 h xa n s
  | .bexp h xa => Sys2Proof.Machine.execBexp h xa s
  | .bwait h sc xa => Sys2Proof.Machine.execBwait h sc xa s
  | .vadd h et sat d a b => Sys2Proof.Machine.execVadd h et sat d a b s
  | .vsub h et sat d a b => Sys2Proof.Machine.execVsub h et sat d a b s
  | .vmul h et sat d a b => Sys2Proof.Machine.execVmul h et sat d a b s
  | .vfma h et sat d a b => Sys2Proof.Machine.execVfma h et sat d a b s
  | .vmin h et d a b => Sys2Proof.Machine.execVmin h et d a b s
  | .vmax h et d a b => Sys2Proof.Machine.execVmax h et d a b s
  | .vabs h et sat d a => Sys2Proof.Machine.execVabs h et sat d a s
  | .vneg h et sat d a => Sys2Proof.Machine.execVneg h et sat d a s
  | .vcmp h c et d a b => Sys2Proof.Machine.execVcmp h c et d a b s
  | .vsel h et d a b p => Sys2Proof.Machine.execVsel h et d a b p s
  | .vmov h et d a => Sys2Proof.Machine.execVmov h et d a s
  | .vand h et d a b => Sys2Proof.Machine.execVand h et d a b s
  | .vor h et d a b => Sys2Proof.Machine.execVor h et d a b s
  | .vxor h et d a b => Sys2Proof.Machine.execVxor h et d a b s
  | .vlop3 h table d a b => Sys2Proof.Machine.execVlop3 h table d a b s
  | .vshl h et d a b => Sys2Proof.Machine.execVshl h et d a b s
  | .vshr h et d a b => Sys2Proof.Machine.execVshr h et d a b s
  | .vsra h et d a b => Sys2Proof.Machine.execVsra h et d a b s
  | .vfunl h et d a b => Sys2Proof.Machine.execVfunl h et d a b s
  | .vfunr h et d a b => Sys2Proof.Machine.execVfunr h et d a b s
  | .vrot h et d a b => Sys2Proof.Machine.execVrot h et d a b s
  | .vperm h et d a b => Sys2Proof.Machine.execVperm h et d a b s
  | .vbcast h et d a b => Sys2Proof.Machine.execVbcast h et d a b s
  | .vcvt h dst src sat rm d a => Sys2Proof.Machine.execVcvt h dst src sat rm d a s
  | .vpack h rm d a g => Sys2Proof.Machine.execVpack h rm d a g s
  | .vunpk h d a g => Sys2Proof.Machine.execVunpk h d a g s
  | .vred h op et sat d a => Sys2Proof.Machine.execVred h op et sat d a s
  | .vexp h et d a => Sys2Proof.Machine.execVexp h et d a s
  | .vlog h et d a => Sys2Proof.Machine.execVlog h et d a s
  | .vrcp h et d a => Sys2Proof.Machine.execVrcp h et d a s
  | .vrsq h et d a => Sys2Proof.Machine.execVrsq h et d a s
  | .vrng h et d => Sys2Proof.Machine.execVrng h et d s
  | .vbern h d a => Sys2Proof.Machine.execVbern h d a s
  | .rlcfg h t row xa xb => Sys2Proof.Machine.execRlcfg h t row xa xb s
  | .rlins h t n a xb => Sys2Proof.Machine.execRlins h t n a xb s
  | .rlmrg h t n xb => Sys2Proof.Machine.execRlmrg h t n xb s
  | .rlthr h t n xb => Sys2Proof.Machine.execRlthr h t n xb s
  | .rlrd h d t n => Sys2Proof.Machine.execRlrd h d t n s
  | .vsfc h hilbert dims d t r => Sys2Proof.Machine.execVsfc h hilbert dims d t r s
  | .gset h g a off => Sys2Proof.Machine.execGset h g a off s
  | .gadv h g xb xc => Sys2Proof.Machine.execGadv h g xb xc s
  | .mlease h lvl k => Sys2Proof.Machine.execMlease h lvl k s
  | .mfree h => Sys2Proof.Machine.execMfree h s
  | .mloadb h g arr nfold f acq k => Sys2Proof.Machine.execMloadb h g arr nfold f acq k s
  | .mmul h ga arr init ragged fe list bound acq k => Sys2Proof.Machine.execMmul h ga arr init ragged fe list bound acq k s
  | .mattn h gq gk gv xd fe acq k => Sys2Proof.Machine.execMattn h gq gk gv xd fe acq k s
  | .mdrainTile h arr alt mode t row nr xa acq k => Sys2Proof.Machine.execMdrainTile h arr alt mode t row nr xa acq k s
  | .mdrainMemory h arr alt mode cnt xa b xc acq rel k => Sys2Proof.Machine.execMdrainMemory h arr alt mode cnt xa b xc acq rel k s
  | .mswap h arr => Sys2Proof.Machine.execMswap h arr s
  | .mchain h n => Sys2Proof.Machine.execMchain h n s
  | .mshape h xa pc => Sys2Proof.Machine.execMshape h xa pc s
  | .sample h xa xb acq rel k => Sys2Proof.Machine.execSample h xa xb acq rel k s
  | .beamsel h xa xb acq rel k => Sys2Proof.Machine.execBeamsel h xa xb acq rel k s
  | .kvapp h xc xa b acq rel k => Sys2Proof.Machine.execKvapp h xc xa b acq rel k s
  | .kvappNew h xc a acq rel k => Sys2Proof.Machine.execKvappNew h xc a acq rel k s
  | .kvappDrop h xa acq rel k => Sys2Proof.Machine.execKvappDrop h xa acq rel k s
  | .kvmap h xc xa xb pd acq rel k => Sys2Proof.Machine.execKvmap h xc xa xb pd acq rel k s
  | .tspawn h xc xa pd die rel => Sys2Proof.Machine.execTspawn h xc xa pd die rel s
  | .tpop h xc xa pd acq => Sys2Proof.Machine.execTpop h xc xa pd acq s
  | .trepri h xa xb pd => Sys2Proof.Machine.execTrepri h xa xb pd s
  | .tcancel h xa pd module k => Sys2Proof.Machine.execTcancel h xa pd module k s
  | .tcont h xc xa xb pd rel => Sys2Proof.Machine.execTcont h xc xa xb pd rel s
  | .tdone h pd row rel => Sys2Proof.Machine.execTdone h pd row rel s
  | .cpoint h pd => Sys2Proof.Machine.execCpoint h pd s
  | .gnewPlain h xc xa pd => Sys2Proof.Machine.execGnewPlain h xc xa pd s
  | .gnewRope h xc xa pd xb => Sys2Proof.Machine.execGnewRope h xc xa pd xb s
  | .gnewSib h xc xa pd => Sys2Proof.Machine.execGnewSib h xc xa pd s
  | .gnewQ h xc xa pd => Sys2Proof.Machine.execGnewQ h xc xa pd s
  | .nalloc h xc xa pd die => Sys2Proof.Machine.execNalloc h xc xa pd die s
  | .nallocFree h xa xb pd => Sys2Proof.Machine.execNallocFree h xa xb pd s
  | .nrd h xc xa off dword acq => Sys2Proof.Machine.execNrd h xc xa off dword acq s
  | .nwr h xa xb off dword rel k => Sys2Proof.Machine.execNwr h xa xb off dword rel k s
  | .nvloss h xa xb acq k => Sys2Proof.Machine.execNvloss h xa xb acq k s
  | .nbackup h neg xa xb xc acq k => Sys2Proof.Machine.execNbackup h neg xa xb xc acq k s
  | .nsel h xc xa xb pd => Sys2Proof.Machine.execNsel h xc xa xb pd s
  | .ballot h abst xc xa rel => Sys2Proof.Machine.execBallot h abst xc xa rel s
  | .collAr h xa acq rel k => Sys2Proof.Machine.execCollAr h xa acq rel k s
  | .collAg h xa acq rel k => Sys2Proof.Machine.execCollAg h xa acq rel k s
  | .collRs h xa acq rel k => Sys2Proof.Machine.execCollRs h xa acq rel k s
  | .collA2a h xa acq rel k => Sys2Proof.Machine.execCollA2a h xa acq rel k s
  | .repart h xa acq rel k => Sys2Proof.Machine.execRepart h xa acq rel k s
  | .disp h xc xa xb pd t => Sys2Proof.Machine.execDisp h xc xa xb pd t s
  | .dispMb h t k => Sys2Proof.Machine.execDispMb h t k s
  | .gparm h xa xb n rel => Sys2Proof.Machine.execGparm h xa xb n rel s
  | .gparmReplay h xb rel => Sys2Proof.Machine.execGparmReplay h xb rel s
  | .hring h flush drop xa xb rel k => Sys2Proof.Machine.execHring h flush drop xa xb rel k s
  | .time h xc => Sys2Proof.Machine.execTime h xc s
  | .trap h n => Sys2Proof.Machine.execTrap h n s
  | .eret h => Sys2Proof.Machine.execEret h s
  | .sysrd h xd reg => Sys2Proof.Machine.execSysrd h xd reg s
  | .syswr h reg xs => Sys2Proof.Machine.execSyswr h reg xs s
  | .yield h => Sys2Proof.Machine.execYield h s
  | .idle h xa => Sys2Proof.Machine.execIdle h xa s
  | .bkpt h n => Sys2Proof.Machine.execBkpt h n s
  | .spbeg h xa xb => Sys2Proof.Machine.execSpbeg h xa xb s
  | .spcom h => Sys2Proof.Machine.execSpcom h s
  | .spabt h => Sys2Proof.Machine.execSpabt h s
  | .uncorrTrap core q => Sys2Proof.Machine.execUncorrTrap core q s
  | .engineTrap core => Sys2Proof.Machine.execEngineTrap core s
  | .timer core q => Sys2Proof.Machine.execTimer core q s
  | .loadReturn core op => Sys2Proof.Machine.execLoadReturn core op s
  | .storePerform core op => Sys2Proof.Machine.execStorePerform core op s
  | .atomicPerform core op => Sys2Proof.Machine.execAtomicPerform core op s
  | .fenceComplete core op => Sys2Proof.Machine.execFenceComplete core op s
  | .xferComplete core op => Sys2Proof.Machine.execXferComplete core op s
  | .wait4Check core q => Sys2Proof.Machine.execWait4Check core q s
  | .bivouacCopyDone core => Sys2Proof.Machine.execBivouacCopyDone core s
  | .admission die => Sys2Proof.Machine.execAdmission die s
  | .startHoldEnd die launch => Sys2Proof.Machine.execStartHoldEnd die launch s
  | .instanceEnd core => Sys2Proof.Machine.execInstanceEnd core s
  | .launchAbort die launch code => Sys2Proof.Machine.execLaunchAbort die launch code s
  | .stealRequest core level => Sys2Proof.Machine.execStealRequest core level s
  | .stealGrant core level => Sys2Proof.Machine.execStealGrant core level s
  | .belayGrant cluster => Sys2Proof.Machine.execBelayGrant cluster s
  | .belayRunEnd cluster => Sys2Proof.Machine.execBelayRunEnd cluster s
  | .tileTaskIssue cluster arr => Sys2Proof.Machine.execTileTaskIssue cluster arr s
  | .tileTaskComplete cluster arr => Sys2Proof.Machine.execTileTaskComplete cluster arr s
  | .samplerRequest die => Sys2Proof.Machine.execSamplerRequest die s
  | .beamRequest die => Sys2Proof.Machine.execBeamRequest die s
  | .evalHandoff die => Sys2Proof.Machine.execEvalHandoff die s
  | .binWindowExpiry die bin => Sys2Proof.Machine.execBinWindowExpiry die bin s
  | .binLaunch die => Sys2Proof.Machine.execBinLaunch die s
  | .sweep die => Sys2Proof.Machine.execSweep die s
  | .remoteTref raise handle => Sys2Proof.Machine.execRemoteTref raise handle s
  | .remoteTcancel group => Sys2Proof.Machine.execRemoteTcancel group s
  | .tcancelComplete core op => Sys2Proof.Machine.execTcancelComplete core op s
  | .groupFree group => Sys2Proof.Machine.execGroupFree group s
  | .walkComplete core op => Sys2Proof.Machine.execWalkComplete core op s
  | .remoteWalk issuer backup neg handle v togo => Sys2Proof.Machine.execRemoteWalk issuer backup neg handle v togo s
  | .kvBroadcast sid blk entry epoch => Sys2Proof.Machine.execKvBroadcast sid blk entry epoch s
  | .sbtFetch sid blk entry epoch => Sys2Proof.Machine.execSbtFetch sid blk entry epoch s
  | .sstLookup core op addr tier valid => Sys2Proof.Machine.execSstLookup core op addr tier valid s
  | .kvPlace core op block => Sys2Proof.Machine.execKvPlace core op block s
  | .collectiveComplete setId n others => Sys2Proof.Machine.execCollectiveComplete setId n others s
  | .repartComplete setId n others => Sys2Proof.Machine.execRepartComplete setId n others s
  | .remoteAccess asid off sup req => Sys2Proof.Machine.execRemoteAccess asid off sup req s
  | .remoteResponse ans => Sys2Proof.Machine.execRemoteResponse ans s
  | .graphNodeStart die slot => Sys2Proof.Machine.execGraphNodeStart die slot s
  | .graphNodeComplete die slot => Sys2Proof.Machine.execGraphNodeComplete die slot s
  | .nowaitWorkEnd die slot idx => Sys2Proof.Machine.execNowaitWorkEnd die slot idx s
  | .waitNodeTimeout die slot => Sys2Proof.Machine.execWaitNodeTimeout die slot s
  | .hostRingTimer die ring => Sys2Proof.Machine.execHostRingTimer die ring s
  | .preemptTimeout die => Sys2Proof.Machine.execPreemptTimeout die s
  | .preemptSave die => Sys2Proof.Machine.execPreemptSave die s
  | .hlaunch die value => Sys2Proof.Machine.execHlaunch die value s
  | .labort die value => Sys2Proof.Machine.execLabort die value s
  | .preq die value => Sys2Proof.Machine.execPreq die value s
  | .resume die value => Sys2Proof.Machine.execResume die value s
  | .greplay die slot => Sys2Proof.Machine.execGreplay die slot s
  | .gabort die slot => Sys2Proof.Machine.execGabort die slot s
  | .hrccntWrite die ring value => Sys2Proof.Machine.execHrccntWrite die ring value s
  | .hrcfgWrite die ring value => Sys2Proof.Machine.execHrcfgWrite die ring value s
  | .tlbiOnePage asid => Sys2Proof.Machine.execTlbiOnePage asid s
  | .tlbiOneSpace asid => Sys2Proof.Machine.execTlbiOneSpace asid s
  | .tlbiAll => Sys2Proof.Machine.execTlbiAll s
  | .tlbiDone => Sys2Proof.Machine.execTlbiDone s
  | .keyLoad slot => Sys2Proof.Machine.execKeyLoad slot s
  | .keyRetire slot => Sys2Proof.Machine.execKeyRetire slot s
  | .keyErase slot => Sys2Proof.Machine.execKeyErase slot s
  | .keyBind slot group => Sys2Proof.Machine.execKeyBind slot group s
  | .keyUnbind slot => Sys2Proof.Machine.execKeyUnbind slot s
  | .dispatchTableWrite die t off value => Sys2Proof.Machine.execDispatchTableWrite die t off value s
  | .hostApertureAccess req => Sys2Proof.Machine.execHostApertureAccess req s
  | .registerWrite off value => Sys2Proof.Machine.execRegisterWrite off value s
  | .resetctlModule => Sys2Proof.Machine.execResetctlModule s
  | .resetctlFunction => Sys2Proof.Machine.execResetctlFunction s
  | .pcieFlr => Sys2Proof.Machine.execPcieFlr s
  | .powerOn => Sys2Proof.Machine.execPowerOn s
  | .modidTimeout => Sys2Proof.Machine.execModidTimeout s
  | .mctpRead hostBinding off => Sys2Proof.Machine.execMctpRead hostBinding off s
  | .mctpWrite hostBinding off value => Sys2Proof.Machine.execMctpWrite hostBinding off value s
  | .attest nonce => Sys2Proof.Machine.execAttest nonce s
  | .cntclr value => Sys2Proof.Machine.execCntclr value s
  | .pcapWrite value => Sys2Proof.Machine.execPcapWrite value s
  | .pfloorWrite value => Sys2Proof.Machine.execPfloorWrite value s
  | .modidWrite value => Sys2Proof.Machine.execModidWrite value s
  | .failedClear die t expert => Sys2Proof.Machine.execFailedClear die t expert s
  | .requestUpdate hostBinding => Sys2Proof.Machine.execRequestUpdate hostBinding s
  | .firmwareImageTransfer off bytes => Sys2Proof.Machine.execFirmwareImageTransfer off bytes s
  | .verifyComplete => Sys2Proof.Machine.execVerifyComplete s
  | .activateFirmware svnRaise => Sys2Proof.Machine.execActivateFirmware svnRaise s
  | .platformEventMessage => Sys2Proof.Machine.execPlatformEventMessage s
  | .arbiterPeriod sram hbm links vector arrays => Sys2Proof.Machine.execArbiterPeriod sram hbm links vector arrays s
  | .thermalTrip die => Sys2Proof.Machine.execThermalTrip die s
  | .thermalClear die => Sys2Proof.Machine.execThermalClear die s
  | .ageRefresh die value => Sys2Proof.Machine.execAgeRefresh die value s
  | .eolRecompute months => Sys2Proof.Machine.execEolRecompute months s
  | .heartbeat die => Sys2Proof.Machine.execHeartbeat die s
  | .heartbeatAnswer die module => Sys2Proof.Machine.execHeartbeatAnswer die module s
  | .timeLock => Sys2Proof.Machine.execTimeLock s
  | .timeUnlock => Sys2Proof.Machine.execTimeUnlock s
  | .portDown port => Sys2Proof.Machine.execPortDown port s
  | .portRetrain port lanes nport nmod => Sys2Proof.Machine.execPortRetrain port lanes nport nmod s
  | .routeRecompute reachable => Sys2Proof.Machine.execRouteRecompute reachable s
  | .idleTimeout core q => Sys2Proof.Machine.execIdleTimeout core q s
  | .mdrainComplete core op => Sys2Proof.Machine.execMdrainComplete core op s
  | .managementModuleReset => Sys2Proof.Machine.execManagementModuleReset s
  | .setEventReceiver receiver => Sys2Proof.Machine.execSetEventReceiver receiver s
  | .farTierHostWrite ha bytes => Sys2Proof.Machine.execFarTierHostWrite ha bytes s
  | .launchForward die packet place origin => Sys2Proof.Machine.execLaunchForward die packet place origin s

end Sys2Proof.Machine
end

