-- ==== Sys2Proof/Machine/Round.lean ====
section
/-! DEFINITION. The turns of a round: every running sequencer, every unit that may have something to do, and the passing of
time, in a fixed order; any other order is a list of turns that State.turns can hold (log entry 2). -/

namespace Sys2Proof

/-- An event: a row of the opcode table that no instruction word encodes. -/
def Instr.isEvent (i : Instr) : Bool := (encode i).isEmpty

end Sys2Proof

namespace Sys2Proof.Machine

open Sys2Proof

/-- The event that completes or advances an operation. -/
def opEvent (core : Nat) (o : Op) : List UnitEv :=
  if o.done then [] else
  match o.kind with
  | .null | .mlease | .mloadb .. | .mmul .. | .mattn .. | .sample .. | .beam .. | .dispMb ..
  | .hring .. | .nwr .. | .probe .. => []
  | .load .. | .ldt .. => [.loadReturn core o.id]
  | .store .. | .stt .. => [.storePerform core o.id]
  | .amo .. | .vamo .. | .bexp .. => [.atomicPerform core o.id]
  | .fence .. => [.fenceComplete core o.id]
  | .xfer .. => [.xferComplete core o.id]
  | .mdrainTile .. | .mdrainMem .. => [.mdrainComplete core o.id]
  | .kvapp .. | .kvnew .. | .kvdrop .. => [.kvPlace core o.id]
  | .kvmap .. => [.sstLookup core o.id 0 0 false]
  | .tcancel .. => [.tcancelComplete core o.id]
  | .walk .. => [.walkComplete core o.id]
  | .coll _ _ n k _ => [.collectiveComplete n k]
  | .repart _ _ n k _ => [.repartComplete n k]

/-- What a sequencer that sleeps may be woken by, and its turn. -/
def seqTurns (core : Nat) (c : Core) (q : SeqId) : List Turn :=
  if (c.seqr q).ended then [] else
  match (c.seqr q).sleep with
  | .wait4 _ => [.unit (.wait4Check core q), .seq core q]
  | .idle _ => [.unit (.idleTimeout core q), .seq core q]
  | _ => [.seq core q]

/-- Steal requests and grants of an instance's levels (R32). -/
def stealTurns (core : Nat) (i : Inst) : List Turn :=
  ((List.range i.lvl.length).map fun j =>
    match i.lvl[j]? with
    | some l =>
      if l.asking = 0 then [] else
        [Turn.unit (.stealRequest core (BitVec.ofNat 3 j)), Turn.unit (.stealGrant core (BitVec.ofNat 3 j))]
    | none => []).flatten

def coreTurns (core : Nat) (c : Core) : List Turn :=
  match c.inst with
  | none => []
  | some i =>
    if isUnit core then (c.ops.map (opEvent core)).flatten.map Turn.unit else
    ([SeqId.control, .load, .exec, .store].map (seqTurns core c)).flatten ++ stealTurns core i ++
      (if c.biv.copying then [.unit (.bivouacCopyDone core)] else []) ++
      ((c.ops.map (opEvent core)).flatten.map Turn.unit) ++
      (if c.isOver then [.unit (.instanceEnd core)] else [])

def clusterTurns (k : Nat) : List Turn :=
  [.unit (.belayRunEnd k), .unit (.belayGrant k), .unit (.tileTaskIssue k .s), .unit (.tileTaskIssue k .v),
    .unit (.tileTaskComplete k .s), .unit (.tileTaskComplete k .v)]

def slotTurns (die slot : Nat) (g : GSlot) : List Turn :=
  [.unit (.waitNodeTimeout die slot), .unit (.graphNodeComplete die slot), .unit (.graphNodeStart die slot)] ++
    (List.range g.nowait.length).map fun i => .unit (.nowaitWorkEnd die slot i)

def dieTurns (s : State) (n : Nat) (d : Die) : List Turn :=
  [.unit (.sweep n), .unit (.evalHandoff n)] ++ (d.bins.map fun b => Turn.unit (.binWindowExpiry n b.1)) ++
    [.unit (.binLaunch n), .unit (.admission n)] ++
    (s.launches.map fun l => Turn.unit (.startHoldEnd n l.1)) ++
    [.unit (.samplerRequest n), .unit (.beamRequest n)] ++
    (d.slots.map fun g => slotTurns n g.1 g.2).flatten ++
    (d.hrings.map fun r => Turn.unit (.hostRingTimer n r.1)) ++
    [.unit (.preemptTimeout n), .unit (.preemptSave n)] ++
    (if d.dtables.isEmpty || s.time.toNat < d.beatAt then [] else [.unit (.heartbeat n)])

/-- The turns of one round. -/
def State.round (s : State) : List Turn :=
  (s.cores.map fun c => coreTurns c.1 c.2).flatten ++ (s.clusters.map fun k => clusterTurns k.1).flatten ++
    (s.dies.map fun d => dieTurns s d.1 d.2).flatten ++ (s.groups.map fun g => Turn.unit (.groupFree g.1)) ++
    (if s.tlbiGo then [.unit .tlbiDone] else []) ++
    (s.keys.map fun k => if !k.2.loaded && k.2.key.isSome then [Turn.unit (.keyErase (BitVec.ofNat 12 k.1))] else []).flatten ++
    (if s.mgmt.waiting.isEmpty then [] else [.unit .platformEventMessage]) ++
    [.advance (1 + s.freeBelow (2 ^ 83) 1000)]

end Sys2Proof.Machine
end

