-- ==== Sys2Proof/Machine/Units.lean ====
section
/-! DEFINITION. The events that the machine's own units bring about: each is the meaning of the like-named row. -/

namespace Sys2Proof.Machine

open Sys2Proof

/-- A placement of the KV unit, unless it waits for another module. -/
def State.unitPlace (s : State) (core op : Nat) : Host.Outcome State Fault Refusal :=
  if s.kvWaits core op then .next s else execKvPlace core op none s

/-- A translation of the KV unit, unless it waits for another module. -/
def State.unitLookup (s : State) (core op : Nat) (addr : Word64) (tier : BitVec 2) (valid : Bool) :
    Host.Outcome State Fault Refusal :=
  match (s.getCore core).findOp op with
  | some o => if o.prog = 2 && (answerWhy o.answer).isNone then .next s else execSstLookup core op addr tier valid s
  | none => .next s

def runUnit (u : UnitEv) (s : State) : Host.Outcome State Fault Refusal :=
  match u with
  | .loadReturn core op => execLoadReturn core op s
  | .storePerform core op => execStorePerform core op s
  | .atomicPerform core op => execAtomicPerform core op s
  | .fenceComplete core op => execFenceComplete core op s
  | .xferComplete core op => execXferComplete core op s
  | .mdrainComplete core op => execMdrainComplete core op s
  | .kvPlace core op => s.unitPlace core op
  | .sstLookup core op addr tier valid => s.unitLookup core op addr tier valid
  | .tcancelComplete core op => execTcancelComplete core op s
  | .walkComplete core op => execWalkComplete core op s
  | .foreignWalk issuer backup neg handle v left i => execRemoteWalk issuer backup neg handle v (left, i) s
  | .collectiveComplete setId nth => execCollectiveComplete setId nth [] s
  | .repartComplete setId nth => execRepartComplete setId nth [] s
  | .wait4Check core q => execWait4Check core q s
  | .idleTimeout core q => execIdleTimeout core q s
  | .stealRequest core level => execStealRequest core level s
  | .stealGrant core level => execStealGrant core level s
  | .bivouacCopyDone core => execBivouacCopyDone core s
  | .instanceEnd core => execInstanceEnd core s
  | .belayRunEnd cluster => execBelayRunEnd cluster s
  | .belayGrant cluster => execBelayGrant cluster s
  | .tileTaskIssue cluster arr => execTileTaskIssue cluster arr s
  | .tileTaskComplete cluster arr => execTileTaskComplete cluster arr s
  | .waitNodeTimeout die slot => execWaitNodeTimeout die slot s
  | .graphNodeStart die slot => execGraphNodeStart die slot s
  | .graphNodeComplete die slot => execGraphNodeComplete die slot s
  | .nowaitWorkEnd die slot idx => execNowaitWorkEnd die slot idx s
  | .sweep die => execSweep die s
  | .evalHandoff die => execEvalHandoff die s
  | .binWindowExpiry die bin => execBinWindowExpiry die bin s
  | .binLaunch die => execBinLaunch die s
  | .admission die => execAdmission die s
  | .startHoldEnd die launch => execStartHoldEnd die launch s
  | .samplerRequest die => execSamplerRequest die s
  | .beamRequest die => execBeamRequest die s
  | .hostRingTimer die ring => execHostRingTimer die ring s
  | .preemptTimeout die => execPreemptTimeout die s
  | .preemptSave die => execPreemptSave die s
  | .groupFree group => execGroupFree group s
  | .tlbiDone => execTlbiDone s
  | .keyErase slot => execKeyErase slot s
  | .heartbeat die => execHeartbeat die s
  | .platformEventMessage => execPlatformEventMessage s

end Sys2Proof.Machine
end

