-- ==== Sys2Proof/Machine/Step.lean ====
section
/-! DEFINITION. One step: the next turn of State.turns, or the laying out of a new round (log entry 2). -/

namespace Sys2Proof.Machine

open Sys2Proof

/-- The next turn taken from the list; every step counts one up in State.fresh (log entry 3). -/
def State.popTurn (s : State) : Option (Turn × State) :=
  match s.turns with
  | [] => none
  | t :: rest => some (t, { s with turns := rest, fresh := s.fresh + 1 })

/-- The sequencer whose turn it is. -/
def State.focus (s : State) (core : Nat) (q : SeqId) : State := { s with core := core, seq := q }

/-- A sequencer's turn: what it does before it executes, then its instruction. -/
def State.runSeq (s : State) : Host.Outcome State Fault Refusal :=
  match s.ahead with
  | .still t => .next t
  | .run t i => exec i t

def step (s : State) : Host.Outcome State Fault Refusal :=
  match s.popTurn with
  | none => .next { s with turns := s.round, fresh := s.fresh + 1 }
  | some (.seq core q, t) => (t.focus core q).runSeq
  | some (.unit u, t) => runUnit u t
  | some (.event i, t) => if i.isEvent then exec i t else .next t
  | some (.advance ns, t) => .next (t.passTime ns)
  | some (.error e corrected, t) => .next (t.errorAt e corrected)

/-- The state in which the next step fetches and runs the instruction whose bits are w (log entry 10). -/
def State.withFetchWord (s : State) (_nbits w : Nat) : State := s.place (wordSeq (BitVec.ofNat 32 w)) (leBytes 8 w)

end Sys2Proof.Machine
end

