-- ==== Sys2Proof/Safety.lean ====
section
/-! DEFINITION. What a safe step is, in the terms the statements use, and the words in which they say when an instruction
issues and what it leaves. -/

namespace Sys2Proof.Machine

open Sys2Proof

/-- The step reaches a next state: no fault, no refusal. -/
def Safe (s : State) : Prop := ∃ t, step s = .next t

/-- The state an outcome reaches, if any. -/
def nextOf (o : Host.Outcome State Fault Refusal) : Option State :=
  match o with
  | .next s => some s
  | _ => none

/-- The running sequencer issues an instruction of form f now (R31): its core runs an instance and it has not ended, no
check of R201 fails, it is not to stop there for a pre-emption (R355), its token waits and signals, operands and rows are
ready, and bit 0 of its guard is set where the instruction tests it (R200). -/
structure State.Issues (s : State) (f : Form) : Prop where
  running : s.running = true
  early : s.early f = none
  going : (f.stops && s.preempting && s.g0 f.h) = false
  ready : s.ready f = true
  guard : f.guarded = false ∨ s.g0 f.h = true

/-- As State.Issues, with a guard that is tested and false (R200). -/
structure State.IssuesFalse (s : State) (f : Form) : Prop where
  running : s.running = true
  early : s.early f = none
  ready : s.ready f = true
  tested : f.guarded = true
  guard : s.g0 f.h = false

/-- The state after an instruction of form f that issued in s and whose effect reached t: its token signals have gone out,
unless they had before a trap (R29, R359). -/
def State.retired (s : State) (f : Form) (t : State) : State := if s.sq.noSignal then t else t.signal f

/-- The sequencer that runs sleeps; it stands in the list of those that may wake (log entry 7). -/
def State.asleep (s : State) (sl : Sleep) : State :=
  ({ s with waiters := if s.waiters.contains (s.core, s.seq) then s.waiters else s.waiters ++ [(s.core, s.seq)] } :
    State).setSq { s.sq with sleep := sl }

/-- Everything outside the cores is as it was. -/
structure State.SameOutside (s t : State) : Prop where
  mem : ∀ a, Mem.read t.mem a = Mem.read s.mem a
  host : ∀ a, Mem.read t.host a = Mem.read s.host a
  clusters : t.clusters = s.clusters
  dies : t.dies = s.dies
  launches : t.launches = s.launches
  groups : t.groups = s.groups
  spaces : t.spaces = s.spaces
  keys : t.keys = s.keys
  mgmt : t.mgmt = s.mgmt
  time : t.time = s.time
  out : t.out = s.out

/-- Everything but one sequencer's registers and the token edges of its core is as it was: memory, the other cores, and on
this core the other sequencers, the tiles, the matrix state, the local memory and the outstanding operations. -/
structure State.SameButSeqr (s t : State) : Prop extends State.SameOutside s t where
  core : t.core = s.core
  seq : t.seq = s.seq
  cores : ∀ n, n ≠ s.core → t.getCore n = s.getCore n
  others : ∀ q, q ≠ s.seq → t.cur.seqr q = s.cur.seqr q
  inst : t.cur.inst = s.cur.inst
  tiles : t.cur.tiles = s.cur.tiles
  tstat : t.cur.tstat = s.cur.tstat
  lists : t.cur.lists = s.cur.lists
  o : t.cur.o = s.cur.o
  lr : t.cur.lr = s.cur.lr
  rings : t.cur.rings = s.cur.rings
  g : t.cur.g = s.cur.g
  banks : t.cur.banks = s.cur.banks
  planes : t.cur.planes = s.cur.planes
  pins : t.cur.pins = s.cur.pins
  lm : t.cur.lm = s.cur.lm
  reel : t.cur.reel = s.cur.reel
  biv : t.cur.biv = s.cur.biv
  efq : t.cur.efq = s.cur.efq
  ops : t.cur.ops = s.cur.ops

/-- A sequencer's registers, but for those the statement names, are as they were; PC, sleep and what belongs to a return
from a trap are left out. -/
structure Seqr.SameRegs (q r : Seqr) : Prop where
  ended : r.ended = q.ended
  rstack : r.rstack = q.rstack
  timen : r.timen = q.timen
  sup : r.sup = q.sup
  psup : r.psup = q.psup
  intrap : r.intrap = q.intrap
  trapCause : r.trapCause = q.trapCause
  trapVal : r.trapVal = q.trapVal
  trapPc : r.trapPc = q.trapPc
  tvec : r.tvec = q.tvec
  timecmp : r.timecmp = q.timecmp
  sscr0 : r.sscr0 = q.sscr0
  sscr1 : r.sscr1 = q.sscr1

/-- The memory of the device and of the host stands in its canonical form. -/
def State.MemoryWf (s : State) : Prop := Memory.wf s.mem = true ∧ Memory.wf s.host = true

end Sys2Proof.Machine
end

