-- ==== Sys2Proof/Certificates/Slice0/Obligations.lean ====
section
/-! DEFINITION. The statements for the provers: what the machine does, rule by rule. Where a statement rests on a choice of the
model, its docstring names the log entry. -/

open Sys2Proof Sys2Proof.Machine

/-- Every instruction of the opcode table that has words, in every operand value its encoding admits, is what the decoder
reads from the words the encoder writes, whatever word follows a one-word form (R198 to R206). -/
def Obligations.DecodeReadsWhatEncodeWrites : Prop :=
  ∀ i : Instr, i.wf = true → ∀ q, i.fits q → ∀ e w0 rest, encode i = w0 :: rest →
    decodeWords q w0 (rest.headD e) = .ok i

/-- Words written out from the encoding tables and examples of R198 to R206, one for each format, decode to the
instructions they stand for: add x3, x1, x2; a negated guard with tokens on sub x5, x4, -7; ld.w, st.d, br -5, ldt,
amo.add.d, vadd.fp32, rlins, mmul, tspawn, coll.ar, sysrd, spbeg. The words of all zeros and of all ones decode to nothing
(R206). -/
def Obligations.WrittenWordsDecode : Prop :=
  let u : Hdr := ⟨⟨false, false, false, false⟩, 15, false, ⟨false, false, false, false⟩⟩
  decodeWords .control 0x0F013120 0x0 = .ok (.add u 3 1 2) ∧
  decodeWords .exec 0x93C15401 0x0FFFFFF9 = .ok (.subImm ⟨⟨true, false, false, true⟩, 3, true, ⟨false, false, false, false⟩⟩ 5 4 (-7)) ∧
  decodeWords .load 0x0F0D3505 0x0 = .ok (.ld u 3 2 .w .none (some 2)) ∧
  decodeWords .store 0x0F0E4381 0x0 = .ok (.st u 4 1 .d (some 0)) ∧
  decodeWords .control 0x0F081FFB 0x0 = .ok (.br u (-5)) ∧
  decodeWords .load 0x0F4F2079 0x1003 = .ok (.ldt u 4 0 15 1 16 .none (some 1)) ∧
  decodeWords .control 0x0F531458 0x019C0008 = .ok (.amoAdd u true 1 4 5 none (some .sys) (some 3) 8) ∧
  decodeWords .exec 0x0F564020 0x00841800 = .ok (.vadd u .fp32 false (.tile 4 2) (.tile 6 0) (.opd 1)) ∧
  decodeWords .exec 0x0F5FC0E0 0x00A01808 = .ok (.rlins u 5 0 (.tile 6 0) 7) ∧
  decodeWords .exec 0x0F642000 0x000D0000 = .ok (.mmul u (some 2) .s true false .none none none none (some 1)) ∧
  decodeWords .control 0x0F694090 0x1 = .ok (.tspawn u 9 4 1 none none) ∧
  decodeWords .control 0x0F6C2000 0x019C0000 = .ok (.collAr u 2 none (some .sys) (some 3)) ∧
  decodeWords .control 0x0F2E3208 0x0 = .ok (.sysrd u 3 8) ∧
  decodeWords .control 0x0F2F0120 0x0 = .ok (.spbeg u 1 2) ∧
  (∃ r, decodeWords .control 0 0 = .error r) ∧ ∃ r, decodeWords .exec 0xFFFFFFFF 0 = .error r

/-- A sequencer's turn runs the instruction that its fetched words decode to (R197, R199): the sequencer runs, is not
stopped for a pre-emption, has no trap of an instruction stopped part-way and no cause to take; the state in which exec
runs holds what the fetch left in the instruction cache and the TLB and is otherwise the same. The one-word form, the
two-word form, and a word that does not decode, which is ILLEGAL (R201). That a step takes the first turn of State.turns
is the model's form (log entry 2), and the instruction cache may answer with an old word (log entry 44). A fetched word is
the four bytes that memory shows at the sequencer's PC under the page's key, lowest byte first (R3, R197), where the page
lets it be fetched, no unit of it is in error and the core's instruction cache does not hold it. -/
def Obligations.StepRunsDecodedInstruction : Prop :=
  (∀ (s : State) (core : Nat) (q : SeqId) (rest : List Turn), s.turns = .seq core q :: rest →
    let t := ({ s with turns := rest, fresh := s.fresh + 1 } : State).focus core q
    t.running = true → t.sq.stopped = false → t.sq.partTrap = none → (t.preempting && t.cur.anyStopped) = false → t.pendingCause core q = none →
    (∀ u w0 i, t.fetchWord t.sq.pc = Fetch1.ok u w0 → hasExt w0 = false → decodeWords q w0 0 = .ok i → step s = exec i u) ∧
    (∀ u v w0 e i, t.fetchWord t.sq.pc = Fetch1.ok u w0 → hasExt w0 = true → u.fetchWord (t.sq.pc + 1) = Fetch1.ok v e →
      decodeWords q w0 e = .ok i → step s = exec i v) ∧
    (∀ u w0 r, t.fetchWord t.sq.pc = Fetch1.ok u w0 → hasExt w0 = false → decodeWords q w0 0 = .error r →
      step s = .next (u.trapHere .illegal 0))) ∧
  (∀ (s : State) (pc : PcWord) (x : Xl) (pa : Nat),
    s.check (some s.core) s.asid s.sq.sup .fetch false 4 (pc.setWidth 64 <<< 2) = .ok x → x.place = .dev pa →
    s.badRange pa 4 = false → Tbl.get? s.cur.icache (icKey x) = none →
    ∃ t, s.fetchWord pc = Fetch1.ok t (ofBytes 32 (s.keyBytes x.key pa 4)) ∧ t.mem = s.mem ∧ t.host = s.host ∧ t.sq = s.sq ∧
      t.core = s.core ∧ t.seq = s.seq)

/-- Whatever the machine does in a step, device memory and host memory keep their canonical form. The form, with unlisted
bytes 0, is the model's (log entry 5). -/
def Obligations.StepKeepsMemoryCanonical : Prop :=
  ∀ s t : State, s.MemoryWf → step s = .next t → t.MemoryWf

/-- The machine right after a POWER reset (R81, R141, R383, R385, R391, R396, R398, R406): STATE is BOOT, no core runs an
instance, memory lists nothing, no space is enabled, every key slot is FREE and KEYDATA zero, every graph slot is IDLE,
every ring off, every dispatch table not valid; only group 0 is there, alive; PCAP, PFLOOR, EOLWARN and HBP have the
values of Table 1. That unwritten HBM reads zero, that no unit is in error and the values of registers whose reset no rule
states are the model's choices (log entries 5, 6). -/
def Obligations.ResetState : Prop :=
  let s := State.reset
  s.boot = 0 ∧ s.booterr = 0 ∧ (∀ n, (s.getCore n).inst = none) ∧ s.launches = [] ∧ s.images = [] ∧
  s.MemoryWf ∧ (∀ a, Mem.read s.mem a = 0) ∧ s.bad = [] ∧
  (∀ a, (s.getSpace a).en = false ∧ (s.getSpace a).root = 0 ∧ (s.getSpace a).tvec = 0) ∧
  (∀ n, (s.getKey n).loaded = false) ∧ s.keydata = List.replicate 8 0 ∧
  s.tlbictl = 0 ∧ s.tlbiGo = false ∧ s.tlbiva = 0 ∧ s.aperbase = 0 ∧ s.farbase = 0 ∧
  (∀ die slot, (s.getSlot die slot).phase = .idle ∧ (s.getSlot die slot).iter = 0 ∧ (s.getSlot die slot).gcfg = 0 ∧
    (s.getSlot die slot).gnodes = 0 ∧ (s.getSlot die slot).pending = 0) ∧
  (∀ die ring, (s.getHring die ring).enabled = false ∧ (s.getHring die ring).pcnt = 0 ∧ (s.getHring die ring).ccnt = 0) ∧
  (∀ die t, (s.getTable die t).valid = false) ∧ (∀ die n, Tbl.getD (s.getDie die).failover n 0 = 0) ∧
  (∀ die, (s.getDie die).hlaunch = [] ∧ (s.getDie die).dvec = 0 ∧ (s.getDie die).kvrootb = 0 ∧ (s.getDie die).collbase = 0) ∧
  s.alive 0 = true ∧ (∀ g, g ≠ 0 → s.getGroup g = none) ∧
  s.mgmt.pcap = 4000 ∧ s.mgmt.pfloor = 200 ∧ s.mgmt.eolwarn = 12 ∧ s.mgmt.hbp = 100 ∧ s.mgmt.lock = false

/-- No instruction and no event stops the machine: exec answers a next state, but for an instruction whose sequencer does
not run, which is the fault notRunning (R16, R20). -/
def Obligations.ExecAlwaysAnswers : Prop :=
  ∀ (i : Instr) (s : State), (∃ t, exec i s = .next t) ∨
    (exec i s = .fault .notRunning ∧ i.isEvent = false ∧ s.running = false)

/-- Whatever its operands, guard and tokens, an instruction on a sequencer that Table 3 does not permit for its word's
major and subcode, or one of majors 0x22 to 0x26 in a kernel without MATRIX, takes ILLEGAL before it waits for anything,
with no other effect: no token moves, no counter, no register but those of the trap (R201, R206). The mask and token bits
of a second trap and the order of the checks are the model's readings (log entries 9, 17). -/
def Obligations.OnlyPermittedSequencers : Prop :=
  ∀ (i : Instr) (s : State) (w0 : Word32) (rest : List Word32), encode i = w0 :: rest → s.running = true →
    let maj := w0.toNat / 2 ^ 16 % 2 ^ 6
    let sub := w0.toNat % 16
    let table : List SeqId :=
      if maj = 0x0F then [.load, .exec, .store]
      else if maj = 0x14 then [.load, .store]
      else if maj = 0x21 then [.load, .exec]
      else if maj = 0x26 then (if sub = 0 then [.exec, .store] else [.exec])
      else if maj = 0x27 ∨ maj = 0x28 then [.control, .load]
      else if maj = 0x2C then (if sub ≤ 4 then [.control, .load] else [.control])
      else if maj = 0x29 ∨ maj = 0x2A ∨ maj = 0x2B ∨ maj = 0x2D ∨ maj = 0x2F then [.control]
      else if maj = 0x0B ∨ (0x16 ≤ maj ∧ maj ≤ 0x20) ∨ (0x22 ≤ maj ∧ maj ≤ 0x25) then [.exec]
      else [.control, .load, .exec, .store]
    (s.seq ∉ table ∨ (0x22 ≤ maj ∧ maj ≤ 0x26 ∧ ∀ k, s.inst = some k → k.flags.getLsbD 2 = false)) →
      let m := s.sq.replayMask
      (m = 0 → exec i s = .next (s.takeTrap s.core s.seq ⟨.illegal, 0, s.sq.pc, 0, false, false⟩)) ∧
      (m ≠ 0 → exec i s = .next (s.takeTrap s.core s.seq ⟨.illegal, 0, s.sq.pc, m, true, s.sq.noSignal⟩))

/-- A false guard leaves a scalar, predicate, flow, coupling, list or system instruction only its token waits and signals
(R28, R200); p15 under GN annuls. Register x0 reads zero and p15 all ones, whatever is written to them (R200, R210). Tile
rows guard each element (R205), and brq, qpush, qpop, tkw and tks act whatever the guard (R250, R253, R254): they are not
named here. That R201's checks stand although the guard is false is the model's reading (log entry 17). A false guard
leaves a matrix, task, node, fabric or graph instruction only its tokens, and an asynchronous one, loads, stores, atomics
and fences among them, also its place on its counter, where it stalls while the counter is full (R200, R255). -/
def Obligations.FalseGuardsAndConstants : Prop :=
  (∀ (s : State) (h : Hdr) (x y z : XReg) (p q r : PReg) (a : AReg) (g : GReg) (t : BitVec 5) (row : BitVec 4) (b : BRing) (n8 : BitVec 8)
      (n7 m7 : BitVec 7) (n3 : BitVec 3) (n2 : BitVec 2) (b13 : BitVec 13) (imm : BitVec 28) (et : ElemTy),
    let only (f : Form) (l : List Instr) : Prop := ∀ i ∈ l, s.IssuesFalse f → exec i s = .next (s.retired f (s.begin f))
    only (scalar h false 0x01 0 [x, y, z] []) [.add h x y z, .sub h x y z, .mul h x y z, .mulh h x y z, .mulhu h x y z,
      .div h x y z, .divu h x y z, .rem h x y z, .remu h x y z, .and h x y z, .or h x y z, .xor h x y z, .andn h x y z,
      .shl h x y z, .shr h x y z, .sra h x y z] ∧
    only (scalar h true 0x01 0 [x, y] []) [.addImm h x y imm, .subImm h x y imm, .mulImm h x y imm, .mulhImm h x y imm,
      .mulhuImm h x y imm, .divImm h x y imm, .divuImm h x y imm, .remImm h x y imm, .remuImm h x y imm, .andImm h x y imm,
      .orImm h x y imm, .xorImm h x y imm, .andnImm h x y imm, .shlImm h x y imm, .shrImm h x y imm, .sraImm h x y imm] ∧
    only (scalar h false 0x02 0 [x, y, z] []) [.min h x y z, .max h x y z, .minu h x y z, .maxu h x y z] ∧
    only (scalar h true 0x02 0 [x, y] []) [.minImm h x y imm, .maxImm h x y imm, .minuImm h x y imm, .maxuImm h x y imm] ∧
    (∀ w, only (scalar h false 0x02 4 [x, y] []) [.clz h x y, .popc h x y, .sext h x y w, .zext h x y w, .movXX h x y]) ∧
    only (scalar h false 0x02 9 [x] []) [.movXA h a x, .movAX h x a] ∧
    only (scalar h true 0x02 11 [x, y, z] [p]) [.sel h x y z p] ∧
    (∀ v, only (scalar h false 0x03 0 [x] []) [.li h x v]) ∧ (∀ v, only (scalar h true 0x03 0 [x] []) [.liExt h x v]) ∧
    (∀ c, only (scalar h false 0x04 0 [x, y] [p, p ^^^ 1]) [.cmp h c p x y] ∧
      only (scalar h true 0x04 0 [x] [p, p ^^^ 1]) [.cmpImm h c p x imm]) ∧
    only (scalar h false 0x05 0 [x, y, z] []) [.fadd h x y z, .fsub h x y z, .fmul h x y z, .fma h x y z, .fmin h x y z,
      .fmax h x y z] ∧
    only (scalar h true 0x05 0 [x, y] []) [.faddImm h x y imm, .fsubImm h x y imm, .fmulImm h x y imm, .fmaImm h x y imm,
      .fminImm h x y imm, .fmaxImm h x y imm] ∧
    (∀ e1 e2 rm sat, only (scalar h true 0x05 6 [x, y] []) [.fcvt h x y e1 e2 rm sat]) ∧
    (∀ c, only (scalar h false 0x06 0 [x, y] [p, p ^^^ 1]) [.fcmp h c p x y] ∧
      only (scalar h true 0x06 0 [x] [p, p ^^^ 1]) [.fcmpImm h c p x imm]) ∧
    only (scalar h false 0x07 0 [] [p, q, r]) [.pand h p q r, .por h p q r, .pxor h p q r, .pandn h p q r] ∧
    only (scalar h false 0x07 4 [] [p, q]) [.pmov h p q] ∧
    (∀ w, only (scalar h false 0x07 5 [x] [p]) [.pset h w p x, .pcnt h w x p] ∧ only (scalar h false 0x07 7 [] [p, q]) [.pfirst h w p q]) ∧
    (∀ o, only (flowForm h false 0 []) [.br h o, .call h o, .ret h, .nop h, .pool h o]) ∧
    (∀ o, only (flowForm h true 0 []) [.brExt h o, .callExt h o]) ∧ only (flowForm h false 4 [x]) [.jr h x] ∧
    (∀ o, only (flowForm h false 3 [x]) [.loop h x o]) ∧ (∀ o, only (flowForm h true 3 [x]) [.loopExt h x o]) ∧
    only (scalar h false 0x09 6 [] []) [.kwait h n3 n8] ∧
    only { scalar h false 0x0A 0 [x] [p] with stops := s.preLevel n3.toNat } [.rnext h x p n3] ∧
    only (scalar h false 0x0A 1 [x] []) [.lvlBase h x n3, .lvlLimit h x n3, .lvlTrip h x n3, .lvlCoord h x n3] ∧
    (∀ o, only (scalar h false 0x0C 0 [x] []) [.ldlW h x o, .ldlD h x o]) ∧
    (∀ o, only (scalar h true 0x0C 0 [x] []) [.ldlWExt h x o, .ldlDExt h x o]) ∧
    only (scalar h true 0x0B 2 [x] []) [.dqcnt h x] ∧
    (∀ force, only { tileForm h 0x0B 1 [.tile t row] [] [p] with guarded := true, rw := rowsOf t.toNat row.toNat (n3.toNat + 1) }
      [.dqdrain h et t row force p n3]) ∧
    only (lmForm h 0 [x, y] [p]) [.sppin h p x y] ∧
    only (lmForm h 1 [x, y] []) [.spunp h x y, .feclr h x y, .feset h x y] ∧
    only (ringForm h false 0) [.racq h b a, .rwait h b a n7, .radv h b n7] ∧
    only { ringForm h false 1 with drains := true } [.rrel h b] ∧ only (ringForm h true 4) [.rcfg h b b13 n7 m7] ∧
    only (syncForm h 1 []) [.fwait h] ∧ only (syncForm h 2 [x]) [.wait4 h x n2] ∧ only (syncForm h 3 [x, xPlus x 1]) [.bexp h x] ∧
    (∀ sc, only (syncForm h 4 [x, xPlus x 1]) [.bwait h sc x]) ∧
    (∀ o, only (cmdForm h 0x21 0 [] []) [.gset h g a o]) ∧ only (cmdForm h 0x21 1 [x, y] []) [.gadv h g x y] ∧
    only (listForm h 0 t [x, y] true) [.rlcfg h t row x y] ∧ only (listForm h 2 t [x] true) [.rlmrg h t row x, .rlthr h t row x] ∧
    (∀ d, only { listForm h 4 t [] true with tiles := tileOf d ++ [t.toNat] } [.rlrd h d t row]) ∧
    only (sysForm h 0 []) [.trap h n8, .eret h, .bkpt h n8] ∧ only (sysForm h 2 [x]) [.sysrd h x n8, .syswr h n8 x, .idle h x] ∧
    only { sysForm h 4 [] with stops := true } [.yield h] ∧
    only (bivForm h 0 [x, y]) [.spbeg h x y] ∧ only (bivForm h 1 []) [.spcom h, .spabt h] ∧
    (h.g = 15 → h.gn = true → s.g0 h = false) ∧
    s.getX 0 = 0 ∧ s.getP 15 = BitVec.allOnes 256 ∧
    (∀ v w, (s.setX 0 v).getX y = s.getX y ∧ (s.setX x v).getX 0 = 0 ∧ (s.setP 15 w).getP q = s.getP q ∧
      (s.setP p w).getP 15 = BitVec.allOnes 256)) ∧
  (∀ (s : State) (h : Hdr) (x y z : XReg) (p : PReg) (a b : AReg) (g g' g'' : GReg) (acq rel : OScope) (k : Ctr) (arr : Arr) (fe : FEq)
      (alt neg dw : Bool) (n2 : BitVec 2) (n3 : BitVec 3) (n6 : BitVec 6) (ox oz : Option XReg),
    let only (f : Form) (l : List Instr) : Prop := ∀ i ∈ l, s.IssuesFalse f → exec i s = .next (s.retired f (s.begin f))
    let placed (f : Form) (maj sub : Nat) (k : Ctr) (i : Instr) : Prop := s.IssuesFalse f →
      (s.ctrRoom k = true → exec i s = .next (s.retired f ((s.begin f).addOp f maj sub k none none .null true))) ∧
      (s.ctrRoom k = false → exec i s = .next s)
    (∀ sz, placed (scalar h false 0x0D 0 [x] []) 0x0D 0 k (.ld h x a sz fe k) ∧
      ∀ o, placed (scalar h true 0x0D 0 [x] []) 0x0D 0 k (.ldOffset h x a sz fe k o)) ∧
    (∀ sz, placed (scalar h false 0x0E 0 [x] []) 0x0E 0 k (.st h x a sz k) ∧
      ∀ o, placed (scalar h true 0x0E 0 [x] []) 0x0E 0 k (.stOffset h x a sz k o)) ∧
    (∀ i ∈ [(0, Instr.amoAdd), (1, Instr.amoMin), (2, Instr.amoMax), (3, Instr.amoAnd), (4, Instr.amoOr), (5, Instr.amoXor),
        (6, Instr.amoXchg), (7, Instr.amoCas)], ∀ o,
      let sub := i.1 + (if dw then 8 else 0)
      placed (cmdForm h 0x13 sub [x, y] []) 0x13 sub k (i.2 h dw a x y acq rel k o)) ∧
    (∀ cnt : Option XReg, ∀ fill : Option BRing, let xs := x :: cnt.toList
      placed (cmdForm h 0x10 0 xs []) 0x10 0 k (.copy h a b x acq rel k cnt fill) ∧
      (∀ e, placed (cmdForm h 0x10 1 (x :: xPlus x 1 :: cnt.toList) []) 0x10 1 k (.gath h a b x e acq rel k cnt fill) ∧
        placed (cmdForm h 0x10 2 (x :: xPlus x 1 :: cnt.toList) []) 0x10 2 k (.scat h a b x e acq rel k cnt fill))) ∧
    placed (cmdForm h 0x10 3 [x] []) 0x10 3 k (.pref h a x k) ∧ placed (cmdForm h 0x10 4 [x] []) 0x10 4 k (.invr h a x k) ∧
    (∀ sc cv, placed (syncForm h 0 []) 0x15 0 (some n3) (.fence h sc n3 cv)) ∧
    placed (matrixForm h 0x22 0 [] []) 0x22 0 k (.mlease h n2 k) ∧
    placed (matrixForm h 0x23 0 [] []) 0x23 0 k (.mloadb h g arr alt n2 acq k) ∧
    (∀ ga ragged list, placed (matrixForm h 0x24 0 ((list.map (·.1)).toList ++ ox.toList) []) 0x24 0 k
      (.mmul h ga arr alt ragged fe list ox acq k)) ∧
    placed (matrixForm h 0x25 0 [x] []) 0x25 0 k (.mattn h g g' g'' x fe acq k) ∧
    (∀ mode t row nr, placed { matrixForm h 0x26 0 [x] [] with seqs := [.exec], tiles := [t.toNat], rw := rowsOf t.toNat row.toNat (nr.toNat + 1) }
      0x26 0 k (.mdrainTile h arr alt mode t row nr x acq k)) ∧
    (∀ mode, placed { matrixForm h 0x26 0 ([x, y] ++ ox.toList) [] with seqs := [.store] } 0x26 0 k
      (.mdrainMemory h arr alt mode ox x a y acq rel k)) ∧
    only (matrixForm h 0x26 1 [] []) [.mswap h arr, .mchain h n2, .mfree h] ∧ only (matrixForm h 0x26 3 [x] [p]) [.mshape h x p] ∧
    placed (cmdForm h 0x27 0 [x, y] []) 0x27 0 k (.sample h x y acq rel k) ∧
    placed (cmdForm h 0x27 1 [x, y] []) 0x27 1 k (.beamsel h x y acq rel k) ∧
    placed (cmdForm h 0x28 0 [x, y] []) 0x28 0 k (.kvapp h x y a acq rel k) ∧
    placed (cmdForm h 0x28 1 [x] []) 0x28 1 k (.kvappNew h x a acq rel k) ∧
    placed (cmdForm h 0x28 2 [x] []) 0x28 2 k (.kvappDrop h x acq rel k) ∧
    placed (cmdForm h 0x28 3 [x, xPlus x 1, y, z] [p]) 0x28 3 k (.kvmap h x y z p acq rel k) ∧
    only (cmdForm h 0x29 0 (x :: regs4 y ++ oz.toList) [p]) [.tspawn h x y p oz rel] ∧
    only (cmdForm h 0x29 1 (y :: xPlus x 4 :: regs4 x) [p]) [.tpop h x y p acq] ∧
    only (cmdForm h 0x29 2 [x, y] [p]) [.trepri h x y p] ∧
    placed (cmdForm h 0x29 3 (x :: ox.toList) [p]) 0x29 3 k (.tcancel h x p ox k) ∧
    only (cmdForm h 0x29 4 (x :: z :: regs4 y) [p]) [.tcont h x y z p rel] ∧
    only (cmdForm h 0x29 5 ox.toList [p]) [.tdone h p ox rel] ∧ only (cmdForm h 0x29 6 [] [p]) [.cpoint h p] ∧
    only (cmdForm h 0x29 7 [x, y] [p]) [.gnewPlain h x y p, .gnewSib h x y p] ∧
    only (cmdForm h 0x29 7 [x, y, z] [p]) [.gnewRope h x y p z] ∧ only (cmdForm h 0x29 7 [x, xPlus x 1, y] [p]) [.gnewQ h x y p] ∧
    only (cmdForm h 0x2A 0 (x :: y :: oz.toList) [p]) [.nalloc h x y p oz] ∧ only (cmdForm h 0x2A 0 [x, y] [p]) [.nallocFree h x y p] ∧
    only (nodeForm h 1 [x, y] n6 dw) [.nrd h x y n6 dw acq] ∧ placed (nodeForm h 2 [x, y] n6 dw) 0x2A 2 k (.nwr h x y n6 dw rel k) ∧
    placed (cmdForm h 0x2A 3 [x, y] []) 0x2A 3 k (.nvloss h x y acq k) ∧
    placed (cmdForm h 0x2A 4 [x, y, z] []) 0x2A 4 k (.nbackup h neg x y z acq k) ∧
    only (cmdForm h 0x2A 5 [x, y, z, xPlus z 1] [p]) [.nsel h x y z p] ∧
    only (cmdForm h 0x2B 0 [x] []) [.ballot h true x y rel] ∧ only (cmdForm h 0x2B 0 [x, y] []) [.ballot h false x y rel] ∧
    (∀ i ∈ [(0, Instr.collAr), (1, Instr.collAg), (2, Instr.collRs), (3, Instr.collA2a), (4, Instr.repart)],
      placed (cmdForm h 0x2C i.1 [x] []) 0x2C i.1 k (i.2 h x acq rel k)) ∧
    only (cmdForm h 0x2C 5 [x, xPlus x 1, y, z] [p]) [.disp h x y z p n3] ∧ placed (cmdForm h 0x2C 6 [] []) 0x2C 6 k (.dispMb h n3 k) ∧
    (∀ n, only (cmdForm h 0x2D 0 [x, y] []) [.gparm h x y n rel]) ∧ only (cmdForm h 0x2D 0 [y] []) [.gparmReplay h y rel] ∧
    placed (cmdForm h 0x2D 1 [x, y] []) 0x2D 1 k (.hring h alt neg x y rel k) ∧ only (cmdForm h 0x2D 2 [x] []) [.time h x])

/-- Integer arithmetic of majors 0x01 and 0x02 (R238 to R240): the register form and the immediate form of each operation
write the result to xD, and division by zero and the widest quotient are as R239 gives them. -/
def Obligations.IntegerArithmetic : Prop :=
  ∀ (s : State) (h : Hdr) (d a : XReg),
    let put (f : Form) (v : Word64) : Host.Outcome State Fault Refusal := .next (s.retired f ((s.begin f).setX d v))
    let both (i : XReg → Instr) (j : BitVec 28 → Instr) (r : Word64 → Word64 → Word64) : Prop :=
      (∀ b, s.Issues (scalar h false 0x01 0 [d, a, b] []) →
        exec (i b) s = put (scalar h false 0x01 0 [d, a, b] []) (r (s.getX a) (s.getX b))) ∧
      (∀ imm : BitVec 28, s.Issues (scalar h true 0x01 0 [d, a] []) →
        exec (j imm) s = put (scalar h true 0x01 0 [d, a] []) (r (s.getX a) (imm.signExtend 64)))
    both (.add h d a) (.addImm h d a) (fun x y => BitVec.ofNat 64 (x.toNat + y.toNat)) ∧
    both (.sub h d a) (.subImm h d a) (fun x y => BitVec.ofInt 64 (x.toInt - y.toInt)) ∧
    both (.mul h d a) (.mulImm h d a) (fun x y => BitVec.ofNat 64 (x.toNat * y.toNat)) ∧
    both (.mulh h d a) (.mulhImm h d a) (fun x y => BitVec.ofInt 64 (x.toInt * y.toInt / 2 ^ 64)) ∧
    both (.mulhu h d a) (.mulhuImm h d a) (fun x y => BitVec.ofNat 64 (x.toNat * y.toNat / 2 ^ 64)) ∧
    both (.div h d a) (.divImm h d a) (fun x y => if y = 0 then -1 else BitVec.ofInt 64 (x.toInt.tdiv y.toInt)) ∧
    both (.divu h d a) (.divuImm h d a) (fun x y => if y = 0 then -1 else BitVec.ofNat 64 (x.toNat / y.toNat)) ∧
    both (.rem h d a) (.remImm h d a) (fun x y => if y = 0 then x else BitVec.ofInt 64 (x.toInt.tmod y.toInt)) ∧
    both (.remu h d a) (.remuImm h d a) (fun x y => if y = 0 then x else BitVec.ofNat 64 (x.toNat % y.toNat)) ∧
    both (.and h d a) (.andImm h d a) (fun x y => x &&& y) ∧
    both (.or h d a) (.orImm h d a) (fun x y => x ||| y) ∧
    both (.xor h d a) (.xorImm h d a) (fun x y => x ^^^ y) ∧
    both (.andn h d a) (.andnImm h d a) (fun x y => x &&& ~~~ y) ∧
    both (.shl h d a) (.shlImm h d a) (fun x y => BitVec.ofNat 64 (x.toNat * 2 ^ (y.toNat % 64))) ∧
    both (.shr h d a) (.shrImm h d a) (fun x y => BitVec.ofNat 64 (x.toNat / 2 ^ (y.toNat % 64))) ∧
    both (.sra h d a) (.sraImm h d a) (fun x y => BitVec.ofInt 64 (x.toInt / 2 ^ (y.toNat % 64))) ∧
    both (.min h d a) (.minImm h d a) (fun x y => BitVec.ofInt 64 (min x.toInt y.toInt)) ∧
    both (.max h d a) (.maxImm h d a) (fun x y => BitVec.ofInt 64 (max x.toInt y.toInt)) ∧
    both (.minu h d a) (.minuImm h d a) (fun x y => BitVec.ofNat 64 (min x.toNat y.toNat)) ∧
    both (.maxu h d a) (.maxuImm h d a) (fun x y => BitVec.ofNat 64 (max x.toNat y.toNat))

/-- Operations on one register, moves between register files, selection and immediates (R240, R241). Literal loads (R212,
R248): ldl.w brings the word at the branch target of its offset, sign-extended, through the instruction cache; ldl.d two
words, the lower address in the low half, and an odd word address is MISALIGN. That the word address, not the offset, is
judged for ldl.d is the model's reading (log entry 31). -/
def Obligations.MovesImmediatesAndLiterals : Prop :=
  (∀ (s : State) (h : Hdr) (d a : XReg),
    let put (f : Form) (v : Word64) : Host.Outcome State Fault Refusal := .next (s.retired f ((s.begin f).setX d v))
    let f := scalar h false 0x02 4 [d, a] []
    let bitsOf (w : ExtW) : Nat := match w with | .b => 8 | .h => 16 | .w => 32
    (s.Issues f →
      (∃ n, exec (.clz h d a) s = put f (BitVec.ofNat 64 n) ∧ n ≤ 64 ∧ (∀ i, 64 - n ≤ i → (s.getX a).getLsbD i = false) ∧
        (n < 64 → (s.getX a).getLsbD (63 - n) = true)) ∧
      exec (.popc h d a) s = put f (BitVec.ofNat 64 ((List.range 64).countP fun i => (s.getX a).getLsbD i)) ∧
      (∀ w, exec (.sext h d a w) s = put f (BitVec.ofInt 64 (Int.bmod (s.getX a).toNat (2 ^ bitsOf w)))) ∧
      (∀ w, exec (.zext h d a w) s = put f (BitVec.ofNat 64 ((s.getX a).toNat % 2 ^ bitsOf w))) ∧
      exec (.movXX h d a) s = put f (s.getX a)) ∧
    (∀ ad : AReg, s.Issues (scalar h false 0x02 9 [a] []) →
      exec (.movXA h ad a) s =
        .next (s.retired (scalar h false 0x02 9 [a] []) ((s.begin (scalar h false 0x02 9 [a] [])).setA ad (s.getX a)))) ∧
    (∀ aa : AReg, s.Issues (scalar h false 0x02 10 [d] []) →
      exec (.movAX h d aa) s = put (scalar h false 0x02 10 [d] []) (s.getA aa)) ∧
    (∀ b p, s.Issues (scalar h true 0x02 11 [d, a, b] [p]) →
      exec (.sel h d a b p) s =
        put (scalar h true 0x02 11 [d, a, b] [p]) (if (s.getP p).getLsbD 0 then s.getX a else s.getX b)) ∧
    (∀ v, s.Issues (scalar h false 0x03 0 [d] []) →
      exec (.li h d v) s = put (scalar h false 0x03 0 [d] []) (BitVec.ofInt 64 v.toInt)) ∧
    (∀ v, s.Issues (scalar h true 0x03 0 [d] []) →
      exec (.liExt h d v) s = put (scalar h true 0x03 0 [d] []) (BitVec.ofInt 64 v.toInt))) ∧
  (∀ (s : State) (h : Hdr) (d : XReg),
    let one := scalar h false 0x0C 0 [d] []
    let two := scalar h true 0x0C 0 [d] []
    let w (f : Form) (n : Int) (i : Instr) : Prop := ∀ u lo,
      (s.begin f).fetchWord (s.sq.pc + BitVec.ofInt 54 n) = Fetch1.ok u lo →
        exec i s = .next (s.retired f (u.setX d (BitVec.ofInt 64 lo.toInt)))
    let dw (f : Form) (n : Int) (i : Instr) : Prop :=
      let a := s.sq.pc + BitVec.ofInt 54 n
      (∀ u v lo hi, a.toNat % 2 = 0 → (s.begin f).fetchWord a = Fetch1.ok u lo → u.fetchWord (a + 1) = Fetch1.ok v hi →
        exec i s = .next (s.retired f (v.setX d (BitVec.ofNat 64 (lo.toNat + 2 ^ 32 * hi.toNat))))) ∧
      (a.toNat % 2 = 1 → exec i s = .next (s.trapHere .misalign (BitVec.ofNat 64 (4 * a.toNat))))
    (s.Issues one → (∀ off, w one off.toInt (.ldlW h d off)) ∧ (∀ off, dw one off.toInt (.ldlD h d off))) ∧
    (s.Issues two → (∀ off, w two off.toInt (.ldlWExt h d off)) ∧ (∀ off, dw two off.toInt (.ldlDExt h d off))))

/-- A scalar comparison writes its result into every bit of pD and the complement into every bit of p(D xor 1) (R207,
R242); a destination of p14 leaves p15 as it reads, and one of p15 writes p14 only. Both forms, every condition. -/
def Obligations.IntegerComparison : Prop :=
  ∀ (s : State) (h : Hdr) (c : ICond) (d : PReg) (a b : XReg) (imm : BitVec 28),
    let holds (x y : Word64) : Bool := match c with
      | .eq => x.toNat = y.toNat | .ne => x.toNat ≠ y.toNat
      | .lt => x.toInt < y.toInt | .ge => y.toInt ≤ x.toInt | .le => x.toInt ≤ y.toInt | .gt => y.toInt < x.toInt
      | .ltu => x.toNat < y.toNat | .geu => y.toNat ≤ x.toNat | .leu => x.toNat ≤ y.toNat | .gtu => y.toNat < x.toNat
    let all (v : Bool) : Pred := if v then BitVec.allOnes 256 else 0
    let wrote (f : Form) (v : Bool) (t : State) : Prop :=
      (d ≠ 15 → t.getP d = all v) ∧ (d ^^^ 1 ≠ 15 → t.getP (d ^^^ 1) = all (!v)) ∧
        t.getP 15 = BitVec.allOnes 256 ∧ (∀ p, p ≠ d → p ≠ d ^^^ 1 → t.getP p = s.getP p) ∧
        (∀ r, t.getX r = s.getX r) ∧ (∀ r, t.getA r = s.getA r) ∧ t.sq.sticky = s.sq.sticky ∧ (s.begin f).SameButSeqr t
    (let f := scalar h false 0x04 0 [a, b] [d, d ^^^ 1]
     s.Issues f → ∃ t, exec (.cmp h c d a b) s = .next (s.retired f t) ∧ wrote f (holds (s.getX a) (s.getX b)) t) ∧
    (let f := scalar h true 0x04 0 [a] [d, d ^^^ 1]
     s.Issues f → ∃ t, exec (.cmpImm h c d a imm) s = .next (s.retired f t) ∧ wrote f (holds (s.getX a) (imm.signExtend 64)) t)

/-- Scalar floating point (R243 to R246): the FP32 result of the operands' low 32 bits, zero-extended, in xD, and its
events ORed into the sticky bits of STATUS (R195); the immediate is an FP32 pattern whose low four bits are zero (R202).
fcvt extends an integer result by its type. A comparison writes its pair and its events. -/
def Obligations.ScalarFloat : Prop :=
  ∀ (s : State) (h : Hdr) (d a : XReg),
    let put (f : Form) (r : Nat × Ev) : Host.Outcome State Fault Refusal :=
      .next (s.retired f (((s.begin f).setX d (BitVec.ofNat 64 r.1)).orSticky (r.2.setWidth 5)))
    let x (r : XReg) : Nat := (s.getX r).toNat % 2 ^ 32
    let both (i : XReg → Instr) (j : BitVec 28 → Instr) (r : Nat → Nat → Nat × Ev) : Prop :=
      (∀ b, s.Issues (scalar h false 0x05 0 [d, a, b] []) →
        exec (i b) s = put (scalar h false 0x05 0 [d, a, b] []) (r (x a) (x b))) ∧
      (∀ imm : BitVec 28, s.Issues (scalar h true 0x05 0 [d, a] []) →
        exec (j imm) s = put (scalar h true 0x05 0 [d, a] []) (r (x a) (imm.toNat * 16)))
    both (.fadd h d a) (.faddImm h d a) f32.add ∧ both (.fsub h d a) (.fsubImm h d a) f32.sub ∧
    both (.fmul h d a) (.fmulImm h d a) f32.mul ∧ both (.fma h d a) (.fmaImm h d a) (fun p q => f32.fma p q (x d)) ∧
    both (.fmin h d a) (.fminImm h d a) (f32.minMax false) ∧ both (.fmax h d a) (.fmaxImm h d a) (f32.minMax true) ∧
    (∀ src dst rm sat, s.Issues (scalar h true 0x05 6 [d, a] []) →
      let f := scalar h true 0x05 6 [d, a] []
      let r := convert src dst rm sat 0 (s.getX a).toNat
      let v : Word64 := if dst.isFloat then BitVec.ofNat 64 r.1 else BitVec.ofInt 64 (dst.toInt r.1)
      exec (.fcvt h d a src dst rm sat) s = .next (s.retired f (((s.begin f).setX d v).orSticky (r.2.setWidth 5)))) ∧
    (∀ c (pd : PReg) b, s.Issues (scalar h false 0x06 0 [a, b] [pd, pd ^^^ 1]) →
      let f := scalar h false 0x06 0 [a, b] [pd, pd ^^^ 1]
      let r := f32.cond c (x a) (x b)
      exec (.fcmp h c pd a b) s = .next (s.retired f (((s.begin f).setPair pd r.1).orSticky (r.2.setWidth 5)))) ∧
    (∀ c (pd : PReg) (imm : BitVec 28), s.Issues (scalar h true 0x06 0 [a] [pd, pd ^^^ 1]) →
      let f := scalar h true 0x06 0 [a] [pd, pd ^^^ 1]
      let r := f32.cond c (x a) (imm.toNat * 16)
      exec (.fcmpImm h c pd a imm) s = .next (s.retired f (((s.begin f).setPair pd r.1).orSticky (r.2.setWidth 5))))

/-- Predicate instructions (R247): logic bit by bit; pset sets the governing bits of the first X(A) elements of the width,
pcnt counts the elements whose governing bit is set, pfirst keeps the lowest such element, with all its bits. -/
def Obligations.Predicates : Prop :=
  ∀ (s : State) (h : Hdr) (d a b : PReg) (w : PredW),
    let n : Nat := match w with | .b => 1 | .h => 2 | .w => 4 | .d => 8
    let put (f : Form) (v : Pred) : Host.Outcome State Fault Refusal := .next (s.retired f ((s.begin f).setP d v))
    let f := scalar h false 0x07 0 [] [d, a, b]
    (s.Issues f →
      exec (.pand h d a b) s = put f (s.getP a &&& s.getP b) ∧ exec (.por h d a b) s = put f (s.getP a ||| s.getP b) ∧
      exec (.pxor h d a b) s = put f (s.getP a ^^^ s.getP b) ∧ exec (.pandn h d a b) s = put f (s.getP a &&& ~~~ s.getP b)) ∧
    (s.Issues (scalar h false 0x07 4 [] [d, a]) →
      exec (.pmov h d a) s = put (scalar h false 0x07 4 [] [d, a]) (s.getP a)) ∧
    (∀ x : XReg, s.Issues (scalar h false 0x07 5 [x] [d]) →
      ∃ v, exec (.pset h w d x) s = put (scalar h false 0x07 5 [x] [d]) v ∧
        ∀ i, v.getLsbD i = decide (i < 256 ∧ i / n < (s.getX x).toNat)) ∧
    (∀ x : XReg, s.Issues (scalar h false 0x07 6 [x] [a]) →
      exec (.pcnt h w x a) s = .next (s.retired (scalar h false 0x07 6 [x] [a])
        ((s.begin (scalar h false 0x07 6 [x] [a])).setX x
          (BitVec.ofNat 64 ((List.range (256 / n)).countP fun e => (s.getP a).getLsbD (n * e)))))) ∧
    (s.Issues (scalar h false 0x07 7 [] [d, a]) →
      ∃ v, exec (.pfirst h w d a) s = put (scalar h false 0x07 7 [] [d, a]) v ∧
        ((∀ e, e < 256 / n → (s.getP a).getLsbD (n * e) = false) → v = 0) ∧
        (∀ e, e < 256 / n → (s.getP a).getLsbD (n * e) = true → (∀ e', e' < e → (s.getP a).getLsbD (n * e') = false) →
          ∀ i, v.getLsbD i = decide (i / n = e)))

/-- Branches (R202, R249 to R252, R212): a target lies the offset's words from the branch's own address; loop counts its
register down and branches while it is not zero; pool passes over its words; jr goes to the address in xA. call pushes the
next instruction's address and branches, and is ILLEGAL with a full return stack of 16; ret pops and goes there, and ends
the sequencer when the stack is empty (R20, R210, R249). brq pops the oldest value of the queue from the sequencer before,
whatever its guard, and branches where bit 0 of the guard is set and the value's being zero is as POL says; it waits on an
empty queue (R250). -/
def Obligations.ControlFlow : Prop :=
  (∀ (s : State) (h : Hdr) (x : XReg),
    let one := flowForm h false 0 []
    let two := flowForm h true 0 []
    let go (t : State) (f : Form) (pc : PcWord) : Host.Outcome State Fault Refusal := .next (s.retired f (t.jump pc))
    let at_ (n : Int) : PcWord := s.sq.pc + BitVec.ofInt 54 n
    (s.Issues one →
      (∀ off, exec (.br h off) s = go (s.begin one) one (at_ off.toInt)) ∧
      exec (.nop h) s = .next (s.retired one (s.begin one)) ∧
      (∀ n, exec (.pool h n) s = go (s.begin one) one (at_ (1 + n.toNat)))) ∧
    (s.Issues two → ∀ off, exec (.brExt h off) s = go (s.begin two) two (at_ off.toInt)) ∧
    (let f := flowForm h false 3 [x]
     s.Issues f → ∀ off,
      exec (.loop h x off) s =
        if s.getX x = 0 then .next (s.retired f (s.begin f))
        else if s.getX x = 1 then .next (s.retired f ((s.begin f).setX x 0))
        else go ((s.begin f).setX x (s.getX x - 1)) f (at_ off.toInt)) ∧
    (let f := flowForm h true 3 [x]
     s.Issues f → ∀ off,
      exec (.loopExt h x off) s =
        if s.getX x = 0 then .next (s.retired f (s.begin f))
        else if s.getX x = 1 then .next (s.retired f ((s.begin f).setX x 0))
        else go ((s.begin f).setX x (s.getX x - 1)) f (at_ off.toInt)) ∧
    (let f := flowForm h false 4 [x]
     s.Issues f →
      ((s.getX x).toNat % 4 = 0 → (s.getX x).toNat < 2 ^ 56 →
        exec (.jr h x) s = go (s.begin f) f (BitVec.ofNat 54 ((s.getX x).toNat / 4))) ∧
      ((s.getX x).toNat % 4 = 0 → 2 ^ 56 ≤ (s.getX x).toNat → exec (.jr h x) s = .next (s.trapHere .page (pageVal 4 (s.getX x)))) ∧
      ((s.getX x).toNat % 4 ≠ 0 → exec (.jr h x) s = .next (s.trapHere .misalign (s.getX x))))) ∧
  (∀ (s : State) (h : Hdr),
    let called (f : Form) (back : PcWord) (n : Int) : Host.Outcome State Fault Refusal :=
      if 16 ≤ s.sq.rstack.length then .next (s.trapHere .illegal 0)
      else .next (s.retired f ((s.begin f).setSq { (s.begin f).sq with
        rstack := back :: s.sq.rstack, pc := s.sq.pc + BitVec.ofInt 54 n }))
    (s.Issues (flowForm h false 1 []) → ∀ off, exec (.call h off) s = called (flowForm h false 1 []) (s.sq.pc + 1) off.toInt) ∧
    (s.Issues (flowForm h true 1 []) → ∀ off, exec (.callExt h off) s = called (flowForm h true 1 []) (s.sq.pc + 2) off.toInt) ∧
    (let f := flowForm h false 5 []
     s.Issues f →
      (∀ pc rest, s.sq.rstack = pc :: rest →
        exec (.ret h) s = .next (s.retired f ((s.begin f).setSq { (s.begin f).sq with rstack := rest, pc := pc }))) ∧
      (s.sq.rstack = [] →
        exec (.ret h) s = .next (s.retired f ((s.begin f).setSq { (s.begin f).sq with ended := true }))))) ∧
  (∀ (s : State) (h : Hdr) (pol : Bool) (v : Word64) (rest : List Word64),
    let popped (f : Form) : State := (s.begin f).setCur ((s.begin f).cur.setEdge s.seq.prev
      { (s.begin f).cur.edge s.seq.prev with queue := rest })
    let out (f : Form) (n : Int) : Host.Outcome State Fault Refusal :=
      .next (s.retired f (if s.g0 h = true ∧ (v ≠ 0 ↔ pol = true) then
        (popped f).jump (s.sq.pc + BitVec.ofInt 54 n) else popped f))
    let one : Form := { flowForm h false 2 [] with guarded := false }
    let two : Form := { flowForm h true 2 [] with guarded := false }
    ((s.cur.edge s.seq.prev).queue = v :: rest →
      (s.Issues one → ∀ off, exec (.brq h pol off) s = out one off.toInt) ∧
      (s.Issues two → ∀ off, exec (.brqExt h pol off) s = out two off.toInt)) ∧
    ((s.cur.edge s.seq.prev).queue = [] →
      (s.Issues one → ∀ off, exec (.brq h pol off) s = .next s) ∧ (s.Issues two → ∀ off, exec (.brqExt h pol off) s = .next s)))

/-- Tokens, queues and counters (R28 to R30, R253 to R256): tkw and tks add their N to the tokens waited for and
signalled, qpush appends its value, or 0 under a false guard, unless the queue of 8 is full or its reader has ended, qpop
takes the oldest, kwait issues at N operations or fewer. The tokens an instruction moves as it issues (R27 to R29): it
takes as many as its words wait for from the edges, and its signals add as many, none to a sequencer that has ended; the
value queues stay. -/
def Obligations.TokensAndQueues : Prop :=
  (∀ (s : State) (h : Hdr) (n : BitVec 8) (x : XReg) (k : BitVec 3),
    let c : Form := { scalar h false 0x09 0 [] [] with guarded := false }
    let alone (i : Instr) (f : Form) : Prop := s.Issues f → exec i s = .next (s.retired f (s.begin f))
    alone (.tkwB h n) { c with wB := n.toNat } ∧ alone (.tkwA h n) { c with wA := n.toNat } ∧
    alone (.tksB h n) { c with sB := n.toNat } ∧ alone (.tksA h n) { c with sA := n.toNat } ∧
    (let f : Form := { c with xs := [x], drains := true }
     let e := (s.begin f).cur.edge s.seq
     s.Issues f →
      ((s.cur.seqr s.seq.next).ended = true → exec (.qpush h x) s = .next (s.retired f (s.begin f))) ∧
      ((s.cur.seqr s.seq.next).ended = false → 8 ≤ (s.cur.edge s.seq).queue.length → exec (.qpush h x) s = .next s) ∧
      ((s.cur.seqr s.seq.next).ended = false → (s.cur.edge s.seq).queue.length < 8 →
        exec (.qpush h x) s = .next (s.retired f ((s.begin f).setCur ((s.begin f).cur.setEdge s.seq
          { e with queue := (s.cur.edge s.seq).queue ++ [if s.g0 h then s.getX x else 0] }))))) ∧
    (let f : Form := { c with xs := [x] }
     let p : State := (s.begin f).setCur ((s.begin f).cur.setEdge s.seq.prev
      { (s.begin f).cur.edge s.seq.prev with queue := (s.cur.edge s.seq.prev).queue.tail })
     s.Issues f →
      (∀ v rest, (s.cur.edge s.seq.prev).queue = v :: rest →
        exec (.qpop h x) s = .next (s.retired f (if s.g0 h then p.setX x v else p))) ∧
      ((s.cur.edge s.seq.prev).queue = [] → exec (.qpop h x) s = .next s)) ∧
    (let f := scalar h false 0x09 6 [] []
     s.Issues f →
      (s.cur.ctr s.seq k.toNat ≤ n.toNat → exec (.kwait h k n) s = .next (s.retired f (s.begin f))) ∧
      (n.toNat < s.cur.ctr s.seq k.toNat → exec (.kwait h k n) s = .next s))) ∧
  (∀ (s : State) (f : Form), s.sq.afterEret = false → s.Issues f →
    let t := s.retired f (s.begin f)
    let p := s.seq.prev
    let n := s.seq.next
    (t.cur.edge p).fwd = (s.cur.edge p).fwd - f.waitB ∧ f.waitB ≤ (s.cur.edge p).fwd ∧
    (t.cur.edge s.seq).bwd = (s.cur.edge s.seq).bwd - f.waitA ∧ f.waitA ≤ (s.cur.edge s.seq).bwd ∧
    (t.cur.edge p).bwd = (s.cur.edge p).bwd + (if (s.cur.seqr p).ended then 0 else f.sigB) ∧
    (t.cur.edge s.seq).fwd = (s.cur.edge s.seq).fwd + (if (s.cur.seqr n).ended then 0 else f.sigA) ∧
    (∀ q, (t.cur.edge q).queue = (s.cur.edge q).queue) ∧
    (∀ q, q ≠ p → q ≠ s.seq → t.cur.edge q = s.cur.edge q) ∧ t.sq.pc = f.nextPc s.sq.pc)

/-- Work ranges (R32, R257, R258): rnext takes the next chunk of GRAIN from NEXT up to LIMIT and says so in pA; with
nothing left on a level that is not LAZY, or a level there is none of, xD and pA are zero; it waits while a sequencer
served before it waits for the level's range and can go. The fields of a level read as they stand. -/
def Obligations.WorkRanges : Prop :=
  ∀ (s : State) (h : Hdr) (x : XReg) (p : PReg) (j : BitVec 3),
    let f : Form := { scalar h false 0x0A 0 [x] [p] with stops := s.preLevel j.toNat }
    let yields := (s.begin f).mustYield fun w => w = .range j.toNat
    (s.Issues f →
      (s.level j.toNat ≠ none → yields = true → exec (.rnext h x p j) s = .next (s.setSq { s.sq with waitsOn := .range j.toNat })) ∧
      (∀ l st, s.level j.toNat = some (l, st) → yields = false → st.next < st.limit →
        let hi := min (st.next + max l.grain 1) st.limit
        exec (.rnext h x p j) s = .next (s.retired f
          ((((s.begin f).setCur ((s.begin f).cur.setLvl j.toNat { st with next := hi })).setX x
            (BitVec.ofNat 64 (st.next + 2 ^ 32 * hi))).setP p (BitVec.allOnes 256)))) ∧
      ((s.level j.toNat = none ∨ ∃ l st, s.level j.toNat = some (l, st) ∧ yields = false ∧ st.limit ≤ st.next ∧ (l.lazy = false ∨ st.finished = true)) →
        exec (.rnext h x p j) s = .next (s.retired f (((s.begin f).setX x 0).setP p 0)))) ∧
    (let g := scalar h false 0x0A 1 [x] []
     s.Issues g →
      let put (n : Nat) : Host.Outcome State Fault Refusal := .next (s.retired g ((s.begin g).setX x (BitVec.ofNat 64 n)))
      (∀ l st, s.level j.toNat = some (l, st) →
        exec (.lvlBase h x j) s = put st.base ∧ exec (.lvlLimit h x j) s = put st.limit ∧
        exec (.lvlTrip h x j) s = put l.trip ∧ exec (.lvlCoord h x j) s = put st.coord) ∧
      (s.level j.toNat = none →
        exec (.lvlBase h x j) s = put 0 ∧ exec (.lvlLimit h x j) s = put 0 ∧ exec (.lvlTrip h x j) s = put 0 ∧
        exec (.lvlCoord h x j) s = put 0))

/-- Scalar loads and stores (R267, R268): an access whose parts all pass their checks is taken in on its counter, with the
address A(a) plus the signed offset and, for a store, the register as it is; a misaligned one is MISALIGN with its
address. A load qualified .fe waits until its granules are full and no .fe load of an earlier sequencer can go, takes
their bytes at issue, and empties them under .fc (R58); one of uncorrectable data issues all the same, and is told as it
performs (R269). -/
def Obligations.LoadsAndStores : Prop :=
  ∀ (s : State) (h : Hdr) (x : XReg) (a : AReg) (k : Ctr), s.ctrRoom k = true →
    let width (sz : LdSize) : Nat := match sz with | .b | .bu => 1 | .h | .hu => 2 | .w | .wu => 4 | .d => 8
    let swidth (sz : StSize) : Nat := match sz with | .b => 1 | .h => 2 | .w => 4 | .d => 8
    let load (f : Form) (off : Int) (i : LdSize → FEq → Instr) : Prop := s.Issues f →
      let addr := s.getA a + BitVec.ofInt 64 off
      (∀ sz via, (s.begin f).scalarVia .read false (width sz) addr = .ok via →
        exec (i sz .none) s = .next (s.retired f
          (((s.begin f).touchVia via).putOp f 0x0D 0 k none none (.load x addr sz none) via false))) ∧
      (∀ sz fe via, fe ≠ .none → (s.begin f).scalarVia .read true (width sz) addr = .ok via →
        let u := (s.begin f).touchVia via
        let rs := scrRanges via
        u.cur.copyHeld via = false → u.mayAccess via (fe = .fc) none = true →
        (u.cur.rangesFull rs = true → u.mustYield Waiting.forGranules = false → u.cur.scrBad rs = false →
          exec (i sz fe) s = .next (s.retired f ((u.feTake fe rs).1.putOp f 0x0D 0 k none none
            (.load x addr sz (some (ldExtend sz (u.feTake fe rs).2.flatten))) via false))) ∧
        (u.cur.rangesFull rs = true → u.mustYield Waiting.forGranules = false → u.cur.scrBad rs = true →
          exec (i sz fe) s = .next (s.retired f (u.putOp f 0x0D 0 k none none (.load x addr sz none)
            (via.filter fun v => u.cur.scrBad (scrRanges [v])) false).markBad)) ∧
        (u.cur.rangesFull rs = false → exec (i sz fe) s = .next (s.setSq { s.sq with waitsOn := .full rs }))) ∧
      (∀ sz fe, addr.toNat < 2 ^ 56 → addr.toNat % width sz ≠ 0 → exec (i sz fe) s = .next (s.trapHere .misalign addr))
    let store (f : Form) (off : Int) (i : StSize → Instr) : Prop := s.Issues f →
      let addr := s.getA a + BitVec.ofInt 64 off
      (∀ sz via, (s.begin f).scalarVia .write false (swidth sz) addr = .ok via →
        exec (i sz) s = .next (s.retired f
          (((s.begin f).touchVia via).putOp f 0x0E 0 k none none (.store addr (swidth sz) (s.getX x)) via false))) ∧
      (∀ sz, addr.toNat < 2 ^ 56 → addr.toNat % swidth sz ≠ 0 → exec (i sz) s = .next (s.trapHere .misalign addr))
    load (scalar h false 0x0D 0 [x] []) 0 (fun sz fe => .ld h x a sz fe k) ∧
    (∀ off : BitVec 28, load (scalar h true 0x0D 0 [x] []) off.toInt (fun sz fe => .ldOffset h x a sz fe k off)) ∧
    store (scalar h false 0x0E 0 [x] []) 0 (fun sz => .st h x a sz k) ∧
    (∀ off : BitVec 28, store (scalar h true 0x0E 0 [x] []) off.toInt (fun sz => .stOffset h x a sz k off))

/-- Tile-row loads and stores (R270, R271): the units with a guarded byte that no replay has already moved are checked,
and the access is taken in with A(a) plus 16 times the signed offset; the rows are those of the tile from ROW on. Where a
unit fails its check, the units before it go as an operation of their own and the trap follows with their mask (R47). -/
def Obligations.TileLoadsAndStores : Prop :=
  ∀ (s : State) (h : Hdr) (t : BitVec 5) (row nr : BitVec 4) (a : AReg) (off : BitVec 20) (k : Ctr), s.ctrRoom k = true →
    let addr := s.getA a + BitVec.ofInt 64 (16 * off.toInt)
    let g := s.guard h
    let stops (f : Form) (sub : Nat) (kind : OpKind) (via : List (Nat × Nat × Xl)) (c : Cause) (v : Word64) :
        Host.Outcome State Fault Refusal :=
      let u := (((s.begin f).touchVia via).putOp f 0x0F sub none none none kind via false).countTrap c v
      let info : TrapInfo := ⟨c, v, s.sq.pc, maskOf addr.toNat via ||| s.sq.replayMask, true, s.sq.noSignal⟩
      if via = [] then .next ((s.countTrap c v).trapHere c v)
      else .next (u.setSq { u.sq with partTrap := some (s.cur.nextOp, info) })
    let units := unitsOf g nr.toNat s.sq.replayMask
    (let f := tmemForm h t row nr false
     s.Issues f →
      (∀ via, (s.begin f).unitsGo .read false addr g units [] = (via, none) →
        exec (.ldt h t row nr a off .none k) s = .next (s.retired f (((s.begin f).touchVia via).putOp f 0x0F 0 k none none
          (.ldt t.toNat row.toNat nr.toNat addr g none s.sq.replayMask) via false))) ∧
      (∀ via c v, (s.begin f).unitsGo .read false addr g units [] = (via, some (.trap c v)) →
        exec (.ldt h t row nr a off .none k) s = stops f 0
          (.ldt t.toNat row.toNat nr.toNat addr g none s.sq.replayMask) via c v) ∧
      (∀ fe via, fe ≠ .none → (s.begin f).unitsGo .read true addr g units [] = (via, none) →
        let u := (s.begin f).touchVia via
        let rs := scrRanges via
        u.cur.copyHeld via = false → u.mayAccess via (fe = .fc) none = true →
        u.cur.rangesFull rs = true → u.mustYield Waiting.forGranules = false → u.cur.scrBad rs = false →
        exec (.ldt h t row nr a off fe k) s = .next (s.retired f ((u.feTake fe rs).1.putOp f 0x0F 0 k none none
          (.ldt t.toNat row.toNat nr.toNat addr g (some (rowsFromPieces addr.toNat nr.toNat via (u.feTake fe rs).2))
            s.sq.replayMask) via false)))) ∧
    (let f := tmemForm h t row nr true
     s.Issues f →
      (∀ via, (s.begin f).unitsGo .write false addr g units [] = (via, none) →
        exec (.stt h t row nr a off k) s = .next (s.retired f (((s.begin f).touchVia via).putOp f 0x0F 1 k none none
          (.stt t.toNat row.toNat nr.toNat addr g s.sq.replayMask) via false))) ∧
      (∀ via c v, (s.begin f).unitsGo .write false addr g units [] = (via, some (.trap c v)) →
        exec (.stt h t row nr a off k) s = stops f 1 (.stt t.toNat row.toNat nr.toNat addr g s.sq.replayMask) via c v))

/-- Transfers as they are accepted (R272 to R276, R231): with a group that is alive, no failing check of the record and
the FILL, and what ACQ waits for over, copy, gath and scat are taken in with their addresses, the index list, the count
and the claimed slot; pref likewise; invr drops the control L1's lines, whatever their pages allow, before anything else
issues, and keeps the places of its lines, by which later accesses wait for it. Under a dead group a command completes at
once with no effect but the release of its FILL's slot (R84). What REL waits for is the model's reading (log entry 27). -/
def Obligations.TransfersAccepted : Prop :=
  ∀ (s : State) (h : Hdr) (a b : AReg) (c : XReg) (acq rel : OScope) (k : Ctr) (cnt : Option XReg) (fill : Option BRing)
    (esz : BitVec 4), s.ctrRoom k = true →
    let accepted (sub : Nat) (kind : XferKind) (listed : Bool) (i : Instr) : Prop :=
      let f := cmdForm h 0x10 sub ([c] ++ (if listed then [xPlus c 1] else []) ++ cnt.toList) []
      let b0 := s.begin f
      let n := if listed then (s.getX (xPlus c 1)).toNat % 2 ^ 32 else (s.getX c).toNat % 2 ^ 32
      s.Issues f → (listed = true → c ≠ 15 ∧ (s.getX c).toNat % 4 = 0) → b0.cntFillStop (cnt.map b0.getX) fill = none →
      (∀ u, b0.alive b0.cmdGroup = true → b0.acceptCmd acq = .ok u →
        exec i s = .next (s.retired f ((u.claim fill).1.addOp f 0x10 sub k acq rel
          (.xfer kind ((u.claim fill).1.getA a) ((u.claim fill).1.getA b) (s.getX c) n (cnt.map b0.getX) (u.claim fill).2 none) false))) ∧
      (b0.alive b0.cmdGroup = false →
        exec i s = .next (s.retired f (((b0.claim fill).1.releaseFill (b0.claim fill).1.core (b0.claim fill).2).addOp f 0x10 sub k
          none none .null true)))
    accepted 0 .copy false (.copy h a b c acq rel k cnt fill) ∧
    accepted 1 (.gath esz.toNat) true (.gath h a b c esz acq rel k cnt fill) ∧
    accepted 2 (.scat esz.toNat) true (.scat h a b c esz acq rel k cnt fill) ∧
    (let f := cmdForm h 0x10 3 [c] []
     s.Issues f → (s.begin f).alive (s.begin f).cmdGroup = true → ∀ u, (s.begin f).acceptCmd none = .ok u →
      exec (.pref h a c k) s = .next (s.retired f (u.addOp f 0x10 3 k none none
        (.xfer .pref (u.getA a) 0 0 ((u.getX c).toNat % 2 ^ 32) none none none) false))) ∧
    (let f := cmdForm h 0x10 4 [c] []
     s.Issues f → (s.begin f).alive (s.begin f).cmdGroup = true → ∀ u, (s.begin f).acceptCmd none = .ok u →
      let n := (u.getX c).toNat % 2 ^ 32
      let via := (linesOver (u.getA a).toNat n).flatMap fun v => (u.linesAtVa u.asid v).map fun x => (v, 128, x)
      let dropped (l : Nat) : Prop := ∃ v ∈ via, l = l1Key u.core u.asid v.2.2
      ∃ v : State, exec (.invr h a c k) s = .next (s.retired f (v.putOp f 0x10 4 k none none (.xfer .invr (u.getA a) 0 0 n none none none) via false)) ∧
        (∀ l, Tbl.get? v.cur.l1 l ≠ none → ¬ dropped l) ∧ (∀ e ∈ u.cur.l1, ¬ dropped e.1 → e ∈ v.cur.l1))

/-- Pinning and full/empty control (R56, R277, R278): a length and an offset that are not whole lines are MISALIGN at the
offset's address; spunp drops the lines' pins when nothing outstanding names them; feclr and feset set the full/empty bit
of every granule of the range, all of whose lines are pinned. Buffer rings (R279 to R282): rcfg sets a ring up; racq takes
the next slot's address into A(a) unless all are in use or an earlier sequencer waits for it and can go; rrel releases the
oldest slot neither released nor claimed; rwait gives the oldest unconsumed slot once N are filled; radv passes N filled
slots over. A ring that is not configured is ILLEGAL. -/
def Obligations.LocalMemoryAndRings : Prop :=
  (∀ (s : State) (h : Hdr) (p : PReg) (xa xb : XReg),
    let o := (s.getX xa).toNat
    let n := (s.getX xb).toNat
    let at_ : Word64 := BitVec.ofNat 64 scratchBase + s.getX xa
    let aligned : Prop := o % 128 = 0 ∧ n % 128 = 0
    let within : Prop := o < 2 ^ 20 ∧ o + n ≤ 2 ^ 20
    (let f := lmForm h 0 [xa, xb] [p]
     s.Issues f →
      (aligned → within → s.cur.scratchStorePending s.seq = false →
        exec (.sppin h p xa xb) s = .next (s.retired f
          ((pinGo (s.begin f) s.core (linesIn o n)).1.setFlag p (pinGo (s.begin f) s.core (linesIn o n)).2))) ∧
      (¬ aligned → exec (.sppin h p xa xb) s = .next (s.trapHere .misalign at_))) ∧
    (let f := lmForm h 1 [xa, xb] []
     s.Issues f →
      (aligned → within → (n ≠ 0 → s.cur.inRingOrBivouac o n = false) → s.cur.scratchStorePending s.seq = false →
        s.cur.namesScratch o n = false →
        ∃ c, exec (.spunp h xa xb) s = .next (s.retired f ((s.begin f).setCur c)) ∧
          c.pins = (s.cur.pins.filter fun e => !(decide (o / 128 ≤ e.1) && decide (e.1 < o / 128 + n / 128))) ∧
          c = { (s.begin f).cur with pins := c.pins }) ∧
      (aligned → within → n ≠ 0 → s.cur.inRingOrBivouac o n = true → exec (.spunp h xa xb) s = .next (s.trapHere .perm at_)) ∧
      (¬ aligned → exec (.spunp h xa xb) s = .next (s.trapHere .misalign at_))) ∧
    (∀ full : Bool,
      let f := lmForm h (if full then 3 else 2) [xa, xb] []
      let i : Instr := if full then .feset h xa xb else .feclr h xa xb
      s.Issues f →
      (o % 16 = 0 → (o + n) % 16 = 0 → 0 < n → s.cur.unpinnedGranule o (o + n) = none → s.cur.scratchStorePending s.seq = false →
        s.cur.rangeCopied o n = false →
        exec i s = .next (s.retired f ((s.begin f).setCur ((s.begin f).cur.setFullR o n full)))) ∧
      (o % 16 = 0 → n = 0 → s.cur.scratchStorePending s.seq = false → exec i s = .next (s.retired f (s.begin f))) ∧
      (o % 16 ≠ 0 → exec i s = .next (s.trapHere .misalign at_)))) ∧
  (∀ (s : State) (h : Hdr) (b : BRing) (a : AReg) (n : BitVec 7) (r : Ring),
    let slot (c : BitVec 32) : Word64 := BitVec.ofNat 64 (scratchBase + r.base + c.toNat % r.ns * r.sz)
    let f0 := ringForm h false 0
    let f1 : Form := { ringForm h false 1 with drains := true }
    (s.ringOf b = some r →
      (s.Issues f0 →
        ((r.aq - r.cn).toNat < r.ns → (s.begin f0).mustYield (fun w => w = .slot b.toNat) = false →
          exec (.racq h b a) s = .next (s.retired f0 (((s.begin f0).setA a (slot r.aq)).setRing b { r with aq := r.aq + 1 }))) ∧
        (r.ns ≤ (r.aq - r.cn).toNat → exec (.racq h b a) s = .next (s.setSq { s.sq with waitsOn := .slot b.toNat })) ∧
        (n.toNat ≤ r.ns → n.toNat ≤ (r.fl - r.cn).toNat →
          exec (.rwait h b a n) s = .next (s.retired f0 ((s.begin f0).setA a (slot r.cn)))) ∧
        (n.toNat ≤ r.ns → (r.fl - r.cn).toNat < n.toNat → exec (.rwait h b a n) s = .next s) ∧
        (n.toNat ≤ (r.fl - r.cn).toNat →
          exec (.radv h b n) s = .next (s.retired f0 ((s.begin f0).setRing b { r with cn := r.cn + n.setWidth 32 }))) ∧
        ((r.fl - r.cn).toNat < n.toNat → exec (.radv h b n) s = .next (s.trapHere .illegal 0))) ∧
      (s.Issues f1 →
        (∀ c, r.oldest = some c → exec (.rrel h b) s = .next (s.retired f1 ((s.begin f1).setRing b (r.release c)))) ∧
        (r.oldest = none → exec (.rrel h b) s = .next (s.trapHere .illegal 0)))) ∧
    (s.ringOf b = none →
      (s.Issues f0 → exec (.racq h b a) s = .next (s.trapHere .illegal 0) ∧
        exec (.rwait h b a n) s = .next (s.trapHere .illegal 0) ∧ exec (.radv h b n) s = .next (s.trapHere .illegal 0)) ∧
      (s.Issues f1 → exec (.rrel h b) s = .next (s.trapHere .illegal 0))) ∧
    (∀ (base : BitVec 13) (lines slots : BitVec 7) (i : Inst),
      let f := ringForm h true 4
      let o := base.toNat * 128
      let sz := (lines.toNat + 1) * 128
      let ns := slots.toNat + 1
      s.Issues f → s.inst = some i → i.rings.getLsbD b.toNat = true →
      (∀ q, Tbl.get? s.cur.rings b.toNat = some q → q.aq = q.cn) → o + ns * sz ≤ 2 ^ 20 →
      (∀ l ∈ linesIn o (ns * sz), Tbl.get? s.cur.pins l ≠ none) →
      exec (.rcfg h b base lines slots) s = .next (s.retired f ((s.begin f).setRing b ⟨o, sz, ns, 0, 0, 0, [], []⟩))))

/-- Atomics as they issue (R283, R284): the word A(a) plus the signed offset is checked for a read and a write, and the
operation is taken in with its operand B and, in C, the compare value and the destination of the old value; a vector
atomic takes in every guarded element that no replay has performed, at the base plus the index row's element. Every
operation. -/
def Obligations.AtomicsIssue : Prop :=
  ∀ (s : State) (h : Hdr) (dword : Bool) (a : AReg) (b c : XReg) (acq rel : OScope) (k : Ctr) (off : BitVec 18)
    (tv : BitVec 5) (rv : BitVec 4) (ti : BitVec 5) (ri : BitVec 4), s.ctrRoom k = true →
    let w := if dword then 8 else 4
    let addr := s.getA a + BitVec.ofInt 64 off.toInt
    let amo (code : Nat) (op : AmoOp) (i : Instr) : Prop :=
      let sub := code + (if dword then 8 else 0)
      let f := cmdForm h 0x13 sub [b, c] []
      s.Issues f →
      (∀ via, (s.begin f).scalarVia .amo false w addr = .ok via →
        exec i s = .next (s.retired f (((s.begin f).touchVia via).putOp f 0x13 sub k acq rel
          (.amo op dword c addr (s.getX b) (s.getX c)) via false))) ∧
      (addr.toNat < 2 ^ 56 → addr.toNat % w ≠ 0 → exec i s = .next (s.trapHere .misalign addr))
    let vamo (code : Nat) (op : AmoOp) (i : Instr) : Prop :=
      let sub := code + (if dword then 8 else 0)
      let f : Form := {
        h := h, two := true, seqs := [.load, .store], tiles := [tv.toNat, ti.toNat],
        rr := rowsOf tv.toNat rv.toNat (if op = .cas then 2 else 1) ++ rowsOf ti.toNat ri.toNat 1,
        rw := rowsOf tv.toNat rv.toNat 1, guarded := false }
      let row (t : BitVec 5) (r : Nat) : Row := s.cur.row t.toNat r
      let es := ((List.range (256 / w)).filter fun e => (s.guard h).getLsbD (w * e) && !s.sq.replayMask.getLsbD e).map fun e =>
        (e, s.getA a + BitVec.ofNat 64 (elem (row ti ri.toNat) 4 e), BitVec.ofNat 64 (elem (row tv rv.toNat) w e),
          BitVec.ofNat 64 (elem (row tv (rv.toNat + 1)) w e))
      s.Issues f → (op = .cas → rv ≠ 15) → (s.getA a).toNat < 2 ^ 56 →
      ∀ els, (s.begin f).elsGo w es [] = (els, none) →
        exec i s = .next (s.retired f (((s.begin f).touchVia (viaOfEls w els)).putOp f 0x14 sub k acq rel
          (.vamo op dword tv.toNat rv.toNat ti.toNat ri.toNat els s.sq.replayMask) (viaOfEls w els) false))
    amo 0 .add (.amoAdd h dword a b c acq rel k off) ∧ amo 1 .min (.amoMin h dword a b c acq rel k off) ∧
    amo 2 .max (.amoMax h dword a b c acq rel k off) ∧ amo 3 .band (.amoAnd h dword a b c acq rel k off) ∧
    amo 4 .bor (.amoOr h dword a b c acq rel k off) ∧ amo 5 .bxor (.amoXor h dword a b c acq rel k off) ∧
    amo 6 .xchg (.amoXchg h dword a b c acq rel k off) ∧ amo 7 .cas (.amoCas h dword a b c acq rel k off) ∧
    vamo 0 .add (.vamoAdd h dword a acq rel k tv rv ti ri) ∧ vamo 1 .min (.vamoMin h dword a acq rel k tv rv ti ri) ∧
    vamo 2 .max (.vamoMax h dword a acq rel k tv rv ti ri) ∧ vamo 3 .band (.vamoAnd h dword a acq rel k tv rv ti ri) ∧
    vamo 4 .bor (.vamoOr h dword a acq rel k tv rv ti ri) ∧ vamo 5 .bxor (.vamoXor h dword a acq rel k tv rv ti ri) ∧
    vamo 6 .xchg (.vamoXchg h dword a acq rel k tv rv ti ri) ∧ vamo 7 .cas (.vamoCas h dword a acq rel k tv rv ti ri)

/-- Fences, wait4 and barriers (R227, R233, R234, R286 to R288): a fence is taken in at once; fwait issues when no fence
of the sequencer is outstanding; wait4 returns the lowest armed word that differs, and sleeps on the words when none does;
bexp takes in an addition on the target word and gives the phase target to x(A + 1); bwait issues once the count has
reached it. The list of those asleep is the model's (log entry 7). -/
def Obligations.FencesAndBarriers : Prop :=
  ∀ (s : State) (h : Hdr) (x : XReg) (sc : Scope),
    (∀ (k : BitVec 3) (cv : Cover), s.ctrRoom (some k) = true → s.Issues (syncForm h 0 []) →
      exec (.fence h sc k cv) s = .next (s.retired (syncForm h 0 [])
        ((s.begin (syncForm h 0 [])).addOp (syncForm h 0 []) 0x15 0 (some k) none none (.fence sc cv) false))) ∧
    (let f := syncForm h 1 []
     s.Issues f →
      (s.cur.fencePending s.seq = false → exec (.fwait h) s = .next (s.retired f (s.begin f))) ∧
      (s.cur.fencePending s.seq = true → exec (.fwait h) s = .next s)) ∧
    (∀ (n : BitVec 2),
      let f := syncForm h 2 [x]
      s.Issues f →
      (∀ j, s.sq.sleep = .woken j → exec (.wait4 h x n) s =
        .next (s.retired f (((s.begin f).setX x (BitVec.ofNat 64 j)).setCur
          (((s.begin f).setX x (BitVec.ofNat 64 j)).cur.dropProbes s.seq)))) ∧
      (∀ armed, s.sq.sleep = .wait4 armed → exec (.wait4 h x n) s = .next s) ∧
      (∀ u bs es, s.sq.sleep = .none → (s.begin f).syncRead 64 (s.getX x) (16 * (n.toNat + 1)) = .ok (u, bs) →
        u.armCheck (armEntries (n.toNat + 1) bs) = .ok es →
        (∀ e ∈ es, u.mayAccess [(e.1.toNat, 8, e.2.2)] false none = true) →
        (∀ j, u.fired 0 es = .some j → exec (.wait4 h x n) s =
          .next (s.retired f ((u.setX x (BitVec.ofNat 64 j)).setCur ((u.setX x (BitVec.ofNat 64 j)).cur.dropProbes u.seq)))) ∧
        (u.fired 0 es = .none → exec (.wait4 h x n) s =
          .next (s.asleep (.wait4 es))))) ∧
    (let f := syncForm h 3 [x, xPlus x 1]
     s.Issues f →
      (∀ via, (s.begin f).scalarVia .amo false 16 (s.getX x) = .ok via →
        let tgt := via.map fun v => (v.1 + 8, 8, v.2.2.shift 8)
        exec (.bexp h x) s = .next (s.retired f (((s.begin f).touchVia tgt).putOp f 0x15 3 none none none
          (.bexp (xPlus x 1) (s.getX x + 8) (s.getX (xPlus x 1))) tgt false))) ∧
      ((s.getX x).toNat < 2 ^ 56 → (s.getX x).toNat % 16 ≠ 0 → exec (.bexp h x) s = .next (s.trapHere .misalign (s.getX x)))) ∧
    (let f := syncForm h 4 [x, xPlus x 1]
     s.Issues f → ∀ va n y rest arr, (s.begin f).scalarVia .read false 16 (s.getX x) = .ok ((va, n, y) :: rest) →
      (s.begin f).mayAccess [((s.getX x).toNat, 8, y)] false none = true → (s.begin f).peek (s.getX x) y = .ok arr →
      ((arr - s.getX (xPlus x 1)).toNat < 2 ^ 63 →
        let u := (s.begin f).setCur ((s.begin f).cur.dropProbes s.seq)
        exec (.bwait h sc x) s = .next (s.retired f ((u.touchVia ((va, n, y) :: rest)).acquire s.core s.seq sc))) ∧
      (2 ^ 63 ≤ (arr - s.getX (xPlus x 1)).toNat →
        exec (.bwait h sc x) s = .next (s.setCur (s.cur.dropProbes s.seq))))

/-- Trap entry (R359, R360): with a handler and outside a trap, the sequencer saves the cause with its class and its WDONE
and SDONE bits, the value, the address and the element mask, saves and raises its privilege, sets INTRAP and goes to TVEC;
TIMER clears TIMEN. Its registers stay, and so do the other sequencers, the other cores and memory. A trap under INTRAP,
or with TVEC = 0, aborts the launch FAILED and interrupts the driver, once its record in the fault area has performed, at
once where the launch has none; no sequencer enters a handler (R360, R363, R399). The causes and their codes, and which
are asynchronous (R358). The return from a trap and what it replays (R359, R360). What a second trap keeps and that an
abort stops at once are the model's readings (log entries 9, 24). -/
def Obligations.TrapEntryAndReturn : Prop :=
  (∀ (s : State) (core : Nat) (q : SeqId) (t : TrapInfo),
    let r := (s.getCore core).seqr q
    r.intrap = false → r.tvec ≠ 0 →
    let u := s.takeTrap core q t
    let n := (u.getCore core).seqr q
    n.trapCause = t.cause.code ∧ n.trapAsync = t.cause.async ∧ n.wdone = t.wdone ∧ n.sdone = t.sdone ∧ n.trapVal = t.val ∧
    n.trapPc = t.pc ∧ n.trapMask = t.mask ∧ n.psup = r.sup ∧ n.sup = true ∧ n.intrap = true ∧ n.pc = r.tvec ∧
    n.timen = (r.timen && decide (t.cause ≠ .timer)) ∧ n.x = r.x ∧ n.a = r.a ∧ n.p = r.p ∧ n.rstack = r.rstack ∧ n.sticky = r.sticky ∧
    n.tvec = r.tvec ∧ n.sscr0 = r.sscr0 ∧ n.sscr1 = r.sscr1 ∧ n.ended = r.ended ∧
    (∀ p, p ≠ q → (u.getCore core).seqr p = (s.getCore core).seqr p) ∧ (∀ m, m ≠ core → u.getCore m = s.getCore m) ∧
    s.SameOutside u) ∧
  (∀ (s : State) (core : Nat) (q : SeqId) (t : TrapInfo) (i : Inst),
    let r := (s.getCore core).seqr q
    (r.intrap = true ∨ r.tvec = 0) → (s.getCore core).inst = some i →
    let e : Efr := ⟨t.cause.code.toNat, 0, 0, q, 0, false, 0, i.inst, t.pc, t.val, 0, i.group⟩
    s.takeTrap core q t = (s.launchFault i.launch e (some (coreDie core))).abortLaunch i.launch 3 ∧
    (∀ l, Tbl.get? s.launches i.launch = some l → l.fault = 0 →
      s.launchFault i.launch e (some (coreDie core)) =
        (s.setLaunch i.launch { l with faults := l.faults + 1 }).irq (s.getDie (coreDie core)).dvec.toNat)) ∧
  (Cause.illegal.code = 1 ∧ Cause.misalign.code = 2 ∧ Cause.page.code = 3 ∧ Cause.perm.code = 4 ∧ Cause.rngWrap.code = 5 ∧
  Cause.scaleShort.code = 6 ∧ Cause.nanPriority.code = 7 ∧ Cause.lease.code = 8 ∧ Cause.tilecap.code = 9 ∧
  Cause.soft.code = 10 ∧ Cause.bkpt.code = 11 ∧ Cause.uncorr.code = 12 ∧ Cause.engine.code = 13 ∧ Cause.timer.code = 14 ∧
  ∀ c : Cause, c.async = true ↔ 12 ≤ c.code.toNat) ∧
  (∀ (s : State) (f : Form) (h : Hdr),
    let g := sysForm h 0 []
    let q := s.sq
    let first : Bool := q.afterEret && decide (q.pc = q.trapPc)
    let r := (s.begin f).sq
    (s.Issues g →
      (q.sup = true → q.intrap = true →
        exec (.eret h) s = .next (s.retired g ((s.begin g).setSq
          { (s.begin g).sq with sup := q.psup, intrap := false, pc := q.trapPc, afterEret := true }))) ∧
      ((q.sup = false ∨ q.intrap = false) → exec (.eret h) s = .next (s.trapHere .illegal 0))) ∧
    q.replayMask = (if first then q.trapMask else 0) ∧
    (first = true → q.wdone = true → ∀ p, (s.begin f).cur.edge p = s.cur.edge p) ∧
    (first = true → q.sdone = true → ∀ t, s.retired f t = t) ∧
    r.afterEret = false ∧
    r.trapMask = (if q.afterEret then 0 else q.trapMask) ∧ r.wdone = (q.wdone && !q.afterEret) ∧
    r.sdone = (q.sdone && !q.afterEret))

/-- The system instructions (R353 to R356, R360): trap n retires and then takes SOFT with n; bkpt n takes BKPT before it
issues; eret, for a supervisor in a trap, restores the privilege and goes to TRAPPC, and is ILLEGAL for any other; sysrd
and syswr reach a register that the sequencer may name; yield does nothing while no pre-emption is pending and stops there
while one is; idle returns 0 once its time has passed, 2 when a cause waits, and else sleeps. The order of the checks and
the guard of a stopping point are the model's readings (log entry 17). -/
def Obligations.SystemInstructions : Prop :=
  ∀ (s : State) (h : Hdr) (n : BitVec 8) (x : XReg),
    let f := sysForm h 0 []
    let g := sysForm h 0 [x]
    (s.Issues f →
      (let t := s.retired f (s.begin f)
       exec (.trap h n) s = .next (t.takeTrap s.core s.seq ⟨.soft, n.setWidth 64, t.sq.pc, 0, false, false⟩)) ∧
      exec (.bkpt h n) s = .next (s.trapHere .bkpt (n.setWidth 64)) ∧
      (s.sq.sup = true → s.sq.intrap = true →
        exec (.eret h) s = .next (s.retired f ((s.begin f).setSq
          { (s.begin f).sq with sup := s.sq.psup, intrap := false, pc := s.sq.trapPc, afterEret := true }))) ∧
      ((s.sq.sup = false ∨ s.sq.intrap = false) → exec (.eret h) s = .next (s.trapHere .illegal 0))) ∧
    (s.Issues g →
      (s.sysStop n.toNat = none →
        exec (.sysrd h x n) s = .next (s.retired g ((s.begin g).setX x ((s.begin g).sysGet n.toNat))) ∧
        exec (.syswr h n x) s = .next (s.retired g ((s.begin g).sysPut n.toNat (s.getX x)))) ∧
      (∀ c v, s.sysStop n.toNat = some (c, v) →
        exec (.sysrd h x n) s = .next (s.trapHere c v) ∧ exec (.syswr h n x) s = .next (s.trapHere c v)) ∧
      (∀ v, s.sq.sleep = .idleDone v → exec (.idle h x) s = .next (s.retired g ((s.begin g).setX x (BitVec.ofNat 64 v)))) ∧
      (s.sq.sleep = .none →
        ((s.getX x).toNat ≠ 0 → (s.getX x).toNat < s.time.toNat →
          exec (.idle h x) s = .next (s.retired g ((s.begin g).setX x 0))) ∧
        (((s.getX x).toNat = 0 ∨ s.time.toNat ≤ (s.getX x).toNat) → (s.begin g).causeWaits s.core s.seq = false →
          s.preempting = false → exec (.idle h x) s = .next (s.asleep (.idle (s.getX x)))) ∧
        (((s.getX x).toNat = 0 ∨ s.time.toNat ≤ (s.getX x).toNat) →
          ((s.begin g).causeWaits s.core s.seq = true ∨ s.preempting = true) →
          exec (.idle h x) s = .next (s.retired g ((s.begin g).setX x 2))))) ∧
    (let y : Form := { sysForm h 4 [] with stops := true }
     (s.Issues y → exec (.yield h) s = .next (s.retired y (s.begin y))) ∧
     (s.running = true → s.early y = none → s.preempting = true → s.g0 h = true →
      exec (.yield h) s = .next (s.setSq { s.sq with stopped := true })))

/-- Who may name a system register (R354): a reserved number is ILLEGAL, numbers 0x11 to 0x1C belong to the supervisor,
and TSTAT of a tile the instance does not hold is TILECAP. System registers read back (R19, R196, R317, R354, R361): the
identification and capacity registers; MSTAT, tile and bank status, whose bits are cleared by ones; the head of the engine
fault queue, which POP removes, and its words; TIME, STATUS, TRAPVAL, TRAPPC, TVEC, TIMECMP and the scratch registers read
what the sequencer holds; a write to one of the last five, and to TRAPVAL and TRAPPC, is read back; STATUS's sticky bits
are cleared by ones and its other bits stay but TIMEN, which a supervisor writes; TRAPCAUSE, TIME and the identification
registers ignore a write. -/
def Obligations.SystemRegisters : Prop :=
  (∀ (s : State) (n : BitVec 8),
    let r := n.toNat
    s.sysStop r =
      if (0x1D ≤ r ∧ r ≤ 0x1F) ∨ 0x44 ≤ r then some (.illegal, 0)
      else if 0x11 ≤ r ∧ r ≤ 0x1C ∧ s.sq.sup = false then some (.illegal, 0)
      else if 0x20 ≤ r ∧ r ≤ 0x3F ∧ s.ntile ≤ r - 0x20 then some (.tilecap, BitVec.ofNat 64 (r - 0x20))
      else none) ∧
  (∀ (s : State) (v : Word64),
    s.sysGet 0x07 = s.time ∧ s.sysGet 0x12 = s.sq.trapVal ∧ s.sysGet 0x13 = s.sq.trapPc.setWidth 64 ∧
    s.sysGet 0x18 = s.sq.tvec.setWidth 64 ∧ s.sysGet 0x19 = s.sq.timecmp ∧ s.sysGet 0x1A = s.sq.sscr0 ∧
    s.sysGet 0x1B = s.sq.sscr1 ∧
    (s.sysPut 0x12 v).sysGet 0x12 = v ∧ (s.sysPut 0x13 v).sysGet 0x13 = BitVec.ofNat 64 (v.toNat % 2 ^ 54) ∧
    (s.sysPut 0x18 v).sysGet 0x18 = BitVec.ofNat 64 (v.toNat % 2 ^ 54) ∧ (s.sysPut 0x19 v).sysGet 0x19 = v ∧
    (s.sysPut 0x1A v).sysGet 0x1A = v ∧ (s.sysPut 0x1B v).sysGet 0x1B = v ∧
    (∀ i, i < 4 → (s.sysPut (0x14 + i) v).sysGet (0x14 + i) = v ∧
      ∀ j, j < 4 → j ≠ i → (s.sysPut (0x14 + i) v).sysGet (0x14 + j) = s.sysGet (0x14 + j)) ∧
    (∀ i, i < 5 → (s.sysGet 0x08).getLsbD i = s.sq.sticky.getLsbD i ∧
      ((s.sysPut 0x08 v).sysGet 0x08).getLsbD i = (s.sq.sticky.getLsbD i && !v.getLsbD i)) ∧
    (s.sysGet 0x08).getLsbD 8 = s.sq.timen ∧ (s.sysGet 0x08).getLsbD 9 = s.sq.sup ∧ (s.sysGet 0x08).getLsbD 10 = s.sq.intrap ∧
    (s.sysGet 0x08).getLsbD 11 = s.sq.psup ∧
    ((s.sysPut 0x08 v).sysGet 0x08).getLsbD 8 = (if s.sq.sup then v.getLsbD 8 else s.sq.timen) ∧
    (∀ i, 9 ≤ i → ((s.sysPut 0x08 v).sysGet 0x08).getLsbD i = (s.sysGet 0x08).getLsbD i) ∧
    (∀ r, (r ≤ 0x07 ∨ r = 0x0A ∨ r = 0x0B ∨ (0x0D ≤ r ∧ r ≤ 0x11)) → s.sysPut r v = s) ∧
    (let c := s.cur
     let get (n : Nat) : Nat := (s.sysGet n).toNat
     let after (n m : Nat) : Word64 := (s.sysPut n v).sysGet m
     (s.core < 512 → get 0x00 = s.core % 8 ∧ get 0x01 = s.core / 8 % 16 ∧ get 0x02 = s.core / 128) ∧
     (512 ≤ s.core → s.core < 520 → get 0x00 = 8 + s.core % 2 ∧ get 0x01 = 0 ∧ get 0x02 = (s.core - 512) / 2) ∧
     get 0x03 = s.modId.toNat ∧ (∀ i, s.inst = some i → get 0x04 = i.inst % 2 ^ 32) ∧
     get 0x05 = (s.getDie (coreDie s.core)).tilecap % 64 ∧ get 0x06 = 0xF_0000 ∧
     (∀ i, s.inst = some i → get 0x0A = (match i.curTask with | some t => t.toNat | none => 0xFFFF_FFFF)) ∧
     get 0x0B = s.cmdGroup % 2 ^ 16 ∧ get 0x1C = 0 ∧
     get 0x11 = s.sq.trapCause.toNat % 256 + (if s.sq.trapAsync then 256 else 0) + (if s.sq.wdone then 512 else 0) +
       (if s.sq.sdone then 1024 else 0) ∧
     get 0x09 = (if c.mCancelled then 1 else 0) + (if c.mBadShape then 2 else 0) + c.level % 4 * 4 + (if c.leased then 16 else 0) +
       (if c.chain.isSome then 32 else 0) + (s.getCluster (coreCluster s.core)).skips.toNat * 2 ^ 32 ∧
     (∀ i, (after 0x09 0x09).getLsbD i = ((s.sysGet 0x09).getLsbD i && (decide (2 ≤ i) || !v.getLsbD i))) ∧
     (∀ n m, 0x20 ≤ n → n ≤ 0x43 → (n ≤ 0x3F ∨ 0x40 ≤ n) → 0x20 ≤ m → m ≤ 0x43 → ∀ i,
       (after n m).getLsbD i = ((s.sysGet m).getLsbD i && (decide (m ≠ n) || !v.getLsbD i))) ∧
     (∀ n, n < 32 → s.sysGet (0x20 + n) = (Tbl.getD c.tstat n 0).setWidth 64) ∧
     (∀ n, n < 4 → s.sysGet (0x40 + n) =
       ((c.bank (if n < 2 then (c.curS ^^ decide (n = 1)).toNat else 2 + (c.curV ^^ decide (n = 3)).toNat)).status).setWidth 64) ∧
     get 0x0C = c.efq.length % 16 + (if c.spilled then 16 else 0) ∧
     s.sysPut 0x0C v = (if v.getLsbD 16 then s.setCur { c with efq := c.efq.drop 1 } else s) ∧
     (c.efq = [] → ∀ i, i < 4 → get (0x0D + i) = 0) ∧
     (∀ e rest, c.efq = e :: rest →
       get 0x0D = e.cause % 2 ^ 8 + e.reason % 2 ^ 8 * 2 ^ 8 + (e.maj % 64 + 64 * e.seq.num) * 2 ^ 16 +
         (e.sub % 16 + (if e.kv then 16 else 0) + 32 * (e.k % 8)) * 2 ^ 24 + e.inst % 2 ^ 32 * 2 ^ 32 ∧
       get 0x0E = e.pc.toNat ∧ get 0x0F = e.addr.toNat ∧ get 0x10 = e.done % 2 ^ 32 + e.group % 2 ^ 16 * 2 ^ 32)))

/-- Arithmetic on tile rows (R289 to R294): every element whose guard bit is set becomes the operation's result on the
elements of A, B and the old destination, whose row is read where the result needs it or leaves bytes of it (R289); the
others keep their bytes; integers are computed exactly and then wrapped, or saturated under SAT; the row written goes to
lr too and its events to the tile's status, or to STATUS. -/
def Obligations.TileRowArithmetic : Prop :=
  ∀ (s : State) (h : Hdr) (et : ElemTy) (sat : Bool) (d a b : TileOp),
    let e0 (o : TileOp) (form : Form) (i : Nat) : Nat := elem ((s.begin form).readOp o et.bytes) et.bytes i
    let three (i : Instr) (old : Bool) (r : Nat → Nat → Nat → Nat × Ev) : Prop :=
      let f := s.elemForm h 0x16 0 et.bytes d [a, b] [] old
      s.Issues f → exec i s =
        .next (s.retired f ((s.begin f).putElems h et.bytes d fun i => r (e0 a f i) (e0 b f i) (e0 d f i)))
    let f1 := s.elemForm h 0x16 0 et.bytes d [a] [] false
    let one (r : Nat → Nat × Ev) : Host.Outcome State Fault Refusal :=
      .next (s.retired f1 ((s.begin f1).putElems h et.bytes d fun i => r (e0 a f1 i)))
    let fit (v : Int) : Nat × Ev :=
      if sat then (et.ofInt (et.clamp v).1, if (et.clamp v).2 then evSat else 0) else (et.ofInt v, 0)
    (et.isFloat = false →
      three (.vadd h et sat d a b) false (fun x y _ => fit (et.toInt x + et.toInt y)) ∧
      three (.vsub h et sat d a b) false (fun x y _ => fit (et.toInt x - et.toInt y)) ∧
      three (.vmul h et sat d a b) false (fun x y _ => fit (et.toInt x * et.toInt y)) ∧
      three (.vfma h et sat d a b) true (fun x y z => fit (et.toInt x * et.toInt y + et.toInt z)) ∧
      three (.vmin h et d a b) false (fun x y _ => (et.ofInt (min (et.toInt x) (et.toInt y)), 0)) ∧
      three (.vmax h et d a b) false (fun x y _ => (et.ofInt (max (et.toInt x) (et.toInt y)), 0))) ∧
    (et.isFloat = true →
      three (.vadd h et sat d a b) false (fun x y _ => et.fmt.add x y) ∧
      three (.vsub h et sat d a b) false (fun x y _ => et.fmt.sub x y) ∧
      three (.vmul h et sat d a b) false (fun x y _ => et.fmt.mul x y) ∧
      three (.vfma h et sat d a b) true et.fmt.fma ∧
      three (.vmin h et d a b) false (fun x y _ => et.fmt.minMax false x y) ∧
      three (.vmax h et d a b) false (fun x y _ => et.fmt.minMax true x y)) ∧
    (s.Issues f1 →
      (et.isFloat = false →
        exec (.vabs h et sat d a) s = one (fun x => fit (et.toInt x).natAbs) ∧
        exec (.vneg h et sat d a) s = one (fun x => fit (-(et.toInt x)))) ∧
      (et.isFloat = true →
        (∃ r, exec (.vabs h et sat d a) s = one r ∧ ∀ x, (et.fmt.dec x).isNan = false → r x = (x % et.fmt.signBit, 0)) ∧
        (∃ r, exec (.vneg h et sat d a) s = one r ∧ ∀ x, (et.fmt.dec x).isNan = false →
          r x = ((x + et.fmt.signBit) % (2 * et.fmt.signBit), 0))))

/-- What an element-by-element result leaves and writes (R205, R289 to R291): in the destination, element i of w bytes is
the result's low bytes where its guard bit is set, and the old element where it is not; the same row is in lr; every other
tile row, operand row, register and byte of memory is as it was, but the status that takes the events. A comparison's pair
of predicates (R207, R295): the bits of a guarded element become its result in pD and the complement in p(D xor 1); those
of other elements stay. -/
def Obligations.TileRowResults : Prop :=
  (∀ (s : State) (h : Hdr) (w : Nat) (d : TileOp) (r : Nat → Nat × Ev), w = 1 ∨ w = 2 ∨ w = 4 ∨ w = 8 →
    (∀ x, d ≠ .bcast x) →
    let t := s.putElems h w d r
    (∀ i, i < 256 / w → elem (t.readOp d w) w i =
      if (s.guard h).getLsbD (w * i) then (r i).1 % 2 ^ (8 * w) else elem (s.readOp d w) w i) ∧
    t.cur.lr = t.readOp d w ∧
    (∀ tt rr, d ≠ .tile tt rr → t.cur.row tt.toNat rr.toNat = s.cur.row tt.toNat rr.toNat) ∧
    (∀ o : BitVec 2, d ≠ .opd o → Tbl.getD t.cur.o o.toNat 0 = Tbl.getD s.cur.o o.toNat 0) ∧
    (∀ x, t.getX x = s.getX x) ∧ (∀ a, t.getA a = s.getA a) ∧ (∀ p, t.getP p = s.getP p) ∧
    t.cur.lists = s.cur.lists ∧ t.cur.banks = s.cur.banks ∧ t.cur.pins = s.cur.pins ∧ t.cur.ops = s.cur.ops ∧
    (∀ n, n ≠ s.core → t.getCore n = s.getCore n) ∧ s.SameOutside t) ∧
  (∀ (s : State) (d : PReg) (g : Pred) (w : Nat) (r : Nat → Bool), w = 1 ∨ w = 2 ∨ w = 4 ∨ w = 8 →
    let t := s.putPair d g w r
    (d ≠ 15 → ∀ i, i < 256 → (t.getP d).getLsbD i = if g.getLsbD (w * (i / w)) then r (i / w) else (s.getP d).getLsbD i) ∧
    (d ≠ 14 → ∀ i, i < 256 → (t.getP (d ^^^ 1)).getLsbD i =
      if g.getLsbD (w * (i / w)) then !r (i / w) else (s.getP (d ^^^ 1)).getLsbD i) ∧
    (∀ p, p ≠ d → p ≠ d ^^^ 1 → t.getP p = s.getP p) ∧ (∀ x, t.getX x = s.getX x) ∧ s.SameButSeqr t)

/-- Comparison, selection, logic, shifts and moves of tile rows (R295 to R300): the result of each element. -/
def Obligations.TileRowLogicShiftsMoves : Prop :=
  ∀ (s : State) (h : Hdr) (et : ElemTy) (d a b : TileOp),
    let w := et.bytes
    let n := et.bits
    let count := 256 / w
    let two (i : Instr) (old : Bool) (r : Nat → Nat → Nat → Nat) : Prop :=
      let f := s.elemForm h 0x18 0 w d [a, b] [] old
      let e (o : TileOp) (i : Nat) := elem ((s.begin f).readOp o w) w i
      s.Issues f → exec i s = .next (s.retired f ((s.begin f).putElems h w d fun i => (r (e a i) (e b i) (e d i), 0)))
    let moved (i : Instr) (from_ : (Nat → Nat) → Nat → Nat) : Prop :=
      let f := s.elemForm h 0x18 0 w d [a, b] [] false
      let e (o : TileOp) (i : Nat) := elem ((s.begin f).readOp o w) w i
      s.Issues f → exec i s = .next (s.retired f ((s.begin f).putElems h w d fun i =>
        (if from_ (e b) i < count then e a (from_ (e b) i) else 0, 0)))
    two (.vand h et d a b) false (fun x y _ => x &&& y) ∧ two (.vor h et d a b) false (fun x y _ => x ||| y) ∧
    two (.vxor h et d a b) false (fun x y _ => x ^^^ y) ∧
    two (.vshl h et d a b) false (fun x y _ => if y < n then x * 2 ^ y % 2 ^ n else 0) ∧
    two (.vshr h et d a b) false (fun x y _ => if y < n then x / 2 ^ y else 0) ∧
    (∃ r, two (.vsra h et d a b) false r ∧ ∀ x y z, x < 2 ^ n → r x y z = et.ofInt (Int.bmod x (2 ^ n) / 2 ^ (min y n))) ∧
    two (.vfunl h et d a b) true (fun x y z => (z * 2 ^ n + x) * 2 ^ (y % n) / 2 ^ n % 2 ^ n) ∧
    two (.vfunr h et d a b) true (fun x y z => (x * 2 ^ n + z) / 2 ^ (y % n) % 2 ^ n) ∧
    moved (.vrot h et d a b) (fun y i => (i + y 0) % count) ∧
    moved (.vperm h et d a b) (fun y i => y i) ∧
    moved (.vbcast h et d a b) (fun y _ => y 0) ∧
    (let f := s.elemForm h 0x17 0 w d [a] [] false
     s.Issues f → exec (.vmov h et d a) s = .next (s.retired f ((s.begin f).putElems h w d fun i =>
      (elem ((s.begin f).readOp a w) w i, 0)))) ∧
    (∀ p : BitVec 3,
      let f := s.elemForm h 0x17 1 w d [a, b] [p.setWidth 4] false
      s.Issues f → exec (.vsel h et d a b p) s = .next (s.retired f ((s.begin f).putElems h w d fun i =>
        (if (s.getP (p.setWidth 4)).getLsbD (w * i) then elem ((s.begin f).readOp a w) w i
         else elem ((s.begin f).readOp b w) w i, 0)))) ∧
    (∀ table : BitVec 8,
      let f := s.elemForm h 0x18 3 1 d [a, b] [] true
      s.Issues f → ∃ r : Nat → Nat → Nat → Nat, exec (.vlop3 h table d a b) s = .next (s.retired f ((s.begin f).putElems h 1 d fun i =>
        (r (elem ((s.begin f).readOp a 1) 1 i) (elem ((s.begin f).readOp b 1) 1 i) (elem ((s.begin f).readOp d 1) 1 i), 0))) ∧
        ∀ x y z : Nat, r x y z < 256 ∧ ∀ i, i < 8 →
          (r x y z).testBit i = table.getLsbD (4 * (z.testBit i).toNat + 2 * (x.testBit i).toNat + (y.testBit i).toNat)) ∧
    (∀ (c : FCond) (p : PReg),
      let f := tileForm h 0x17 0 [] [a, b] [p, p ^^^ 1]
      let e (o : TileOp) (i : Nat) := elem ((s.begin f).readOp o w) w i
      s.Issues f →
        exec (.vcmp h c et p a b) s = .next (s.retired f (((s.begin f).putPair p (s.guard h) w fun i =>
          (elemCond et c (e a i) (e b i)).1).scalarEv
            (((List.range count).filter fun i => (s.guard h).getLsbD (w * i)).foldl
              (fun m i => m ||| (elemCond et c (e a i) (e b i)).2) 0))))

/-- Conversions, packing, transcendental functions, reductions, draws and curve keys (R301 to R307, R312). Random draws
(R139, R140, R306, R307): every lane takes the draw of the instance's counter, which steps on, whatever the guard; a wrap
is RNGWRAP unless the kernel allows it. vrng writes the draws, as numbers in [0, 1) for FP32; vbern compares their high
halves with the elements' low halves. Draws (R138 to R140): a draw that would wrap the position without RNGWRAP is
refused; else the counter steps by one, a wrap sets RNGW, and lane l gets Gen32 of the key, the counter and lane number
INST_ID × 64 + l mod 2^16. -/
def Obligations.TileRowFunctionsAndDraws : Prop :=
  (∀ (s : State) (h : Hdr) (et : ElemTy) (d a : TileOp) (g : GReg),
    let w := et.bytes
    (∀ (src : ElemTy) (sat : Bool) (rm : RMode),
      let f := s.elemForm h 0x1B 0 w d [a] [] (decide (w < src.bytes))
      let b := s.begin f
      s.Issues f → exec (.vcvt h et src sat rm d a) s = .next (s.retired f (b.putElems h w d fun e =>
        if e < 256 / max src.bytes w then vcvtElem src et sat rm (b.readOp a src.bytes) e else (elem (b.readOp d w) w e, 0)))) ∧
    (∀ rm : RMode,
      let f := tileForm h 0x1B 1 [d] [a] []
      let b := s.begin f
      let v := Tbl.getD s.cur.g g.toNat 0
      s.Issues f →
        (gPackOk v = false → exec (.vpack h rm d a g) s = .next (s.trapHere .illegal 0)) ∧
        (gPackOk v = true →
          let src := elems (b.readOp a 4) 4
          let xs := (List.range 64).map fun e => if (s.guard h).getLsbD (4 * e) then src.getD e 0 else 0
          let bs := List.zipWith (fun x y => toBfpFrom x y (gM v) rm) (blocksOf (gBl v) 64 xs) (blocksOf (gBl v) 64 src)
          let row := BitVec.ofNat 2048 (packMant (gM v) ((bs.map fun q => q.1.m).flatten) +
            leNat (bs.map fun q => BitVec.ofNat 8 q.1.e) * 2 ^ 1024)
          exec (.vpack h rm d a g) s =
            .next (s.retired f ((b.writeOp d row).destEv d (bs.foldl (fun e q => e ||| q.2) 0))))) ∧
    (let f := s.elemForm h 0x1B 2 4 d [a] [] false
     let b := s.begin f
     let v := Tbl.getD s.cur.g g.toNat 0
     s.Issues f →
      (gPackOk v = false → exec (.vunpk h d a g) s = .next (s.trapHere .illegal 0)) ∧
      (gPackOk v = true → exec (.vunpk h d a g) s = .next (s.retired f (b.putElems h 4 d fun e =>
        (bfpTo32 (mantAt (gM v) (b.readOp a 4).toNat e) (byteAt (b.readOp a 4) (128 + e / gBl v)).toNat (gM v), 0))))) ∧
    (let f := s.elemForm h 0x1D 0 w d [a] [] false
     let x (e : Nat) : FVal := et.fmt.dec (elem ((s.begin f).readOp a w) w e)
     let put (r : FVal → FVal × Ev) : Host.Outcome State Fault Refusal :=
      .next (s.retired f ((s.begin f).putElems h w d fun e => et.fmt.op (r (x e))))
     s.Issues f → exec (.vexp h et d a) s = put FVal.exp ∧ exec (.vlog h et d a) s = put FVal.log ∧
      exec (.vrcp h et d a) s = put FVal.rcp ∧ exec (.vrsq h et d a) s = put FVal.rsq) ∧
    (∀ (op : RedOp) (sat : Bool),
      let f := s.elemForm h 0x1C 0 w d [a] [] true
      let b := s.begin f
      let src := (List.range (256 / w)).map fun e =>
        if (s.guard h).getLsbD (w * e) then elem (b.readOp a w) w e else redIdentity op et
      s.Issues f → exec (.vred h op et sat d a) s = .next (s.retired f ((b.writeOp d
        (rowOfElems w ((reduce op et sat src).1 :: (elems (b.readOp d w) w).tail))).destEv d (reduce op et sat src).2))) ∧
    (∀ (hil : Bool) (dims : BitVec 2) (t : BitVec 5) (r : BitVec 4),
      let f : Form := { tileForm h 0x20 0 [d] [.tile t r] [] with
        rr := rowsOf t.toNat r.toNat (dims.toNat + 2) ++ (if s.keepsOld h 8 then rowOf d else []) }
      s.Issues f → exec (.vsfc h hil dims d t r) s = .next (s.retired f ((s.begin f).putElems h 8 d fun e =>
        (curveKey hil ((List.range (dims.toNat + 2)).map fun i => elem (s.cur.row t.toNat (r.toNat + i)) 4 e), 0))))) ∧
  (∀ (s : State) (h : Hdr) (et : ElemTy) (d a : TileOp) (p : PReg),
    (let f := s.elemForm h 0x1E 0 4 d [] [] false
     s.Issues f →
      (∀ u b, (s.begin f).drawRow = some (u, b) → exec (.vrng h et d) s = .next (s.retired f (u.putElems h 4 d fun e =>
        (if et.isFloat then uniform32 (b e) else (b e).toNat, 0)))) ∧
      ((s.begin f).drawRow = none → exec (.vrng h et d) s = .next (s.trapHere .rngWrap 0))) ∧
    (let f := tileForm h 0x1E 1 [] [a] [p, p ^^^ 1]
     s.Issues f →
      (∀ u b, (s.begin f).drawRow = some (u, b) → exec (.vbern h p a) s = .next (s.retired f (u.putPair p (u.guard h) 4 fun e =>
        decide ((b e).toNat / 2 ^ 16 < elem ((s.begin f).readOp a 4) 4 e % 2 ^ 16)))) ∧
      ((s.begin f).drawRow = none → exec (.vbern h p a) s = .next (s.trapHere .rngWrap 0)))) ∧
  (∀ (s : State) (i : Inst), s.inst = some i →
    let wraps : Prop := i.ridx = 0xFFFF ∧ i.rpos = 0xFFFF_FFFF
    let word (r : Nat) : Nat := i.key.toNat / 2 ^ (32 * (r % 4)) % 2 ^ 32
    let turn (p : Nat × Nat) (r : Nat) : Nat × Nat :=
      let m := p.1 * 0xD256_D193
      (m / 2 ^ 32 ^^^ p.2 ^^^ word r ^^^ r * 0x9E37_79B9 % 2 ^ 32, m % 2 ^ 32)
    let drawn (l : Nat) : Nat :=
      let p := (List.range 10).foldl turn (i.rpos.toNat, (i.inst * 64 + l) % 2 ^ 16 * 2 ^ 16 + i.ridx.toNat)
      p.1 ^^^ (p.2 * 2 ^ 13 + p.2 / 2 ^ 19) % 2 ^ 32
    let t := s.setCur { s.cur with inst := some { i with
      ridx := i.ridx + 1, rpos := if i.ridx = 0xFFFF then i.rpos + 1 else i.rpos } }
    (wraps → i.flags.getLsbD 1 = false → s.drawRow = none) ∧
    (wraps → i.flags.getLsbD 1 = true → ∃ b, s.drawRow = some (t.orSticky 0b10000, b) ∧ ∀ l, l < 64 → (b l).toNat = drawn l) ∧
    (¬ wraps → ∃ b, s.drawRow = some (t, b) ∧ ∀ l, l < 64 → (b l).toNat = drawn l))

/-- Ranked lists (R152 to R154, R308 to R311): rlcfg lays NL lists of K pairs in the tile's rows from ROW and empties
them; rlins and rlmrg offer pairs to list n, which becomes the best K of itself and them; rlthr reads its last key, the
NaNs offered and K; rlrd copies it. What reads a list waits until no accepted operation has yet to write its rows, and
what writes it also until none has yet to read them (R31). A list that the tile does not hold is ILLEGAL. A list of pairs
kept by rank (R150, R151): its first K pairs, in order, each offered pair there or beaten by K others. -/
def Obligations.RankedLists : Prop :=
  (∀ (s : State) (h : Hdr) (t : BitVec 5) (n : BitVec 4) (x xa : XReg),
    let rows (l : ListState) : List Nat := rowsOf t.toNat (l.first n.toNat) (listRows l.k)
    let free (l : ListState) (writes : Bool) : Prop := s.rowsRead (rows l) = true ∧ (writes = true → s.rowsWrite (rows l) = true) ∧
      ∀ r ∈ rows l, s.cur.badRow r = false
    let waits (i : Instr) (f : Form) (l : ListState) (writes : Bool) : Prop :=
      s.Issues f → s.cur.list? t.toNat n.toNat = some l →
        (s.rowsRead (rows l) = false ∨ (writes = true ∧ s.rowsWrite (rows l) = false)) → exec i s = .next s
    (∀ a l, waits (.rlins h t n a x) { tileForm h 0x1F 1 [] [a] [] with tiles := t.toNat :: tileOf a, xs := x :: xOf a } l true ∧
      waits (.rlmrg h t n x) (listForm h 2 t [x] true) l true ∧ waits (.rlthr h t n x) (listForm h 3 t [x] true) l false) ∧
    (∀ row : BitVec 4,
      let f := listForm h 0 t [xa, x] true
      let k := (s.getX xa).toNat
      let nl := (s.getX x).toNat
      let m := nl * listRows k
      s.Issues f → 1 ≤ k → k ≤ 64 → 1 ≤ nl → nl ≤ 16 → row.toNat + m ≤ 16 → s.rowsWrite (rowsOf t.toNat row.toNat m) = true →
        let v := (s.begin f).writeRows t.toNat row.toNat (packList [] m)
        exec (.rlcfg h t row xa x) s =
          .next (s.retired f (v.setCur { v.cur with lists := Tbl.set v.cur.lists t.toNat ⟨k, row.toNat, nl, 0⟩ }))) ∧
    (∀ a l,
      let f : Form := { tileForm h 0x1F 1 [] [a] [] with tiles := t.toNat :: tileOf a, xs := x :: xOf a }
      s.Issues f → s.cur.list? t.toNat n.toNat = some l → free l true →
        exec (.rlins h t n a x) s = .next (s.retired f ((s.begin f).mergeList t.toNat n.toNat l
          (((List.range 64).filter fun e => (s.guard h).getLsbD (4 * e)).map fun e =>
            (elem ((s.begin f).readOp a 4) 4 e, ((s.getX x).toNat + e) % 2 ^ 32))))) ∧
    (∀ l u bs,
      let f := listForm h 2 t [x] true
      s.Issues f → s.cur.list? t.toNat n.toNat = some l → free l true →
        (s.begin f).syncRead 8 (s.getX x) (8 * l.k) = .ok (u, bs) →
        exec (.rlmrg h t n x) s = .next (s.retired f (u.mergeList t.toNat n.toNat l
          ((List.range l.k).map fun j => wordPair (fld bs (8 * j) 8))))) ∧
    (∀ l,
      let f := listForm h 3 t [x] true
      s.Issues f → s.cur.list? t.toNat n.toNat = some l → free l false →
        let own := topK (offer (readPairs (s.cur.listRowsOf t.toNat l n.toNat) l.k)).1 l.k
        exec (.rlthr h t n x) s = .next (s.retired f ((s.begin f).setX x
          (BitVec.ofNat 64 ((own.getD (l.k - 1) emptyPair).1 + l.nans * 2 ^ 32 + l.k * 2 ^ 48))))) ∧
    (∀ (td : BitVec 5) (rd : BitVec 4) l,
      let f : Form := { listForm h 4 t [] true with tiles := [td.toNat, t.toNat] }
      s.Issues f → s.cur.list? t.toNat n.toNat = some l → free l false →
        rd.toNat + listRows l.k ≤ 16 → s.rowsWrite (rowsOf td.toNat rd.toNat (listRows l.k)) = true →
        let own := (offer (readPairs (s.cur.listRowsOf t.toNat l n.toNat) l.k)).1
        exec (.rlrd h (.tile td rd) t n) s = .next (s.retired f
          ((s.begin f).writeRows td.toNat rd.toNat (packList (topK own l.k) (listRows l.k))))) ∧
    (∀ a, s.cur.list? t.toNat n.toNat = none →
      (s.Issues { tileForm h 0x1F 1 [] [a] [] with tiles := t.toNat :: tileOf a, xs := x :: xOf a } →
        exec (.rlins h t n a x) s = .next (s.trapHere .illegal 0)) ∧
      (s.Issues (listForm h 2 t [x] true) → exec (.rlmrg h t n x) s = .next (s.trapHere .illegal 0) ∧
        exec (.rlthr h t n x) s = .next (s.trapHere .illegal 0)))) ∧
  (∀ (l : List RPair) (k : Nat), (∀ p ∈ l, isNan32 p.1 = false ∧ p.1 < 2 ^ 32 ∧ p.2 < 2 ^ 32) →
    let r := topK l k
    r.length = k ∧ r.Pairwise (fun p q => ranksAbove q p = false) ∧
    (∀ p, r.count p ≤ l.count p + if p = emptyPair then k else 0) ∧
    (∀ p ∈ l, r.count p < l.count p → ∀ q ∈ r, ranksAbove p q = false))

/-- The reel (R259 to R262): dqpush appends the guarded elements with their values, oldest first, or nothing when 256 do
not hold them; dqdrain gives the oldest entries, at most 64, to the tag row and the value rows, and only when 64 wait or
it is forced; dqcnt counts them. The bivouac (R263 to R265): spbeg opens a region whose lines are all pinned, and its
token signals follow when the copies end; spcom swaps the banks, spabt leaves them; each waits for the control sequencer's
own accesses to the window, for its loads too by the model's reading (log entry 62). -/
def Obligations.ReelAndBivouacs : Prop :=
  (∀ (s : State) (h : Hdr) (et : ElemTy) (p : PReg),
    (∀ (tag vals : TileOp) (n : BitVec 3),
      let rows := match vals with | .tile t r => rowsOf t.toNat r.toNat (max 1 n.toNat) | _ => []
      let f : Form := { tileForm h 0x0B 0 [] [tag, vals] [p] with rr := rowOf tag ++ rows }
      let b := s.begin f
      let es := predElems 4 (s.guard h)
      let valueAt (v e : Nat) : Word32 := BitVec.ofNat 32 (elem (b.valueRow vals v) 4 e)
      s.Issues f →
        (s.cur.reel.length + es.length ≤ 256 → exec (.dqpush h et p tag vals n) s = .next (s.retired f
          ((b.setCur { b.cur with reel := s.cur.reel ++ es.map fun e =>
            ⟨BitVec.ofNat 32 (elem (b.readOp tag 4) 4 e), (List.range n.toNat).map fun v => valueAt v e⟩ }).setP p (BitVec.allOnes 256)))) ∧
        (256 < s.cur.reel.length + es.length →
          exec (.dqpush h et p tag vals n) s = .next (s.retired f (b.setP p 0)))) ∧
    (∀ (t : BitVec 5) (row : BitVec 4) (force : Bool) (n : BitVec 3),
      let f : Form := { tileForm h 0x0B 1 [.tile t row] [] [p] with guarded := true, rw := rowsOf t.toNat row.toNat (n.toNat + 1) }
      let b := s.begin f
      let m := min s.cur.reel.length 64
      let rowOf_ (v : ReelEntry → Word32) : Row := rowOfElems 4 ((s.cur.reel.take m).map fun e => (v e).toNat)
      let out := rowOf_ (·.tag) :: (List.range n.toNat).map fun v => rowOf_ fun e => e.vals.getD v 0
      s.Issues f →
        ((64 ≤ s.cur.reel.length ∨ (force = true ∧ 0 < s.cur.reel.length)) →
          exec (.dqdrain h et t row force p n) s = .next (s.retired f
            ((b.setCur ({ b.cur with reel := s.cur.reel.drop m, lr := out.getLast?.getD 0 }.setRows t.toNat row.toNat out)).setP p
              (lowBits (4 * m))))) ∧
        (s.cur.reel.length < 64 → (force = false ∨ s.cur.reel = []) →
          exec (.dqdrain h et t row force p n) s = .next (s.retired f (b.setP p 0)))) ∧
    (∀ x : XReg,
      let f := scalar h true 0x0B 2 [x] []
      s.Issues f → exec (.dqcnt h x) s = .next (s.retired f ((s.begin f).setX x (BitVec.ofNat 64 s.cur.reel.length))))) ∧
  (∀ (s : State) (h : Hdr) (xa xb : XReg),
    let f := bivForm h 0 [xa, xb]
    let g := bivForm h 1 []
    let b := (s.getX xa).toNat
    let n := (s.getX xb).toNat
    (s.Issues f → b % 128 = 0 → n % 128 = 0 → 0 < n → n ≤ 2 ^ 16 → b + 2 * n ≤ 2 ^ 20 →
      s.cur.firstUnpinned b (2 * n) = none →
      (s.cur.biv.active = false → s.cur.scratchPending s.seq = false →
        ∃ c, exec (.spbeg h xa xb) s = .next (if s.sq.noSignal then (s.begin f).setCur c else ((s.begin f).setCur c).deferSignal f) ∧
          c.biv.base = b ∧ c.biv.len = n ∧ c.biv.configured = true ∧ c.biv.active = true ∧ c.biv.copying = true ∧
          c.biv.cur = (s.cur.biv.configured && decide (s.cur.biv.base = b ∧ s.cur.biv.len = n) && s.cur.biv.cur) ∧
          c.ops = s.cur.ops ∧ c.tiles = s.cur.tiles ∧ c.reel = s.cur.reel) ∧
      (s.cur.biv.active = true → exec (.spbeg h xa xb) s = .next (s.trapHere .illegal 0))) ∧
    (s.Issues g → s.cur.scratchPending s.seq = false →
      (s.cur.biv.active = true →
        (∃ c, exec (.spcom h) s = .next (s.retired g ((s.begin g).setCur c)) ∧ c.pins = s.cur.pins ∧
          c.biv = { s.cur.biv with active := false, cur := !s.cur.biv.cur }) ∧
        (∃ c, exec (.spabt h) s = .next (s.retired g ((s.begin g).setCur c)) ∧ c.pins = s.cur.pins ∧
          c.biv = { s.cur.biv with active := false })) ∧
      (s.cur.biv.active = false → exec (.spcom h) s = .next (s.retired g ((s.begin g).setCur (s.begin g).cur)) ∧
        exec (.spabt h) s = .next (s.retired g ((s.begin g).setCur (s.begin g).cur)))))

/-- Stream registers (R184, R319): gset loads the 32-byte image at A(B) plus the signed offset, unless a reserved field of
it is set, BASE is no multiple of 16, or it is BFP with a reserved M or BLS, which is ILLEGAL and leaves gN; gadv moves
BASE and SBASE by X(B) and X(C) modulo 2^56 and nothing else, and a BASE that is no multiple of 16 is MISALIGN. Belays,
banks and shapes (R317, R320, R321, R327, R331): mlease makes the core a leaseholder at its level and enters it in the
arbitration, its operation complete once it holds the pair; mfree ends the lease and a holder's run; mswap exchanges an
array's banks; mchain is ILLEGAL where it would pass the east edge, and else waits for its product; mshape binds the
record its loads read, none where that is refused, and says so in pC. -/
def Obligations.StreamsBelaysAndShapes : Prop :=
  (∀ (s : State) (h : Hdr) (g : GReg) (a : AReg) (off : BitVec 18) (xb xc : XReg),
    let bits (v : BitVec 256) (lo n : Nat) : Nat := v.toNat / 2 ^ lo % 2 ^ n
    let ok (v : BitVec 256) : Prop :=
      bits v 140 4 ≤ 11 ∧ bits v 128 5 = 0 ∧ bits v 64 8 = 0 ∧ bits v 0 8 = 0 ∧ bits v 8 4 = 0 ∧
      (bits v 140 4 = 11 → 2 ≤ bits v 135 5 ∧ bits v 135 5 ≤ 16 ∧ bits v 133 2 ≠ 3)
    (let f := cmdForm h 0x21 0 [] []
     s.Issues f →
      (∀ u bs, (s.begin f).syncRead 32 (s.getA a + BitVec.ofInt 64 off.toInt) 32 = .ok (u, bs) →
        (ok (BitVec.ofNat 256 (leNat bs)) → exec (.gset h g a off) s = .next (s.retired f (u.setCur
          { u.cur with g := Tbl.set u.cur.g g.toNat (BitVec.ofNat 256 (leNat bs)) }))) ∧
        (¬ ok (BitVec.ofNat 256 (leNat bs)) → exec (.gset h g a off) s = .next (s.trapHere .illegal 0)))) ∧
    (let f := cmdForm h 0x21 1 [xb, xc] []
     let v := Tbl.getD s.cur.g g.toNat 0
     let base := (bits v 8 56 + (s.getX xb).toNat) % 2 ^ 56
     let sbase := (bits v 72 56 + (s.getX xc).toNat) % 2 ^ 56
     s.Issues f →
      (base % 16 ≠ 0 → exec (.gadv h g xb xc) s = .next (s.trapHere .misalign (BitVec.ofNat 64 base))) ∧
      (base % 16 = 0 →
        ∃ w, exec (.gadv h g xb xc) s = .next (s.retired f ((s.begin f).setCur
            { (s.begin f).cur with g := Tbl.set s.cur.g g.toNat w })) ∧
          bits w 8 56 = base ∧ bits w 72 56 = sbase ∧ bits w 0 8 = bits v 0 8 ∧ bits w 64 8 = bits v 64 8 ∧
          bits w 128 128 = bits v 128 128))) ∧
  (∀ (s : State) (h : Hdr) (k : Ctr) (arr : Arr) (n : BitVec 2) (xa : XReg) (p : PReg),
    (let f := matrixForm h 0x22 0 [] []
     let b := s.begin f
     let u := b.setCur { b.cur with leased := true, level := n.toNat }
     let v := u.enterArbitration u.core n.toNat
     s.Issues f → s.ctrRoom k = true →
      (b.alive b.cmdGroup = false → exec (.mlease h n k) s = .next (s.retired f (b.cancelNow f 0x22 0 k))) ∧
      (b.alive b.cmdGroup = true →
        (s.cur.leased = true → exec (.mlease h n k) s = .next (s.retired f (u.addOp f 0x22 0 k none none .mlease true))) ∧
        (s.cur.leased = false → exec (.mlease h n k) s =
          .next (s.retired f (v.addOp f 0x22 0 k none none .mlease
            (decide ((s.getCluster (coreCluster s.core)).holder = some s.core ∧
              (s.getCluster (coreCluster s.core)).freed = false))))))) ∧
    (let f := matrixForm h 0x22 1 [] []
     let b := s.begin f
     let u := b.setCur { b.cur with leased := false }
     let cl := s.getCluster (coreCluster s.core)
     s.Issues f →
      (s.cur.leased = false → exec (.mfree h) s = .next (s.retired f b)) ∧
      (s.cur.leased = true → cl.holder = some s.core → cl.freed = false →
        exec (.mfree h) s = .next (s.retired f (u.setCluster (coreCluster s.core) { cl with freed := true }))) ∧
      (s.cur.leased = true → cl.holder ≠ some s.core → (∃ e ∈ cl.table, e.1 = s.core) →
        exec (.mfree h) s = .next (s.retired f u)) ∧
      (s.cur.leased = true → (cl.holder = some s.core → cl.freed = true) →
        (cl.holder ≠ some s.core → ∀ e ∈ cl.table, e.1 ≠ s.core) →
        let v := u.setCluster (coreCluster s.core) { cl with waiting := cl.waiting.filter fun w => w.1 != s.core }
        exec (.mfree h) s = .next (s.retired f (v.setCur v.cur.granted)))) ∧
    (let f := matrixForm h 0x26 1 [] []
     let c := (s.begin f).cur
     s.Issues f → exec (.mswap h arr) s = .next (s.retired f ((s.begin f).setCur
      (match arr with | .s => { c with curS := !s.cur.curS } | .v => { c with curV := !s.cur.curV })))) ∧
    (let f := matrixForm h 0x26 2 [] []
     let column := coreCluId s.core % 4
     s.Issues f →
      (n.toNat = 0 ∨ 4 ≤ column + n.toNat → exec (.mchain h n) s = .next (s.trapHere .illegal 9)) ∧
      (0 < n.toNat → column + n.toNat ≤ 3 →
        exec (.mchain h n) s = .next (s.retired f ((s.begin f).setCur { (s.begin f).cur with chain := some n.toNat })))) ∧
    (let f := matrixForm h 0x26 3 [xa] [p]
     s.Issues f → ∀ u r, (s.begin f).readShape (s.getX xa) = .ok (u, r) →
      exec (.mshape h xa p) s = .next (s.retired f ((u.setCur { u.cur with shape := r }).setP p
        (if r.isSome then BitVec.allOnes 256 else 0)))))

/-- Loads of B planes and products as they are accepted (R315, R322, R324 to R326): without a lease LEASE; each reason of
Table 2 is ILLEGAL with its number, the first that holds, then SCALE_SHORT with the register's number, then what a range
that does not translate raises; with every check passed, its group alive, an active run, room in the cluster's table and
what ACQ waits for over, the command enters the table with the streams and registers as they are, and the command of a
dead group completes CANCELLED. mloadb takes the plane that the core's last one on the array did not, mmul the plane that
it loaded, and takes the pending chain. That a product takes one entry for each 16 rows, at most 32, is the model's choice
(log entry 53). Attention and drains as they are accepted (R315, R329, R330): mattn is LEASE without a lease, reads its
64-byte descriptor, at a multiple of 64 in the scratch window, is ILLEGAL with the first reason of Table 2 that holds, 8
for the descriptor, then SCALE_SHORT, then what a range that does not translate raises, and enters the table with it and
its three streams, its rows of the descriptor or of the shape record. With a bad record it completes BADSHAPE, after the
checks that need no row count of it by the model's reading (log entry 71). mdrain into a tile or into memory waits for the
bank's shape to be known, is ILLEGAL with BANK beyond what the bank holds or in the wrong mode, and is taken in with the
bank it names. -/
def Obligations.MatrixCommandsAccepted : Prop :=
  (∀ (s : State) (h : Hdr) (arr : Arr) (k : Ctr) (acq : OScope), s.ctrRoom k = true →
    let refuses (f : Form) (i : Instr) (cs : List (Bool × Nat)) (short : Option GReg) (rs : List (Nat × Nat)) : Prop :=
      let b := s.begin f
      s.Issues f →
        (s.cur.leased = false → exec i s = .next (s.trapHere .lease 0)) ∧
        (s.cur.leased = true → ∀ pre c post, cs = pre ++ c :: post → (∀ e ∈ pre, e.1 = false) → c.1 = true →
          exec i s = .next (s.trapHere .illegal (BitVec.ofNat 64 c.2))) ∧
        (s.cur.leased = true → (∀ e ∈ cs, e.1 = false) →
          (∀ g, short = some g → exec i s = .next (s.trapHere .scaleShort (BitVec.ofNat 64 g.toNat))) ∧
          (∀ r x c v, short = none → b.rangesFault b.selfAgent rs = some (r, x) → stopOf r x.1 x.2 = .trap c v →
            exec i s = .next ((s.countTrap c v).trapHere c v)))
    let passes (f : Form) (cs : List (Bool × Nat)) (short : Option GReg) (rs : List (Nat × Nat)) : Prop :=
      s.Issues f ∧ s.cur.leased = true ∧ (∀ e ∈ cs, e.1 = false) ∧ short = none ∧
        (s.begin f).rangesFault (s.begin f).selfAgent rs = none
    let dead (b : State) : Prop := b.alive b.cmdGroup = false
    let runs (b : State) (n : Nat) : Prop := b.alive b.cmdGroup = true ∧
      (b.getCluster (coreCluster s.core)).active s.core = true ∧ b.tableUsed (coreCluster s.core) + min 32 n ≤ 32
    let formed (v : BitVec 256) (hi : Nat) : Bool := decide (gFmt v = 11 ∧ 2 ≤ gM v ∧ gM v ≤ hi ∧ gBls v ≠ 3)
    let lacks (v : BitVec 256) : Bool := decide (gSext v < ceilDiv (gKext v) (gBl v))
    (∀ (g : GReg) (nfold : Bool) (f2 : BitVec 2),
      let f := matrixForm h 0x23 0 [] []
      let b := s.begin f
      let v := Tbl.getD s.cur.g g.toNat 0
      let fold := 2 ^ f2.toNat
      let depth := if nfold then 1024 * fold else 1024 / fold
      let width := if nfold then 1024 / fold else 1024 * fold
      let ts := tileRanges arr nfold fold v 0 (gNext v) 0 (gKext v)
      let rs := ts.map (·.1)
      let i : Instr := .mloadb h g arr nfold f2 acq k
      let cs : List (Bool × Nat) := [(!formed v 8, 1), (decide (gKext v = 0 ∨ depth < gKext v), 3),
        (decide (gNext v = 0 ∨ width < gNext v), 4), (!b.bPlaced b.selfAgent s.core ts, 6)]
      let short := if lacks v then some g else none
      refuses f i cs short rs ∧
      (passes f cs short rs → dead b →
        exec i s = .next (s.retired f ((b.setCur ((b.cur.flipPlane arr).deadLoad (b.cur.nextPlane arr) b.cur.nextOp v nfold fold)).cancelNow
          f 0x23 0 k))) ∧
      (passes f cs short rs → runs b 1 → ∀ u, b.acceptCmd acq = .ok u →
        let w := u.enterTable f 0x23 0 k acq (.mloadb v arr nfold fold (b.cur.nextPlane arr))
        exec i s = .next (s.retired f (w.setCur (w.cur.flipPlane arr))))) ∧
    (∀ (ga : Option GReg) (init ragged : Bool) (fe : FEq) (list : Option (XReg × BitVec 6)) (bound : Option XReg),
      let f := matrixForm h 0x24 0 ((list.map (·.1)).toList ++ bound.toList) []
      let b := s.begin f
      let a := ga.map fun g => Tbl.getD s.cur.g g.toNat 0
      let plane := b.cur.lastPlane arr
      let tile := (b.cur.tileOf plane).map (·.1)
      let cols := (tile.map gNext).getD 0
      let ntok := s.cur.shape.map (·.ntok)
      let rows := match a with | some v => if ragged then ntok.getD (gNext v) else gNext v | none => 0
      let lst := list.map fun l => (l.2.toNat + 1, (s.getX l.1).setWidth 32)
      let bank := b.cur.bankOf arr false
      let sh : BankShape := ⟨listMode lst, rows, cols⟩
      let rs := (a.map fun v => stripRanges v 0 rows).getD []
      let i : Instr := .mmul h ga arr init ragged fe list bound acq k
      let onA (q : BitVec 256 → Bool) : Bool := a.any q
      let onB (q : BitVec 256 → BitVec 256 → Bool) : Bool := a.any fun v => tile.any fun t => q v t
      let cs : List (Bool × Nat) := [
        (onA fun v => !formed v 16, 1),
        (onB fun v t => decide (gBl v ≠ gBl t), 2),
        (onA (fun v => decide (gKext v = 0)) || onB fun v t => decide (gKext v ≠ gKext t), 3),
        (onA fun v => decide (gNext v = 0 ∨ gNext v < rows), 4),
        ((bound.isSome && list.isNone) || (tile.isSome && (!sh.fits || (!init && !(b.cur.bankShape bank).agrees sh))), 5),
        (!b.aPlaced b.selfAgent s.core rs, 6), (tile.isNone, 7), (ga.isNone && s.cur.chain.isSome, 9),
        (ragged && s.cur.shape.isNone, 10)]
      let short := if onA lacks then ga else none
      refuses f i cs short rs ∧
      (passes f cs short rs → dead b → exec i s = .next (s.retired f (b.cancelNow f 0x24 0 k))) ∧
      (passes f cs short rs → runs b (max 1 (ceilDiv rows 16)) → ∀ u, b.acceptCmd acq = .ok u →
        let bd := bound.map fun x => b.cur.boundNow init lst bank cols ((s.getX x).setWidth 32)
        let w := u.enterTable f 0x24 0 k acq (.mmul a arr init fe lst bd bank plane rows cols (s.cur.chain.getD 0) [])
        exec i s = .next (s.retired f (w.setCur { w.cur with chain := none }))))) ∧
  (∀ (s : State) (h : Hdr) (k : Ctr) (acq : OScope), s.ctrRoom k = true →
    (∀ (gq gk gv : GReg) (xd : XReg) (fe : FEq),
      let f := matrixForm h 0x25 0 [xd] []
      let b := s.begin f
      let i : Instr := .mattn h gq gk gv xd fe acq k
      let at_ := (s.getX xd).toNat
      s.Issues f →
        (s.cur.leased = false → exec i s = .next (s.trapHere .lease 0)) ∧
        (s.cur.leased = true → (inScratch at_ = false ∨ at_ % 64 ≠ 0) → exec i s = .next (s.trapHere .misalign (s.getX xd))) ∧
        (s.cur.leased = true → inScratch at_ = true → at_ % 64 = 0 → ∀ v bs, b.syncRead 64 (s.getX xd) 64 = .ok (v, bs) →
          (attnDesc bs = none → exec i s = .next (s.trapHere .illegal 8)) ∧
          (∀ d sa w shape bad, attnDesc bs = some (d, sa) →
            ((d.segment = false ∧ shape = none ∧ bad = false ∧ w = v) ∨
              (d.segment = true ∧ v.readShape sa = .ok (w, shape) ∧ bad = shape.isNone)) → w.cur.leased = true →
            let q := w.gReg gq
            let kk := w.gReg gk
            let vv := w.gReg gv
            let rows := if bad then 0 else match shape with | some r => r.ntok | none => d.nq
            let fold := if d.d ≤ 128 then 8 else if d.d ≤ 256 then 4 else if d.d ≤ 512 then 2 else 1
            let passes := ceilDiv d.nk (1024 * fold)
            let bank := w.cur.bankOf .v false
            let now := w.cur.bankShape bank
            let kv := ((List.range passes).map fun j => passRanges kk vv d j).flatten
            let rs := stripRanges q 0 rows ++ kv.map (·.1)
            let cs : List (Bool × Nat) := [
              (!(bfpOk q 16 && bfpOk kk 8 && bfpOk vv 8), 1),
              (decide (gBl q ≠ gBl kk ∨ gBl vv ≠ 32), 2), (decide (gKext q ≠ d.d ∨ gKext kk ≠ d.d), 3),
              (decide (gNext q < rows ∨ gNext kk ≠ d.nk ∨ gKext vv ≠ d.nk ∨ gNext vv ≠ d.d), 4),
              (decide (1024 < rows ∨ 32768 < rows * d.d) || (match now.mode with | .list _ => true | _ => false) ||
                (!d.init && !bad && !now.agrees ⟨.sum, rows, d.d⟩), 5),
              (!w.bPlaced w.selfAgent w.core kv || !w.aPlaced w.selfAgent w.core (stripRanges q 0 rows), 6)]
            let short := if gShort q then some gq else if gShort kk then some gk else if gShort vv then some gv else none
            (∀ pre c post, cs = pre ++ c :: post → (∀ e ∈ pre, e.1 = false) → c.1 = true →
              exec i s = .next (s.trapHere .illegal (BitVec.ofNat 64 c.2))) ∧
            ((∀ e ∈ cs, e.1 = false) →
              (∀ g, short = some g → exec i s = .next (s.trapHere .scaleShort (BitVec.ofNat 64 g.toNat))) ∧
              (∀ r x c y, short = none → w.rangesFault w.selfAgent rs = some (r, x) → stopOf r x.1 x.2 = .trap c y →
                exec i s = .next ((s.countTrap c y).trapHere c y)) ∧
              (short = none → w.rangesFault w.selfAgent rs = none →
                (w.alive w.cmdGroup = false → exec i s = .next (s.retired f (w.cancelNow f 0x25 0 k))) ∧
                (w.alive w.cmdGroup = true → bad = true →
                  exec i s = .next (s.retired f ((w.setCur { w.cur with mBadShape := true }).addOp f 0x25 0 k none none .null true))) ∧
                (w.alive w.cmdGroup = true → bad = false → (w.getCluster (coreCluster w.core)).active w.core = true →
                  w.tableUsed (coreCluster w.core) + min 32 passes ≤ 32 → ∀ u, w.acceptCmd acq = .ok u →
                    exec i s = .next (s.retired f (u.enterTable f 0x25 0 k acq (.mattn q kk vv d shape fe bank rows))))))))) ∧
    (∀ (arr : Arr) (alt : Bool) (mode : DrainMode) (xa : XReg),
      let shape (b : State) : BankShape := b.cur.bankShape (b.cur.bankOf arr alt)
      let known (b : State) : Prop := ¬ ((shape b).mode = .sum ∧ (shape b).rows = 0)
      let width (b : State) : Nat := match (shape b).mode with | .list n => n | _ => 0
      let holds (b : State) (n : Nat) : Prop :=
        (mode = .sums ∧ (shape b).mode = .sum ∧ n = (shape b).rows * (shape b).cols) ∨
        ((mode = .rowMax ∨ mode = .rowSum) ∧ (shape b).mode = .sum ∧ n = (shape b).rows) ∨
        (mode = .list ∧ (∃ m, (shape b).mode = .list m) ∧ n = (shape b).cols)
      (∀ (t : BitVec 5) (row nr : BitVec 4),
        let f := { matrixForm h 0x26 0 [xa] [] with
          seqs := [.exec], tiles := [t.toNat], rw := rowsOf t.toNat row.toNat (nr.toNat + 1) }
        let b := s.begin f
        let n := nr.toNat + 1
        let per := listRows (width b)
        let count := if mode = .list then n / per else 64 * n
        let i : Instr := .mdrainTile h arr alt mode t row nr xa acq k
        s.Issues f →
          (¬ known b → exec i s = .next s) ∧
          (known b → (∀ m, ¬ holds b m) → exec i s = .next (s.trapHere .illegal 5)) ∧
          (∀ m, known b → holds b m → (m < (s.getX xa).toNat + count ∨ (mode = .list ∧ n % per ≠ 0)) →
            exec i s = .next (s.trapHere .illegal 5)) ∧
          (∀ m u, known b → holds b m → (s.getX xa).toNat + count ≤ m → (mode = .list → n % per = 0) →
            b.alive b.cmdGroup = true → b.acceptCmd acq = .ok u →
            exec i s = .next (s.retired f (u.addOp f 0x26 0 k acq none
              (.mdrainTile arr (b.cur.bankOf arr alt) mode t.toNat row.toNat nr.toNat (s.getX xa).toNat (width b)) false)))) ∧
      (∀ (cnt : Option XReg) (ab : AReg) (xc : XReg) (rel : OScope),
        let f := { matrixForm h 0x26 0 ([xa, xc] ++ cnt.toList) [] with seqs := [.store] }
        let b := s.begin f
        let n := (s.getX xc).toNat
        let bytes := n * (if mode = .list then 8 * width b else 4)
        let i : Instr := .mdrainMemory h arr alt mode cnt xa ab xc acq rel k
        s.Issues f →
          (¬ known b → exec i s = .next s) ∧
          (known b → (∀ m, ¬ holds b m) → exec i s = .next (s.trapHere .illegal 5)) ∧
          (∀ m, known b → holds b m → m < (s.getX xa).toNat + n → exec i s = .next (s.trapHere .illegal 5)) ∧
          (∀ m u x, known b → holds b m → (s.getX xa).toNat + n ≤ m →
            b.check (some s.core) b.asid b.sq.sup .write false 16 (s.getA ab) = .ok x →
            (∀ q ∈ parts (s.getA ab).toNat bytes, ∃ y, b.check (some s.core) b.asid b.sq.sup .write false 1 (BitVec.ofNat 64 q.1) = .ok y) →
            b.cntFillStop (cnt.map s.getX) none = none → b.alive b.cmdGroup = true → b.acceptCmd acq = .ok u →
            exec i s = .next (s.retired f (u.addOp f 0x26 0 k acq rel
              (.mdrainMem arr (b.cur.bankOf arr alt) mode (s.getA ab) (s.getX xa).toNat n (width b) (cnt.map s.getX)) false))))))

/-- The sampler, the beam engine and the KV unit as they take commands (R332, R333): a list that is not at a multiple of
64 is MISALIGN, more than 65,535 requests are ILLEGAL, none completes at once; an append or a drop whose sequence is not
of this module is ILLEGAL, one whose source is not aligned MISALIGN; the pair of kvmap may not begin at x15, and kvmap is
PAGE where the home has to be asked and cannot be reached, with the module's number in TRAPVAL by the model's reading (log
entry 19). -/
def Obligations.EnginesAccept : Prop :=
  ∀ (s : State) (h : Hdr) (xa xb : XReg) (acq rel : OScope) (k : Ctr), s.ctrRoom k = true →
    let l := s.getX xa
    let n := (s.getX xb).toNat
    let engine (sub : Nat) (i : Instr) (kind : Word64 → Nat → OpKind) (enqueue : Die → EngRef → Die) : Prop :=
      let f := cmdForm h 0x27 sub [xa, xb] []
      let b := s.begin f
      s.Issues f →
        (l.toNat % 64 ≠ 0 → exec i s = .next (s.trapHere .misalign l)) ∧
        (l.toNat % 64 = 0 → 2 ^ 16 ≤ n → exec i s = .next (s.trapHere .illegal 0)) ∧
        (l.toNat % 64 = 0 → n < 2 ^ 16 → b.alive b.cmdGroup = true → ∀ t, b.acceptCmd acq = .ok t →
          (n = 0 → exec i s = .next (s.retired f (t.addOp f 0x27 sub k acq rel (kind l 0) true))) ∧
          (n ≠ 0 →
            let u := t.addOp f 0x27 sub k acq rel (kind l n) false
            exec i s = .next (s.retired f (u.setDie u.die (enqueue (u.getDie u.die) (.op u.core t.cur.nextOp))))))
    let kv (f : Form) (sub : Nat) (i : Instr) (kind : State → OpKind) : Prop :=
      (s.begin f).alive (s.begin f).cmdGroup = true → ∀ u, (s.begin f).acceptCmd acq = .ok u →
        exec i s = .next (s.retired f (u.addOp f 0x28 sub k acq rel (kind u) false))
    let sid (r : XReg) : Word32 := (s.getX r).setWidth 32
    let home (r : XReg) : Prop := sidHome (sid r).toNat = s.modId.toNat % 1024
    engine 0 (.sample h xa xb acq rel k) .sample (fun d r => { d with sampler := d.sampler ++ [r] }) ∧
    engine 1 (.beamsel h xa xb acq rel k) .beam (fun d r => { d with beam := d.beam ++ [r] }) ∧
    (∀ (xc : XReg) (ab : AReg),
      let f := cmdForm h 0x28 0 [xc, xa] []
      s.Issues f →
        (¬ home xa → exec (.kvapp h xc xa ab acq rel k) s = .next (s.trapHere .illegal 0)) ∧
        (home xa → (s.getA ab).toNat % 16 ≠ 0 → exec (.kvapp h xc xa ab acq rel k) s = .next (s.trapHere .misalign (s.getA ab))) ∧
        (home xa → (s.getA ab).toNat % 16 = 0 → kv f 0 (.kvapp h xc xa ab acq rel k) fun _ => .kvapp xc (sid xa) (s.getA ab))) ∧
    (∀ (xc : XReg) (ab : AReg),
      let f := cmdForm h 0x28 1 [xc] []
      s.Issues f →
        ((s.getA ab).toNat % 64 ≠ 0 → exec (.kvappNew h xc ab acq rel k) s = .next (s.trapHere .misalign (s.getA ab))) ∧
        ((s.getA ab).toNat % 64 = 0 → kv f 1 (.kvappNew h xc ab acq rel k) fun _ => .kvnew xc (s.getA ab))) ∧
    (let f := cmdForm h 0x28 2 [xa] []
     s.Issues f →
      (¬ home xa → exec (.kvappDrop h xa acq rel k) s = .next (s.trapHere .illegal 0)) ∧
      (home xa → kv f 2 (.kvappDrop h xa acq rel k) fun _ => .kvdrop (sid xa))) ∧
    (∀ (xc : XReg) (p : PReg),
      let f := cmdForm h 0x28 3 [xc, xPlus xc 1, xa, xb] [p]
      s.Issues f →
        (xc = 15 → exec (.kvmap h xc xa xb p acq rel k) s = .next (s.trapHere .illegal 0)) ∧
        (xc ≠ 15 → (s.begin f).kvUnreached (sid xa) (n % 2 ^ 32) = true →
          exec (.kvmap h xc xa xb p acq rel k) s = .next (s.trapHere .page (pageVal 1 (s.getX xa)))) ∧
        (xc ≠ 15 → (s.begin f).kvUnreached (sid xa) (n % 2 ^ 32) = false →
          kv f 3 (.kvmap h xc xa xb p acq rel k) fun _ => .kvmap xc p (sid xa) (n % 2 ^ 32)))

/-- Tasks (R70, R73 to R79, R335 to R337): tspawn and tcont put the record of x(A) to x(A + 3) into a free slot of the
die, for tcont with its count and waiting, and give its handle, or 0xFFFFFFFF with a false flag where no slot is free; a
NaN priority, a die above 3 and a count outside 1 to 65,535 stop them. tpop ends the task it had, takes the best of its
class and gives its words, summary and handle, or a false flag; trepri changes the priority of a queued or waiting task.
Which free slot is taken is a free choice (log entry 12). -/
def Obligations.TasksSpawnPopReprioritise : Prop :=
  ∀ (s : State) (h : Hdr) (xc xa xb : XReg) (p : PReg) (rel acq : OScope) (die : Option XReg),
    let all (b : Bool) : Pred := if b then BitVec.allOnes 256 else 0
    let spawns (f : Form) (i : Instr) (d : Nat) (task : Task) : Prop :=
      let b := s.begin f
      (priNan task.pri = true → exec i s = .next (s.trapHere .nanPriority (BitVec.ofNat 64 task.pri.toNat))) ∧
      (priNan task.pri = false → (nodeNull task.node = true ∨ b.nodeHere task.node = true) →
        (∀ o ∈ s.cur.ops, o.isProbe s.seq (trefKey task.node) = false) →
        ((b.freeSlot d = none ∨ b.kvRefOk task = false ∨ b.trefOk task.node = false) →
          exec i s = .next (s.retired f (((b.dropAsk (trefKey task.node)).setX xc 0xFFFF_FFFF).setP p (all false)))) ∧
        (∀ slot u, b.freeSlot d = some slot → b.kvRefOk task = true → b.trefOk task.node = true → b.acceptRel rel = .ok u →
          let w := (u.tref task.node true).insert d slot task
          exec i s = .next (s.retired f ((w.setX xc
            (BitVec.ofNat 64 (taskHandle d slot (w.getTask d slot).gen).toNat)).setP p (all true)))))
    (let f := cmdForm h 0x29 0 (xc :: regs4 xa ++ die.toList) [p]
     let d := match die with | some r => (s.getX r).toNat | none => coreDie s.core
     s.Issues f →
      (4 ≤ d → exec (.tspawn h xc xa p die rel) s = .next (s.trapHere .illegal 0)) ∧
      (d < 4 → spawns f (.tspawn h xc xa p die rel) d { (s.begin f).recordAt xa with state := .queued })) ∧
    (let f := cmdForm h 0x29 4 (xc :: xb :: regs4 xa) [p]
     let n := (s.getX xb).toNat
     s.Issues f →
      ((n = 0 ∨ 2 ^ 16 ≤ n) → exec (.tcont h xc xa xb p rel) s = .next (s.trapHere .illegal 0)) ∧
      (n ≠ 0 → n < 2 ^ 16 →
        spawns f (.tcont h xc xa xb p rel) (coreDie s.core) { (s.begin f).recordAt xa with state := .waiting, count := n })) ∧
    (let f := cmdForm h 0x29 1 (xa :: xPlus xc 4 :: regs4 xc) [p]
     let t := (s.begin f).closeTask.1
     let cls := (s.getX xa).toNat % 2 ^ 16
     s.Issues f → ∀ i, s.inst = some i →
      (i.flags.getLsbD 0 = false → exec (.tpop h xc xa p acq) s = .next (s.trapHere .illegal 0)) ∧
      (i.flags.getLsbD 0 = true →
        (∀ u, t.pop t.die cls = (u, none) → exec (.tpop h xc xa p acq) s = .next (s.retired f (u.setP p (all false)))) ∧
        (∀ u slot task, t.pop t.die cls = (u, some (slot, task)) →
          let hd := taskHandle u.die slot task.gen
          let v := (u.setTask u.die slot { task with state := .running u.core }).setCurTask (some hd)
          let w := v.setXs xc [BitVec.ofNat 64 (task.pri.toNat + 2 ^ 32 * task.node.toNat),
            BitVec.ofNat 64 (task.join.toNat + 2 ^ 32 * (task.group % 2 ^ 16) + 2 ^ 48 * task.wset.toNat),
            BitVec.ofNat 64 (task.deadline.toNat + 2 ^ 48 * task.kk.toNat), task.payload,
            BitVec.ofNat 64 (task.expired % 2 ^ 16 + 2 ^ 16 * (task.cancelled % 2 ^ 16) + 2 ^ 32 * hd.toNat)]
          exec (.tpop h xc xa p acq) s = .next (s.retired f ((w.acquireAt acq).setP p (all true)))))) ∧
    (let f := cmdForm h 0x29 2 [xa, xb] [p]
     let b := s.begin f
     let hd : Word32 := (s.getX xa).setWidth 32
     let pri : Word32 := (s.getX xb).setWidth 32
     let i : Instr := .trepri h xa xb p
     s.Issues f →
      (priNan pri = true → exec i s = .next (s.trapHere .nanPriority (BitVec.ofNat 64 pri.toNat))) ∧
      (priNan pri = false →
        (b.named hd = none → exec i s = .next (s.retired f (b.setP p (all false)))) ∧
        (∀ task, b.named hd = some task →
          (task.state = .queued →
            let u := (b.takeSeqno (handleDie hd)).1
            let n := (b.takeSeqno (handleDie hd)).2
            exec i s = .next (s.retired f
              ((u.setTask (handleDie hd) (handleSlot hd) { task with pri := pri, seqno := n }).setP p (all true)))) ∧
          (task.state = .waiting →
            exec i s = .next (s.retired f ((b.setTask (handleDie hd) (handleSlot hd) { task with pri := pri }).setP p (all true)))) ∧
          (task.state ≠ .queued → task.state ≠ .waiting →
            exec i s = .next (s.retired f (b.setP p (all false)))))))

/-- The ends of tasks and groups (R78, R81, R82, R102, R338 to R341): tdone ends the current task, or one of the launch's
rows, and says whether it completed; cpoint says whether the group is alive and ends the current task CANCELLED where it
is not; tcancel is taken in for a group of its module or another; gnew makes a plain child, a rope, or its next sibling,
and gives its number, or 0xFFFFFFFF; gnew.q describes a group. A number above 65,535 is ILLEGAL. Which free group is taken
is a free choice (log entry 12); the predicate of tcancel under a dead group is the model's reading (log entry 52). -/
def Obligations.TasksEndAndGroups : Prop :=
  ∀ (s : State) (h : Hdr) (xc xa xb : XReg) (p : PReg) (rel : OScope) (k : Ctr) (module : Option XReg),
    let all (b : Bool) : Pred := if b then BitVec.allOnes 256 else 0
    let big : Prop := 2 ^ 16 ≤ (s.getX xa).toNat
    let n := (s.getX xa).toNat
    (let f := cmdForm h 0x29 5 [] [p]
     s.Issues f → ∀ t, (s.begin f).acceptRel rel = .ok t →
      exec (.tdone h p none rel) s = .next (s.retired f (t.closeTask.1.setP p (all t.closeTask.2)))) ∧
    (let f := cmdForm h 0x29 5 [xa] [p]
     let hd : Word32 := (s.getX xa).setWidth 32
     let i : Instr := .tdone h p (some xa) rel
     s.Issues f → ∀ t, (s.begin f).acceptRel rel = .ok t →
      (∀ task j, t.named hd = some task → t.inst = some j → task.state = .row j.launch →
        let r := t.liveReport task.group
        exec i s = .next (s.retired f ((t.endTask (handleDie hd) (handleSlot hd) r).setP p (all (decide (r = .completed)))))) ∧
      ((∀ task j, t.named hd = some task → t.inst = some j → task.state ≠ .row j.launch) →
        exec i s = .next (s.retired f (t.setP p (all false))))) ∧
    (let f := cmdForm h 0x29 6 [] [p]
     let b := s.begin f
     s.Issues f →
      (b.alive b.cmdGroup = true → exec (.cpoint h p) s = .next (s.retired f (b.setP p (all true)))) ∧
      (b.alive b.cmdGroup = false →
        exec (.cpoint h p) s = .next (s.retired f (((b.endCurTask s.core).setCurTask none).setP p (all false))))) ∧
    (let f := cmdForm h 0x29 3 (xa :: module.toList) [p]
     let b := s.begin f
     let m := match module with | some r => (s.getX r).toNat | none => s.modId.toNat
     let i : Instr := .tcancel h xa p module k
     s.Issues f → s.ctrRoom k = true →
      ((big ∨ 2 ^ 12 ≤ m) → exec i s = .next (s.trapHere .illegal 0)) ∧
      (¬ big → m < 2 ^ 12 → b.reaches m = true →
        (n = 0 → exec i s = .next (s.retired f ((b.addOp f 0x29 3 k none none (.tcancel 0 m) true).setP p (all false)))) ∧
        (n ≠ 0 → b.alive b.cmdGroup = false →
          exec i s = .next (s.retired f ((b.addOp f 0x29 3 k none none (.tcancel n m) true).setP p (all true)))) ∧
        (n ≠ 0 → b.alive b.cmdGroup = true →
          let t := (b.addOp f 0x29 3 k none none (.tcancel n m) false).setP p (all true)
          exec i s = .next (s.retired f (if m = s.modId.toNat then t else t.emit (.remoteCancel m n s.core s.cur.nextOp)))))) ∧
    (let f := cmdForm h 0x29 7 [xc, xa] [p]
     let b := s.begin f
     let made (i : Instr) (r : Option (State × Nat)) : Prop :=
       (∀ u g, r = some (u, g) → exec i s = .next (s.retired f ((u.setX xc (BitVec.ofNat 64 g)).setP p (all true)))) ∧
       (r = none → exec i s = .next (s.retired f ((b.setX xc 0xFFFF_FFFF).setP p (all false))))
     s.Issues f →
      (big → exec (.gnewPlain h xc xa p) s = .next (s.trapHere .illegal 0) ∧
        exec (.gnewSib h xc xa p) s = .next (s.trapHere .illegal 0)) ∧
      (¬ big → made (.gnewPlain h xc xa p) (b.newGroup n .plain 0 none) ∧
        (∀ e r, b.getGroup n = some e → e.rope = some r → e.kind = .rope → r.made < r.size → r.decided = none →
          ∀ u g, b.newGroup n .sib r.made none = some (u, g) →
            made (.gnewSib h xc xa p) (some (u.setRope n { r with made := r.made + 1 }, g))) ∧
        ((∀ e r, b.getGroup n = some e → e.rope = some r → e.kind ≠ .rope ∨ r.made = r.size ∨ r.decided.isSome = true) →
          made (.gnewSib h xc xa p) none))) ∧
    (let f := cmdForm h 0x29 7 [xc, xa, xb] [p]
     s.Issues f →
      (big → exec (.gnewRope h xc xa p xb) s = .next (s.trapHere .illegal 0)) ∧
      (¬ big → (s.getX xb).toNat < 2 ^ 56 → (s.getX xb).toNat % 32 ≠ 0 →
        exec (.gnewRope h xc xa p xb) s = .next (s.trapHere .misalign (s.getX xb))) ∧
      (¬ big → (s.getX xb).toNat % 32 = 0 → ∀ t bs, (s.begin f).syncRead 1 (s.getX xb) 32 = .ok (t, bs) →
        (∀ r u g, ropeOf bs t.asid = some r → t.newGroup n .rope 0 (some r) = some (u, g) →
          exec (.gnewRope h xc xa p xb) s = .next (s.retired f ((u.setX xc (BitVec.ofNat 64 g)).setP p (all true)))) ∧
        ((ropeOf bs t.asid = none ∨ t.newGroup n .rope 0 (ropeOf bs t.asid) = none) →
          exec (.gnewRope h xc xa p xb) s = .next (s.retired f ((t.setX xc 0xFFFF_FFFF).setP p (all false)))))) ∧
    (let f := cmdForm h 0x29 7 [xc, xPlus xc 1, xa] [p]
     let b := s.begin f
     let put (u v : Nat) (found : Bool) : Host.Outcome State Fault Refusal :=
       .next (s.retired f (((b.setX xc (BitVec.ofNat 64 u)).setX (xPlus xc 1) (BitVec.ofNat 64 v)).setP p (all found)))
     s.Issues f →
      (big → exec (.gnewQ h xc xa p) s = .next (s.trapHere .illegal 0)) ∧
      (¬ big → s.getGroup n = none → exec (.gnewQ h xc xa p) s = put (2 ^ 24) 0 false) ∧
      (∀ e, ¬ big → s.getGroup n = some e →
        exec (.gnewQ h xc xa p) s = put
          (e.parent % 2 ^ 16 + 2 ^ 16 * (e.depth % 32) + (if e.alive then 2 ^ 21 else 0) +
            2 ^ 22 * (match e.kind with | .plain => 0 | .rope => 1 | .sib => 2) +
            (if e.kind = .sib then 2 ^ 32 * (e.sib % 2 ^ 16) else 0))
          (e.cancelled.toNat + 2 ^ 32 * e.expired.toNat) true))

/-- Cairns and the ballot (R91, R96, R97, R103, R342 to R346): nalloc gives N cairns of a die, or the null handle;
nalloc.free frees N whose TREF is 0; nrd reads a field and nwr writes it, the null handle and an unreachable module are
PAGE; nvloss and nbackup take in their walk, of at most 255 steps; nsel gives the child with the greatest score; ballot
posts the value, or an abstention, for the first sibling group above. Which free run is taken is a free choice (log entry
12); PAGE values, the check of a field's offset before issue, COUNT of a ballot that counts nothing and nwr at issue are
the model's readings (log entries 17, 19, 20, 22). Selection (R96, R97): each step of a score is one FP32 operation
rounded to nearest even; the child chosen is the lowest of those with the greatest score whose cancelled flag is clear and
whose score is a number; nobody is where there is none. A ballot's post and the end of a rope (R103 to R105): the state
word; a repeated post and one of a dead group change nothing but what is resolved; a first post resolves its sibling, and
its hash counts in its slot, in a new one of 16, or as other; the count that reaches the quorum decides the rope, cancels
and resolves the open siblings, and writes the block; a rope whose siblings have all resolved ends with the largest count
under PLURALITY, the earliest among equals, or NONE. A decision in the post's own step is the model's reading (log entry
20). -/
def Obligations.CairnsAndBallots : Prop :=
  (∀ (s : State) (h : Hdr) (xc xa xb xd : XReg) (p : PReg) (rel acq : OScope) (k : Ctr) (die : Option XReg) (off : BitVec 6)
    (dword : Bool),
    let all (b : Bool) : Pred := if b then BitVec.allOnes 256 else 0
    let hd : Word32 := (s.getX xa).setWidth 32
    let wide : Word64 := BitVec.ofNat 64 hd.toNat
    let null : Nat := s.modId.toNat % 1024 * 2 ^ 22 + 0x3F_FFFF
    let size := if dword then 8 else 4
    (let f := cmdForm h 0x2A 0 (xc :: xa :: die.toList) [p]
     let n := (s.getX xa).toNat
     let d := match die with | some r => (s.getX r).toNat | none => coreDie s.core
     s.Issues f →
      ((n = 0 ∨ 2 ^ 16 ≤ n ∨ 4 ≤ d) → exec (.nalloc h xc xa p die) s = .next (s.trapHere .illegal 0)) ∧
      (n ≠ 0 → n < 2 ^ 16 → d < 4 →
        (∀ u q, (s.begin f).allocNodes d n = some (u, q) →
          exec (.nalloc h xc xa p die) s = .next (s.retired f ((u.setX xc (BitVec.ofNat 64 q)).setP p (all true)))) ∧
        ((s.begin f).allocNodes d n = none → exec (.nalloc h xc xa p die) s =
          .next (s.retired f (((s.begin f).setX xc (BitVec.ofNat 64 null)).setP p (all false)))))) ∧
    (let f := cmdForm h 0x2A 0 [xa, xb] [p]
     let b := s.begin f
     let n := (s.getX xb).toNat
     let d := s.getDie (nodeDie hd)
     let r := nodeRec hd
     let free : Prop := r + n ≤ 2 ^ 20 ∧ ∀ i, i < n → (∃ run ∈ d.nodes, run.1 ≤ r + i ∧ r + i < run.1 + run.2) ∧
       leNat (s.physBytes (nodeBase (nodeDie hd) + 64 * (r + i) + 34) 2) = 0
     let i : Instr := .nallocFree h xa xb p
     s.Issues f →
      ((n = 0 ∨ 2 ^ 16 ≤ n ∨ s.nodeHere hd = false) → exec i s = .next (s.trapHere .illegal 0)) ∧
      (n ≠ 0 → n < 2 ^ 16 → s.nodeHere hd = true →
        (free → exec i s = .next (s.retired f ((b.setDie (nodeDie hd)
          { d with nodes := (d.nodes.map (cutRun r n)).flatten }).setP p (all true)))) ∧
        (¬ free → exec i s = .next (s.retired f (b.setP p (all false)))))) ∧
    (let f := nodeForm h 1 [xc, xa] off dword
     let b := s.begin f
     let i : Instr := .nrd h xc xa off dword acq
     (s.running = true → s.seq = .control → off.toNat % size ≠ 0 → exec i s = .next (s.trapHere .misalign (BitVec.ofNat 64 off.toNat))) ∧
     (s.Issues f →
      (nodeNull hd = true → exec i s = .next (s.trapHere .page (pageVal 0 wide))) ∧
      (nodeNull hd = false → s.nodeReachable hd = false → exec i s = .next (s.trapHere .page (pageVal 1 wide))) ∧
      (nodeNull hd = false → s.nodeHere hd = true → b.badRange (nodeAddr hd + off.toNat) size = false →
        exec i s = .next (s.retired f ((b.setX xc
          (BitVec.ofNat 64 (leNat (b.physBytes (nodeAddr hd + off.toNat) size)))).acquireAt acq))))) ∧
    (let f := nodeForm h 2 [xa, xb] off dword
     let b := s.begin f
     let i : Instr := .nwr h xa xb off dword rel k
     s.Issues f → s.ctrRoom k = true →
      (nodeNull hd = true → exec i s = .next (s.trapHere .page (pageVal 0 wide))) ∧
      (nodeNull hd = false → s.nodeReachable hd = false → exec i s = .next (s.trapHere .page (pageVal 1 wide))) ∧
      (nodeNull hd = false → s.nodeReachable hd = true → b.alive b.cmdGroup = true → ∀ t, b.acceptRel rel = .ok t →
        let u := t.addOp f 0x2A 2 k none rel (.nwr hd off.toNat dword (s.getX xb)) false
        let bytes := leBytes size (s.getX xb).toNat
        (∀ v, u.nodeHere hd = true → u.storePhys (nodeAddr hd + off.toNat) bytes = some v →
          exec i s = .next (s.retired f (v.doneOp v.core t.cur.nextOp))) ∧
        (u.nodeHere hd = false → exec i s = .next (s.retired f
          (u.emit (.nodeWrite (u.blockModule (nodeModule hd)) u.core t.cur.nextOp hd off.toNat bytes)))))) ∧
    (let walks (sub : Nat) (xs : List XReg) (i : Instr) (backup neg : Bool) (steps : Nat) (v : State → Word64) : Prop :=
       let f := cmdForm h 0x2A sub xs []
       let b := s.begin f
       s.Issues f → s.ctrRoom k = true →
        (256 ≤ steps → exec i s = .next (s.trapHere .illegal 0)) ∧
        (steps < 256 → nodeNull hd = true → exec i s = .next (s.trapHere .page (pageVal 0 wide))) ∧
        (steps < 256 → nodeNull hd = false → b.alive b.cmdGroup = true → ∀ u, b.acceptCmd acq = .ok u →
          exec i s = .next (s.retired f (u.addOp f 0x2A sub k acq none
            (.walk backup neg hd (v u) (if steps = 0 then none else some steps) 0) false)))
     walks 3 [xa, xb] (.nvloss h xa xb acq k) false false (s.getX xb).toNat (fun _ => 0) ∧
     (∀ neg, walks 4 [xa, xb, xd] (.nbackup h neg xa xb xd acq k) true neg (s.getX xd).toNat (fun _ => s.getX xb))) ∧
    (let f := cmdForm h 0x2A 5 [xc, xa, xb, xPlus xb 1] [p]
     let b := s.begin f
     let u := b.setCur (b.cur.dropProbes b.seq)
     let i : Instr := .nsel h xc xa xb p
     let child : Word32 := BitVec.ofNat 32 (leNat (b.physBytes (nodeAddr hd + 24) 4))
     let n := leNat (b.physBytes (nodeAddr hd + 28) 2)
     let sum := leNat (b.physBytes (nodeAddr hd) 4) + leNat (b.physBytes (nodeAddr hd + 4) 4)
     let none_ : Host.Outcome State Fault Refusal :=
       .next (s.retired f ((u.setX xc (BitVec.ofNat 64 (null + 2 ^ 32 * 0xFFFF))).setP p (all false)))
     s.Issues f → nodeNull hd = false → s.nodeHere hd = true → b.badRange (nodeAddr hd) 64 = false →
      ((n = 0 ∨ nodeNull child = true) → exec i s = none_) ∧
      (n ≠ 0 → nodeNull child = false → b.nodeHere child = true →
        let r := b.selectHere child n sum ((s.getX xb).extractLsb' 0 32) ((s.getX xb).extractLsb' 32 32)
          ((s.getX (xPlus xb 1)).extractLsb' 0 32)
        (∀ j, r = .child j → exec i s = .next (s.retired f
          ((u.setX xc (BitVec.ofNat 64 ((child.toNat + j) % 2 ^ 32 + 2 ^ 32 * j))).setP p (all true)))) ∧
        (r = .nobody → exec i s = none_) ∧
        (r = .uncorr → exec i s = .next ((s.countBelow (nodeAddr child) (64 * n)).trapHere .uncorr (BitVec.ofNat 64 child.toNat))))) ∧
    (∀ abst : Bool,
      let f := cmdForm h 0x2B 0 (if abst then [xc] else [xc, xa]) []
      let b := s.begin f
      s.Issues f →
        (sibAbove b 16 b.cmdGroup = none → exec (.ballot h abst xc xa rel) s = .next (s.trapHere .illegal 0)) ∧
        (∀ g e i u, sibAbove b 16 b.cmdGroup = some (g, e) → s.inst = some i → b.acceptRel rel = .ok u →
          let r := u.post g e (if abst then none else some (u.getX xa)) (some (i.launch, 0x2B, i.inst, s.sq.pc))
          exec (.ballot h abst xc xa rel) s = .next (s.retired f (r.1.setX xc r.2))))) ∧
  (∀ (s : State) (child : Word32) (n sum : Nat) (c f l : Word32), s.badRange (nodeAddr child) (64 * n) = false →
    let num (w : Nat) : FVal := f32.dec w
    let rnd (v : FVal) : FVal := num (roundF32 v).1.toNat
    let field (i o k : Nat) : Nat := leNat (s.physBytes (nodeAddr child + 64 * i + o) k)
    let score (i : Nat) : FVal :=
      let n := field i 0 4 + field i 4 4
      let w : Int := (BitVec.ofNat 64 (field i 8 8)).toInt
      let q : FVal :=
        if n = 0 then num f.toNat
        else
          let a := rnd ((rnd (.fin (decide (w < 0)) w.natAbs (-32))).add
            (rnd ((num l.toNat).mul (rnd (.ofInt (field i 4 4)))).1).neg).1
          rnd (a.div (rnd (.ofInt n))).1
      let root := num (sqrt32 (roundF32 (.ofInt sum)).1).toNat
      let u := rnd ((rnd ((rnd ((num c.toNat).mul (num (field i 16 4))).1).mul root).1).div (rnd (.ofInt (1 + n)))).1
      rnd (q.add u).1
    let able (i : Nat) : Prop := i < n ∧ field i 31 1 / 4 % 2 = 0 ∧ (score i).isNan = false
    (∀ j, s.selectHere child n sum c f l = .child j ↔
      able j ∧ (∀ i, able i → (score j).lt (score i) = false) ∧ ∀ i, i < j → able i → (score i).lt (score j) = true) ∧
    (s.selectHere child n sum c f l = .nobody ↔ ∀ i, ¬ able i)) ∧
  (∀ (s : State) (sib g : Nat) (e p : Group) (r : Rope) (who : Option (Nat × Nat × Nat × PcWord)),
    s.getGroup g = some p → p.rope = some r →
    let closed (l : List Nat) : Prop := (r.resolved.Nodup → l.Nodup) ∧
      ∀ k, k ∈ l ↔ k ∈ r.resolved ∨ ∃ x ∈ s.sibs g, s.alive x.1 = false ∧ x.2 = k
    let bit (b : Bool) (n : Nat) : Nat := if b then 2 ^ n else 0
    let word (decided dup dead other : Bool) (count : Nat) (l : List Nat) : Word64 :=
      BitVec.ofNat 64 (bit decided 63 + bit dup 62 + bit dead 61 + bit other 60 + count % 2 ^ 16 * 2 ^ 32 +
        l.length % 2 ^ 16 * 2 ^ 16 + r.quorum % 2 ^ 16)
    (e.parent = g → ∃ l0 l1 : List Nat, closed l0 ∧ (r.resolved.Nodup → l1.Nodup) ∧ (∀ k, k ∈ l1 ↔ k ∈ l0 ∨ k = e.sib) ∧
      (∀ h : Option Word64, e.sib ∈ r.posted ∨ s.alive sib = false → s.post sib e h who = (s.setRope g { r with resolved := l0 },
        word r.decided.isSome (decide (e.sib ∈ r.posted)) (!s.alive sib) false 0 l0)) ∧
      (e.sib ∉ r.posted → s.alive sib = true →
        let r1 : Rope := { r with posted := r.posted ++ [e.sib], resolved := l1 }
        s.post sib e none who = ((s.setRope g { r1 with abst := r.abst + 1 }).ropeResolve g who,
          word r.decided.isSome false false false 0 l1) ∧
        ∀ (h : Word64) (slots : List HashSlot) (count : Nat) (other : Bool),
          ((∃ (pre : List HashSlot) (x : HashSlot) (post : List HashSlot), r.slots = pre ++ x :: post ∧ x.hash = h ∧ (∀ y ∈ pre ++ post, y.hash ≠ h) ∧
              slots = pre ++ { x with count := x.count + 1 } :: post ∧ count = x.count + 1 ∧ other = false) ∨
            ((∀ y ∈ r.slots, y.hash ≠ h) ∧ r.slots.length < 16 ∧ slots = r.slots ++ [⟨h, 1⟩] ∧ count = 1 ∧ other = false) ∨
            ((∀ y ∈ r.slots, y.hash ≠ h) ∧ 16 ≤ r.slots.length ∧ slots = r.slots ∧ count = 0 ∧ other = true)) →
          let r2 : Rope := { r1 with slots := slots, posts := r.posts + 1, others := r.others + (if other then 1 else 0) }
          (r.decided.isSome = true ∨ other = true ∨ count ≠ r.quorum →
            s.post sib e (some h) who = ((s.setRope g r2).ropeResolve g who, word r.decided.isSome false false other count l1)) ∧
          (r.decided = none → other = false → count = r.quorum → ∃ r3 : Rope,
            let losers := (s.sibs g).filter fun x => decide (x.2 ∉ l1) && s.alive x.1
            let t := (losers.foldl (fun t x => t.killGroup x.1) (s.setRope g r3)).retireKeys (losers.map (·.1))
            s.post sib e (some h) who = ((t.ropeWrite g r3).ropesResolve who, word true false false false count r3.resolved) ∧
            r3.decided = some h ∧ r3.win = h ∧ r3.wincnt = count ∧ r3.status = 1 ∧ r3.dtime = s.time ∧ r3.slots = slots ∧
            r3.posts = r.posts + 1 ∧ r3.canc = losers.length ∧
            ∀ k, k ∈ r3.resolved ↔ k ∈ l1 ∨ ∃ x ∈ losers, x.2 = k))) ∧
    (r.decided = none → r.ended = false → (r.made = r.size ∨ s.alive g = false) → ∃ (l : List Nat) (r4 : Rope), closed l ∧
      (l.length < r.made → s.ropeResolve g who = s.setRope g { r with resolved := l }) ∧
      (r.made ≤ l.length → s.ropeResolve g who = (s.setRope g r4).ropeWrite g r4 ∧ r4.ended = true ∧ r4.dtime = s.time ∧
        r4.decided = none ∧ r4.resolved = l ∧
        ((r.plurality = false ∨ ∀ x ∈ r.slots, x.count = 0) → r4.win = 0 ∧ r4.wincnt = 0 ∧ r4.status = 4) ∧
        (∀ (pre : List HashSlot) (x : HashSlot) (post : List HashSlot), r.plurality = true → r.slots = pre ++ x :: post → 0 < x.count → (∀ y ∈ pre, y.count < x.count) →
          (∀ y ∈ post, y.count ≤ x.count) → r4.win = x.hash ∧ r4.wincnt = x.count ∧ r4.status = 2))))

/-- Collectives and the quadrille are taken in with their descriptor, 64 or 128 bytes at a multiple of 64, and the next
number of their set on the die, or as refused where the set is not valid or the descriptor breaks a rule (R158, R160,
R170, R347); disp counts the tokens of its expert, gives bucket, target and remainder, and goes on at the bucket's
schedule; disp.mb ends a micro-batch, and gives every shadow bias its step, at once or when another module has
acknowledged the bank (R165, R166, R348). The addresses and statuses of refused commands and disp.mb at issue are the
model's readings (log entries 8, 21, 22). -/
def Obligations.CollectivesAndDispatch : Prop :=
  ∀ (s : State) (h : Hdr) (xa xb xc : XReg) (acq rel : OScope) (k : Ctr) (p : PReg) (t : BitVec 3),
    (let taken (sub n : Nat) (i : Instr) (bad : List Byte → Bool) (kind : List Byte → Nat → Nat → OpKind) : Prop :=
       let f := cmdForm h 0x2C sub [xa] []
       let b := s.begin f
       let at_ := s.getX xa
       s.Issues f → s.ctrRoom k = true → b.alive b.cmdGroup = true → ∀ u, b.acceptCmd acq = .ok u →
        (at_.toNat < 2 ^ 56 → at_.toNat % 64 ≠ 0 → exec i s = .next (s.trapHere .misalign at_)) ∧
        (∀ via bs, u.checkParts .read 64 (lineCuts (n / 128 + 2) at_.toNat n) = .ok via → (u.touchVia via).accRead via = .ok bs →
          let v := (u.touchVia via).setCur ((u.touchVia via).cur.dropProbesIn u.seq at_.toNat n)
          let set := fld bs 4 2
          let add (w : State) (number m : Nat) : Host.Outcome State Fault Refusal :=
            .next (s.retired f (w.addOp f 0x2C sub k acq rel (kind bs number m) false))
          (v.collSet v.die set = none → exec i s = add v refusedSet 0) ∧
          (∀ cs, v.collSet v.die set = some cs →
            let m := Tbl.getD (v.getDie v.die).collCount set 0
            let w := v.setDie v.die { v.getDie v.die with collCount := Tbl.set (v.getDie v.die).collCount set (m + 1) }
            (bad bs = true → exec i s = add w refusedSet 0) ∧ (bad bs = false → exec i s = add w set m)))
     taken 0 64 (.collAr h xa acq rel k) (collBad 0) (fun bs n m => .coll (s.getX xa) bs n m none) ∧
     taken 1 64 (.collAg h xa acq rel k) (collBad 1) (fun bs n m => .coll (s.getX xa) bs n m none) ∧
     taken 2 64 (.collRs h xa acq rel k) (collBad 2) (fun bs n m => .coll (s.getX xa) bs n m none) ∧
     taken 3 64 (.collA2a h xa acq rel k) (collBad 3) (fun bs n m => .coll (s.getX xa) bs n m none) ∧
     taken 4 128 (.repart h xa acq rel k) repartBad (fun bs n m => .repart (s.getX xa) bs n m none)) ∧
    (let f := cmdForm h 0x2C 5 [xc, xPlus xc 1, xa, xb] [p]
     let b := s.begin f
     let tb := s.getTable (coreDie s.core) t.toNat
     let e := (s.getX xa).toNat
     let n := (s.getX xb).toNat
     let i : Instr := .disp h xc xa xb p t
     s.Issues f →
      ((tb.flags.getLsbD 0 = false ∨ tb.nexp ≤ e ∨ 2 ^ 32 ≤ n) → exec i s = .next (s.trapHere .illegal 0)) ∧
      (tb.flags.getLsbD 0 = true → e < tb.nexp → n < 2 ^ 32 →
        let target := b.failTarget (coreDie s.core) t.toNat e
        let counted := { tb with counts := Tbl.set tb.counts e (min (Tbl.getD tb.counts e 0 + n) (2 ^ 32 - 1)) }
        let out (bucket rest : Nat) (found : Bool) : State :=
          (((b.setTable (coreDie s.core) t.toNat counted).setX xc (BitVec.ofNat 64
            (bucket + (if target.2 then 8 else 0) + 2 ^ 16 * target.1 + 2 ^ 32 * tb.mb.toNat))).setX (xPlus xc 1)
              (BitVec.ofNat 64 rest)).setP p (if found then BitVec.allOnes 256 else 0)
        let goes (bucket rest : Nat) (found : Bool) : Prop :=
          let sched := tb.sched.getD bucket 0
          (sched = 0 → exec i s = .next (s.retired f (out bucket rest found))) ∧
          (sched ≠ 0 → exec i s = .next (s.retired f ((out bucket rest found).jump (sched.setWidth 54))))
        (∀ j, j < 8 → n ≤ tb.bound.getD j 0 → (∀ j', j' < j → tb.bound.getD j' 0 < n) → goes j 0 true) ∧
        ((∀ j, j < 8 → tb.bound.getD j 0 < n) → goes 7 (n - tb.bound.getD 7 0) false))) ∧
    (let f := cmdForm h 0x2C 6 [] []
     let b := s.begin f
     let tb := s.getTable (coreDie s.core) t.toNat
     let i : Instr := .dispMb h t k
     s.Issues f → s.ctrRoom k = true →
      (tb.flags.getLsbD 0 = false → exec i s = .next (s.trapHere .illegal 0)) ∧
      (tb.flags.getLsbD 0 = true → b.alive b.cmdGroup = true → ∀ u v o, b.acceptCmd none = .ok u →
        let shadow := (List.range tb.nexp).map fun e => (e, tb.bias e)
        let bank := tb.biasaddr.toNat + 4096 * ((tb.mb + 1).toNat % 2)
        let bytes := (shadow.map fun e => leBytes 4 e.2.toNat).flatten
        let x := (u.addOp f 0x2C 6 k none (some .sys) (.dispMb t.toNat) false).setTable u.die t.toNat
          { tb with shadow := shadow, counts := [] }
        u.vwriteWaits u.selfAgent (parts bank bytes.length) = none → x.cur.findOp u.cur.nextOp = some o →
        x.vwrite (x.opAgent x.core o) bank bytes = (v, none) →
        exec i s = .next (s.retired f (if v.acked v.core u.cur.nextOp then v.dispMbEnd v.core o t.toNat else v))))

/-- Graph parameters, replays, host rings and time (R141, R147 to R149, R349 to R351): gparm writes parameter n of the
slot that xB names, bound to the issuer's space, and gparm.replay starts its run, or counts it as pending, or as an error;
hring takes in up to 16 records and appends them as the ring has room; time reads the module's clock. The PERM values and
hring at issue are the model's readings (log entry 22). -/
def Obligations.GraphsRingsAndTime : Prop :=
  ∀ (s : State) (h : Hdr) (xa xb : XReg) (n : BitVec 5) (rel : OScope) (k : Ctr),
    (let slot := (s.getX xb).toNat
     let die := coreDie s.core
     let g := s.getSlot die slot
     let mine : Prop := g.gcfg.getLsbD 49 = true ∧ g.gcfg.toNat % 64 = s.asid
     let both (f : Form) (i : Instr) (go : State → State) : Prop := s.Issues f →
       (64 ≤ slot → exec i s = .next (s.trapHere .illegal 0)) ∧
       (slot < 64 → ¬ mine → exec i s = .next (s.trapHere .perm (s.getX xb))) ∧
       (slot < 64 → mine → ∀ u, (s.begin f).acceptRel rel = .ok u → exec i s = .next (s.retired f (go u)))
     both (cmdForm h 0x2D 0 [xa, xb] []) (.gparm h xa xb n rel) (fun u =>
       u.setSlot die slot { u.getSlot die slot with gp := Tbl.set (u.getSlot die slot).gp n.toNat (s.getX xa) }) ∧
     both (cmdForm h 0x2D 0 [xb] []) (.gparmReplay h xb rel) (fun u =>
       let g := u.getSlot die slot
       if g.gcfg.getLsbD 49 = false ∨ (u.getSpace (g.gcfg.toNat % 64)).en = false ∨ g.gnodes = 0 then
         u.setSlot die slot { g with errs := min (g.errs + 1) 255 }
       else if g.phase = .idle then u.setSlot die slot
         { g with iter := 0, phase := .ready 0, evt := 0, stopfail := false, nowait := [], failing := false }
       else u.setSlot die slot { g with pending := min (g.pending + 1) 255 })) ∧
    (∀ flush drop : Bool,
      let f := cmdForm h 0x2D 1 [xa, xb] []
      let b := s.begin f
      let v := (s.getX xb).toNat
      let ring := v % 64
      let m := v / 2 ^ 16
      let src := s.getX xa
      let r := s.getHring (coreDie s.core) ring
      let i : Instr := .hring h flush drop xa xb rel k
      let shaped : Prop := 1 ≤ m ∧ m ≤ 16 ∧ v / 64 % 2 ^ 10 = 0
      let owned : Prop := r.hrcfg.getLsbD 5 = true ∧ r.hrcfg.toNat / 64 % 64 = s.asid
      s.Issues f → s.ctrRoom k = true →
        (¬ shaped → exec i s = .next (s.trapHere .illegal 0)) ∧
        (shaped → src.toNat % 32 ≠ 0 → exec i s = .next (s.trapHere .misalign src)) ∧
        (shaped → src.toNat % 32 = 0 → ¬ owned → exec i s = .next (s.trapHere .perm src)) ∧
        (shaped → src.toNat % 32 = 0 → owned → b.alive b.cmdGroup = true → ∀ u o, b.acceptCmd none = .ok u →
          let w := u.addOp f 0x2D 1 k none rel (.hring ring src m flush drop) false
          w.cur.findOp u.cur.nextOp = some o → exec i s = .next (s.retired f (w.hringOp s.core o)))) ∧
    (let f := cmdForm h 0x2D 2 [xa] []
     s.Issues f → exec (.time h xa) s = .next (s.retired f ((s.begin f).setX xa s.time)))

/-- A core's loads and stores perform (R50, R53, R57, R69, R267 to R270): once nothing ordered before it is outstanding, a
load's bytes go, extended, to its register, and a store's reach its place; on an uncached device page the store changes
the bytes of its width at its address and no other byte of memory, and no register; a sleeper it wakes aside, no other
core. A read of an uncorrectable unit writes no register, is counted, and leaves UNCORR for its sequencer's next boundary.
A line that no key has stamped, a sleep that a write ends and the moment of the count are the model's (log entries 7, 48,
63). Tile-row loads and stores perform (R47, R225, R269 to R271): an ldt puts the bytes that its pieces bring into its
rows where the guard bit of the byte is set, and leaves every other byte and register; it ends with its last page; a stt
writes the guarded bytes of its rows at their addresses, and no other byte. Which pieces of a page go together is a free
choice (log entry 3). -/
def Obligations.LoadsAndStoresPerform : Prop :=
  (∀ (s : State) (core op : Nat) (o : Op) (va : Nat) (addr : Word64) (x : Xl),
    let c := s.getCore core
    let asid := s.asidOf core
    s.openOp core op = some o → o.answer = none → c.mayPerform o = true → placeRemote x = false →
    (∀ (d : XReg) (sz : LdSize),
      let n := match sz with | .b | .bu => 1 | .h | .hu => 2 | .w | .wu => 4 | .d => 8
      let value (bs : List Byte) : Word64 := match sz with
        | .b | .h | .w => BitVec.ofInt 64 (Int.bmod (leNat bs) (2 ^ (8 * n)))
        | _ => BitVec.ofNat 64 (leNat bs)
      o.kind = .load d addr sz none → o.via = [(va, n, x)] →
        (∀ t bs, s.readSeq core o.seq asid x n = .ok t bs → bs.length = n →
          exec (.loadReturn core op) s =
            .next (((t.addCells core op va bs).putX core o.seq d (value bs)).doneOp core op)) ∧
        (s.readSeq core o.seq asid x n = .uncorr → (c.seqr o.seq).ended = false → (c.seqr o.seq).uncorr = none →
          (c.seqr o.seq).partTrap = none →
          let told := { c.seqr o.seq with uncorr := some ⟨addr, o.pc, 0, true, .uncorr⟩ }
          let u := s.countSeen (some core) asid addr.toNat
          exec (.loadReturn core op) s = .next ((u.setCore core ((u.getCore core).setSeqr o.seq told)).doneOp core op))) ∧
    (∀ (w : Nat) (v : Word64), o.kind = .store addr w v → o.via = [(va, w, x)] → o.asked = [] → o.out = 0 →
      (w = 1 ∨ w = 2 ∨ w = 4 ∨ w = 8) → va % w = 0 →
        (∀ t, s.writeSeq core asid o.sup x ((List.range w).map fun i => byteAt v i) = some t →
          exec (.storePerform core op) s = .next ((t.setCore core ((t.getCore core).updOp op fun p =>
            { p with asked := p.asked ++ [(va, w)] })).doneOp core op)) ∧
        (∀ pa k, x = ⟨.dev pa, k, false, none⟩ → pa % w = 0 → s.partialBad pa w = false → pa + w ≤ farBase →
          Tbl.get? s.stamps (pa / 128) = none → s.MemoryWf →
          ∃ t, exec (.storePerform core op) s = .next t ∧
            (∀ a, Mem.read t.mem a = if pa ≤ a ∧ a < pa + w then byteAt v (a - pa) else Mem.read s.mem a) ∧ t.host = s.host ∧
            (∀ m q, ((t.getCore m).seqr q).x = ((s.getCore m).seqr q).x ∧ ((t.getCore m).seqr q).a = ((s.getCore m).seqr q).a ∧
              ((t.getCore m).seqr q).p = ((s.getCore m).seqr q).p ∧ ((t.getCore m).seqr q).pc = ((s.getCore m).seqr q).pc) ∧
            (t.getCore core).tiles = c.tiles ∧ (t.getCore core).pins = c.pins ∧
            (s.waiters = [] → ∀ m, m ≠ core → t.getCore m = s.getCore m)))) ∧
  (∀ (s : State) (core op : Nat) (o : Op) (t row nr : Nat) (base : Word64) (guard : Pred) (skip : Pred),
    let c := s.getCore core
    s.openOp core op = some o → c.mayPerform o = true →
    let byte (d : Core) (j : Nat) : Byte := byteAt (d.row t (row + j / 256)) (j % 256)
    let others (d : Core) : Prop := (∀ r, (r < 16 * t + row ∨ 16 * t + row + nr < r) → Tbl.getD d.tiles r 0 = Tbl.getD c.tiles r 0) ∧
      d.seqC = c.seqC ∧ d.seqL = c.seqL ∧ d.seqX = c.seqX ∧ d.seqS = c.seqS ∧ d.lr = c.lr ∧ d.o = c.o ∧ d.pins = c.pins ∧ d.lm = c.lm
    (∀ rows : List Row, o.kind = .ldt t row nr base guard (some rows) skip → rows.length = nr + 1 → nr < 16 →
      ∃ d, exec (.loadReturn core op) s = .next ((s.setCore core d).doneOp core op) ∧ others d ∧
        ∀ j, j < 256 * (nr + 1) → byte d j =
          if guard.getLsbD (j % 256) ∧ skip.getLsbD (j / 16) = false then byteAt (rows.getD (j / 256) 0) (j % 256) else byte c j) ∧
    (∀ (got : Nat × Nat × Xl → List Byte), o.kind = .ldt t row nr base guard none skip → nr < 16 → o.via ≠ [] →
      (∀ v ∈ o.via, v.2.1 = 8 ∧ base.toNat ≤ v.1 ∧ (v.1 - base.toNat) % 8 = 0 ∧ v.1 - base.toNat < 256 * (nr + 1)) →
      (o.via.map (·.1)).Nodup → (∀ v ∈ firstPart o.via, o.answered v.1 8 = some (got v)) →
      ∃ d, others d ∧
        (∀ j, j < 256 * (nr + 1) →
          (∀ v ∈ firstPart o.via, v.1 ≤ base.toNat + j → base.toNat + j < v.1 + 8 → byte d j =
            if guard.getLsbD (j % 256) then (got v).getD (base.toNat + j - v.1) (byte c j) else byte c j) ∧
          ((∀ v ∈ firstPart o.via, base.toNat + j < v.1 ∨ v.1 + 8 ≤ base.toNat + j) → byte d j = byte c j)) ∧
        (firstPart o.via = o.via → s.loadLanded core op = (s.setCore core d).doneOp core op) ∧
        (firstPart o.via ≠ o.via → s.loadLanded core op = (s.setCore core d).putOpAt core { o with
          via := o.via.drop (firstPart o.via).length, answer := none, asked := [],
          kind := .ldt t row nr base guard none (skip ||| maskOf base.toNat (firstPart o.via)) })) ∧
    (∀ sel u, o.kind = .ldt t row nr base guard none skip → o.via ≠ [] → answerWhy o.answer = none → (∀ v ∈ o.via, isFar v = false) →
      sel = s.somePieces (2 ^ 95) ((firstPart o.via).filter fun v => !o.has v) → s.readPieces core o sel = (u, none) →
      exec (.loadReturn core op) s = .next (u.loadLanded core op)) ∧
    (∀ (va pa k : Nat), o.kind = .stt t row nr base guard skip → o.via = [(va, 8, ⟨.dev pa, k, false, none⟩)] → o.asked = [] → o.answer = none →
      o.out = 0 → va % 8 = 0 → pa % 8 = 0 → base.toNat ≤ va → (va - base.toNat) % 8 = 0 → va - base.toNat < 256 * (nr + 1) →
      s.bad = [] → c.bad = [] → pa + 8 ≤ farBase → Tbl.get? s.stamps (pa / 128) = none → s.MemoryWf →
      ∃ w, exec (.storePerform core op) s = .next w ∧ w.host = s.host ∧ (w.getCore core).tiles = c.tiles ∧
        (∀ i, i < 8 → Mem.read w.mem (pa + i) =
          if guard.getLsbD ((va - base.toNat + i) % 256) then byte c (va - base.toNat + i) else Mem.read s.mem (pa + i)) ∧
        ∀ a, (a < pa ∨ pa + 8 ≤ a) → Mem.read w.mem a = Mem.read s.mem a))

/-- A core's atomics perform (R65, R228, R283 to R285, R288): an atomic on a word of an uncached page gives its register
the old word, sign-extended, and stores the operation's result there, nothing for a cas that does not match; memory
elsewhere, the other registers and, a sleeper it wakes aside, the other cores stay. bexp adds its operand and gives the
sum. A vector atomic's next element performs so, its old word in the element, its bit in the mask. -/
def Obligations.AtomicsPerform : Prop :=
  ∀ (s : State) (core op : Nat) (o : Op) (b cmp : Word64) (d : XReg) (x : Xl),
    let c := s.getCore core
    let asid := s.asidOf core
    s.openOp core op = some o → o.prog = 0 → o.rel = none → o.acq = none → o.answer = none → c.mayPerform o = true →
    placeRemote x = false →
    (∀ (a : AmoOp) (dword : Bool) (addr : Word64) (va n pa k : Nat) (rest : List (Nat × Nat × Xl)),
      o.kind = .amo a dword d addr b cmp → o.via = (va, n, x) :: rest →
        let w := if dword then 8 else 4
        let m := 2 ^ (8 * w)
        let old := leNat (s.physBytes pa w)
        let signed (v : Nat) : Int := Int.bmod v m
        let result : Nat := match a with
          | .add => (old + b.toNat) % m
          | .min => if signed old < signed b.toNat then old else b.toNat % m
          | .max => if signed old < signed b.toNat then b.toNat % m else old
          | .band => old &&& b.toNat % m
          | .bor => old ||| b.toNat % m
          | .bxor => old ^^^ b.toNat % m
          | .xchg => b.toNat % m
          | .cas => if old = cmp.toNat % m then b.toNat % m else old
        x = ⟨.dev pa, k, false, none⟩ → Tbl.get? c.lm (pa / 128) = none → s.badRange pa w = false → pa % w = 0 →
        pa + w ≤ farBase → Tbl.get? s.stamps (pa / 128) = none → s.MemoryWf →
          ∃ t, exec (.atomicPerform core op) s = .next t ∧
            ((t.getCore core).seqr o.seq).x = ((c.seqr o.seq).setX d (BitVec.ofInt 64 (signed old))).x ∧
            (∀ j q, j ≠ core ∨ q ≠ o.seq → ((t.getCore j).seqr q).x = ((s.getCore j).seqr q).x) ∧
            (∀ j q, ((t.getCore j).seqr q).a = ((s.getCore j).seqr q).a ∧ ((t.getCore j).seqr q).p = ((s.getCore j).seqr q).p) ∧
            (s.waiters = [] → ∀ j, j ≠ core → t.getCore j = s.getCore j) ∧
            (∀ y, pa ≤ y → y < pa + w → a ≠ .cas ∨ old = cmp.toNat % m → Mem.read t.mem y = BitVec.ofNat 8 (result / 256 ^ (y - pa))) ∧
            (∀ y, (y < pa ∨ pa + w ≤ y ∨ (a = .cas ∧ old ≠ cmp.toNat % m)) → Mem.read t.mem y = Mem.read s.mem y) ∧ t.host = s.host) ∧
    (∀ (addr n : Word64) (va len : Nat) (rest : List (Nat × Nat × Xl)) t old, o.kind = .bexp d addr n → o.via = (va, len, x) :: rest →
      s.amoAt core asid x .add true n 0 = some (t, old) →
        exec (.atomicPerform core op) s = .next ((t.putX core o.seq d (old + n)).doneOp core op)) ∧
    (∀ (a : AmoOp) (dword : Bool) (tv rv ti ri e : Nat) (addr : Word64) more mask u old,
      o.kind = .vamo a dword tv rv ti ri ((e, addr, x, b, cmp) :: more) mask → more ≠ [] →
      s.amoAt core asid x a dword b cmp = some (u, old) →
        let w := if dword then 8 else 4
        let v := u.setCore core ((u.getCore core).putElem tv rv w e old)
        exec (.atomicPerform core op) s = .next (v.setCore core ((v.getCore core).updOp o.id fun _ =>
          { o with prog := 1, kind := .vamo a dword tv rv ti ri more (setBit mask e true) })))

/-- Fences, transfers and drains complete (R227, R264, R272 to R276, R316, R330): a fence once the accesses it covers that
came before it have performed and its release is over, with the acquire of its cover; a copy of disjoint ranges writes the
bytes read, at once or in pieces of which the last ends it, an aligned part of the source read once; gath and scat move
their elements, each as their index list gives it; a command with COUNT adds its bytes to the record's word as it ends,
and one with FILL releases its slot; pref and invr go over the lines of their range and wait for what other modules still
have of them; a drain copies the units of its bank into its tile's rows, or into memory. Whether a copy goes at once or in
pieces, and the free prefixes and orders, are the model's readings (log entry 26). -/
def Obligations.CommandsComplete : Prop :=
  ∀ (s : State) (core op : Nat) (o : Op),
    let c := s.getCore core
    let g := s.opAgent core o
    c.findOp op = some o → o.done = false →
    (∀ sc cv, o.kind = .fence sc cv →
      let covered (k : OpKind) : Bool := match k with
        | .load .. | .ldt .. => cv != .st
        | .store .. | .stt .. => cv != .acq
        | .amo .. | .vamo .. | .bexp .. => true
        | _ => false
      let early := (opsBefore c.ops op).any fun x => x.seq = o.seq && !x.done && covered x.kind
      let r := s.release core sc
      (early = true → exec (.fenceComplete core op) s = .next s) ∧
      (early = false → cv ≠ .acq → r.released core sc = false → exec (.fenceComplete core op) s = .next r) ∧
      (early = false → cv = .acq → exec (.fenceComplete core op) s = .next ((s.acquire core o.seq sc).doneOp core op)) ∧
      (early = false → cv = .all → r.released core sc = true →
        exec (.fenceComplete core op) s = .next ((r.acquire core o.seq sc).doneOp core op)) ∧
      (early = false → cv ≠ .acq → cv ≠ .all → r.released core sc = true →
        exec (.fenceComplete core op) s = .next (r.doneOp core op))) ∧
    (∀ dst src idx n bs t, o.kind = .xfer .copy dst src idx n none none none → o.prog = 0 → o.rel = none → o.answer = none →
      c.xferHeld o.kind = false → s.freeBool (2 ^ 97) = false →
      s.readPrefix g none (parts src.toNat n) [] = (bs, none) → bs.length = n →
      (src.toNat + n ≤ dst.toNat ∨ dst.toNat + n ≤ src.toNat) →
      s.writePrefix g (parts dst.toNat n) bs 0 = (t, n, none) →
        exec (.xferComplete core op) s = .next (t.doneOp core op)) ∧
    (∀ dst src idx n, o.kind = .xfer .copy dst src idx n none none none → o.prog = 0 → 0 < n →
      c.xferHeld o.kind = false → s.freeBool (2 ^ 97) = true →
      (src.toNat + n ≤ dst.toNat ∨ dst.toNat + n ≤ src.toNat) →
      let o' := { o with kind := .xfer .copy dst src idx n none none (some (moveCuts (n + 1) dst.toNat src.toNat n)) }
      exec (.xferComplete core op) s = .next (s.putOpAt core o')) ∧
    (∀ dst src idx n p bs t w, o.kind = .xfer .copy dst src idx n none none (some [p]) → o.prog = 0 → o.rel = none →
      o.answer = none → c.xferHeld o.kind = false → t.openOp core op = some w → w.rel = none → answerWhy w.answer = none →
      let ended : State := (t.setCore core ((t.getCore core).updOp op fun q =>
        { q with kind := .xfer .copy dst src idx n none none (some []) })).doneOp core op
      (p.1 % 8 = p.2.1 % 8 → s.vread g none p.2.1 p.2.2 = .ok bs → s.vwrite g p.1 bs = (t, none) →
        exec (.xferComplete core op) s = .next ended) ∧
      (p.1 % 8 ≠ p.2.1 % 8 → 0 < p.2.2 → p.2.1 % 8 + p.2.2 ≤ 8 → src.toNat ≤ p.2.1 → p.2.1 + p.2.2 ≤ src.toNat + n →
        let lo := max src.toNat (p.2.1 / 8 * 8)
        s.vread g none lo (min (src.toNat + n) (p.2.1 / 8 * 8 + 8) - lo) = .ok bs →
        bs.length = min (src.toNat + n) (p.2.1 / 8 * 8 + 8) - lo →
        (s.addCells core op lo bs).vwrite g p.1 ((bs.drop (p.2.1 - lo)).take p.2.2) = (t, none) →
          exec (.xferComplete core op) s = .next ended)) ∧
    (∀ dst src idx n cnt fill more, o.kind = .xfer .pref dst src idx n cnt fill more → c.xferHeld o.kind = false →
      let lines := linesOver dst.toNat n
      let t := lines.foldl (fun t va => t.prefLine core o va) s
      ((∀ va ∈ lines, t.prefWaits core op va = false) → exec (.xferComplete core op) s = .next (t.doneOp core op)) ∧
      ((∃ va ∈ lines, t.prefWaits core op va = true) → exec (.xferComplete core op) s = .next t)) ∧
    (∀ (scatters : Bool) (e : Nat) dst src idx n (ks : List Byte) (us : List State) (t : State),
      o.kind = .xfer (if scatters then .scat e else .gath e) dst src idx n none none none → o.prog = 0 → o.rel = none →
      o.answer = none → c.xferHeld o.kind = false → s.freeBool (2 ^ 97) = false →
      s.vread g none idx.toNat (4 * n) = .ok ks →
      let w := 2 ^ e
      let index (i : Nat) : Nat := leNat ((ks.drop (4 * i)).take 4)
      let from_ (i : Nat) : Nat := src.toNat + (if scatters then i else index i) * w
      let dest (i : Nat) : Nat := dst.toNat + (if scatters then index i else i) * w
      (∀ i, i < n → dest i % min w 16 = 0 ∧ from_ i % min w 16 = 0) →
      (∀ i j, i < n → j < n → (i ≠ j → dest i ≠ dest j) ∧ (dest i + w ≤ from_ j ∨ from_ j + w ≤ dest i)) →
      us.length = n + 1 → us[0]? = some s → us[n]? = some t →
      (∀ i, i < n → ∃ u v bs, us[i]? = some u ∧ us[i + 1]? = some v ∧ u.vread g none (from_ i) w = .ok bs ∧
        u.vwrite g (dest i) bs = (v, none)) →
      (∀ p, (t.getCore core).findOp op = some p → p.rel = none ∧ p.answer = none) →
        exec (.xferComplete core op) s = .next (t.doneOp core op)) ∧
    (∀ (kind : XferKind) dst src idx n (cnt : Option Word64) (fill : Option (Nat × BitVec 32)) more,
      (kind = .copy ∨ (∃ e, kind = .gath e) ∨ ∃ e, kind = .scat e) →
      o.kind = .xfer kind dst src idx n cnt fill more → o.prog ≠ 0 → o.out = 0 → o.asked = [] → o.answer = none →
      c.xferHeld o.kind = false →
        (cnt = none → exec (.xferComplete core op) s = .next ((s.releaseFill core fill).doneOp core op)) ∧
        (∀ r x u old, cnt = some r → s.agentXlat g .amo r.toNat = .ok x → placeRemote x = false →
          (s.touch g.asid r.toNat).amoPlace core g.asid x .add true (BitVec.ofNat 64 (n * kind.unit)) 0 = some (u, old) →
          exec (.xferComplete core op) s = .next ((u.releaseFill core fill).doneOp core op))) ∧
    (∀ (b : Nat) (k : BitVec 32) (r : Ring), Tbl.get? c.rings b = some r →
      ∃ q, s.releaseFill core (some (b, k)) = s.setCore core { c with rings := Tbl.set c.rings b q } ∧
        q.aq = r.aq ∧ q.cn = r.cn ∧ q.claims = r.claims.erase k ∧
        (r.released = [] → k = r.fl → q.fl = r.fl + 1 ∧ q.released = []) ∧
        (r.released = [] → k ≠ r.fl → q.fl = r.fl ∧ q.released = [k])) ∧
    (∀ dst src idx n cnt fill more, o.kind = .xfer .invr dst src idx n cnt fill more → c.xferHeld o.kind = false →
      let lines := linesOver dst.toNat n
      let t := lines.foldl (fun t va => t.invrLine core o va) s
      ((∀ va ∈ lines, t.invrGone core o va = true) → exec (.xferComplete core op) s = .next (t.doneOp core op)) ∧
      ((∃ va ∈ lines, t.invrGone core o va = false) → exec (.xferComplete core op) s = .next t)) ∧
    (∀ arr bank mode t row nr first k, o.kind = .mdrainTile arr bank mode t row nr first k → mode ≠ .list → c.inTurn o = true →
      let b := Tbl.getD c.banks bank Bank.start
      let unit (i : Nat) : List Byte := leBytes 4 (match mode with
        | .rowMax => (Tbl.getD b.maxs i 0xFF80_0000).toNat
        | .rowSum => (Tbl.getD b.sums i 0).toNat
        | _ => (Tbl.getD b.vals i 0).toNat)
      let rows : List Row := (List.range (nr + 1)).map fun r =>
        BitVec.ofNat 2048 (leNat ((List.range 64).map fun j => unit (first + 64 * r + j)).flatten)
      let d := { c.setRows t row rows with
        lr := c.lr, tstat := if b.status = 0 then c.tstat else Tbl.set c.tstat t (Tbl.getD c.tstat t 0 ||| b.status) }
      exec (.mdrainComplete core op) s = .next ((s.setCore core d).doneOp core op)) ∧
    (∀ arr bank mode dst first n k t, o.kind = .mdrainMem arr bank mode dst first n k none → c.inTurn o = true →
      o.prog = 0 → o.rel = none → o.answer = none →
      let b := Tbl.getD c.banks bank Bank.start
      s.vwrite g dst.toNat ((List.range n).map fun i => b.unit mode k (first + i)).flatten = (t, none) →
      (∀ w, (t.getCore core).findOp op = some w → w.rel = none ∧ w.answer = none) →
      let q := (t.getCore core).seqr o.seq
      exec (.mdrainComplete core op) s = .next ((t.setCore core (((t.getCore core).setSeqr o.seq
        { q with sticky := q.sticky ||| b.status.setWidth 5 }).updOp op fun x => { x with prog := 1 })).doneOp core op))

/-- Waits and causes of a sequencer (R233, R264, R269, R356, R358, R359): UNCORR, an engine record and a timer that fell
due are taken at the boundary of a sequencer that has not ended, the last two not within a trap; idle's sleep ends when
its time has passed; an armed word's sleep ends with 7 where its module or page has gone, goes on otherwise, and is
checked at a write that reaches an armed line; the copies of a bivouac end and spbeg's signals follow. That a write goes
over the list of those asleep is the model's (log entry 7). -/
def Obligations.CausesAndWakeups : Prop :=
  ∀ (s : State) (core : Nat) (q : SeqId),
    let c := s.getCore core
    let r := c.seqr q
    (c.inst.isSome = true → r.ended = false →
      (∀ addr pc mask sd, r.uncorr = some ⟨addr, pc, mask, sd, .uncorr⟩ →
        exec (.uncorrTrap core q) s = .next ((s.setCore core (c.setSeqr q { r with uncorr := none })).takeTrap core q
          ⟨.uncorr, addr, pc, mask, true, sd⟩)) ∧
      (q = .control → r.uncorr = none → r.intrap = false → c.engPend = true →
        exec (.engineTrap core) s = .next ((s.setCore core { c with engPend := false }).takeTrap core .control
          ⟨.engine, BitVec.ofNat 64 c.efq.length, r.pc, 0, false, false⟩)) ∧
      (r.uncorr = none → r.intrap = false → (q = .control → c.engPend = false) → r.timen = true → r.timecmp.toNat ≤ s.time.toNat →
        exec (.timer core q) s = .next (s.takeTrap core q ⟨.timer, r.timecmp, r.pc, 0, false, false⟩)) ∧
      ((r.timen = false ∨ s.time.toNat < r.timecmp.toNat) → exec (.timer core q) s = .next s)) ∧
    (∀ till, r.sleep = .idle till → r.ended = false →
      (till ≠ 0 → till.toNat < s.time.toNat →
        exec (.idleTimeout core q) s = .next (s.setCore core (c.setSeqr q { r with sleep := .idleDone 0 }))) ∧
      ((till = 0 ∨ s.time.toNat ≤ till.toNat) → exec (.idleTimeout core q) s = .next s)) ∧
    (∀ armed, c.inst.isSome = true → r.ended = false → r.sleep = .wait4 armed →
      let put (sl : Sleep) : State := s.setCore core (c.setSeqr q { r with sleep := sl })
      ((∃ e ∈ armed, (s.stand core q).armGone e = true) → exec (.wait4Check core q) s = .next (put (.woken 7))) ∧
      ((∀ e ∈ armed, (s.stand core q).armGone e = false) → (∃ e ∈ armed, (s.stand core q).armRefused e = true) →
        exec (.wait4Check core q) s = .next (put .none)) ∧
      ((∀ e ∈ armed, (s.stand core q).armGone e = false ∧ (s.stand core q).armRefused e = false) →
        exec (.wait4Check core q) s = .next s)) ∧
    (∀ armed hit, r.sleep = .wait4 armed → (∃ e ∈ armed, hit core e.2.2 = true) →
      s.wakeOne hit core q = s.setCore core (c.setSeqr q { r with sleep := s.armedCheck core q (s.asidOf core) 0 armed })) ∧
    (c.biv.copying = true →
      let biv := { c.biv with copying := false, sigB := 0, sigA := 0 }
      exec (.bivouacCopyDone core) s =
        .next ((s.setCore core ({ c with biv := biv }.signalled .control c.biv.sigB c.biv.sigA)).coreRings core)) ∧
    (c.biv.copying = false → exec (.bivouacCopyDone core) s = .next s)

/-- Launches begin and end (R16, R20 to R25, R33, R392 to R395): the head of a die's order is discarded past its deadline,
or takes the cores that are free for it and starts once its start timestamp has come; a held part starts then; an instance
whose sequencers have ended and whose operations are over gives up its core once its dirty lines are written back; an
abort reaches the launch it names; HLAUNCH submits the packet at an aligned address and counts a write to its full queue.
Forwarded launches and steals (R32, R33, R393): a forwarded part joins the launch that is here already, or is checked as a
launch's packet is and enters the die's order, or is answered with the code that refused it; a thief's request goes to the
instance in its place one further along the level, or to that instance's module; an instance asked keeps the lower half of
a range of at least two grains; the answer gives the thief the range, or has it ask the next, or finishes the level. Which
cores are taken is a free choice (log entry 12); the queue's leaving order, unreadable packets, lost parts and BASE after
a steal are the model's readings (log entries 14 to 16). -/
def Obligations.LaunchesAndSteals : Prop :=
  (∀ (s : State) (die id pi : Nat) (l : Launch) (v : BitVec 64),
    (let w := s.arriveAll die
     let u := w.setHead die (some (id, pi))
     let head := headOf ((w.pendingOn die ++ w.resumesOn die).mergeSort fun a b => a.1 ≤ b.1)
     let reached := (w.getDie die).head ≠ some (id, pi)
     (head = none → exec (.admission die) s = .next ((w.setHead die none).hlaunchLeave die)) ∧
     (head = some (id, pi, l) →
      (u.resumable id pi ≠ [] → exec (.admission die) s = .next (u.admitImages die id pi l)) ∧
      (u.resumable id pi = [] → reached → u.pastDeadline l = true →
        exec (.admission die) s = .next ((u.expirePart id).hlaunchLeave die)) ∧
      (u.resumable id pi = [] → (¬ reached ∨ u.pastDeadline l = false) → ∀ p, l.parts[pi]? = some p →
        (∀ cs, u.placePart l p = some cs →
          let x := u.setLaunch id (l.updPart pi fun p => { p with stage := .held, cores := cs })
          exec (.admission die) s =
            .next ((if l.start.toNat = 0 ∨ l.start.toNat ≤ u.time.toNat then x.startPart id pi else x).hlaunchLeave die)) ∧
        (u.placePart l p = none → exec (.admission die) s = .next u)))) ∧
    (∀ i, Tbl.get? s.launches id = some l → l.done = none →
      l.parts.findIdx? (fun p => p.module = s.modId.toNat && p.die = die && decide (p.stage = Stage.held)) = some i →
      (s.time.toNat < l.start.toNat → exec (.startHoldEnd die id) s = .next s) ∧
      (l.start.toNat ≤ s.time.toNat → s.pastDeadline l = false → exec (.startHoldEnd die id) s = .next (s.startPart id i)) ∧
      (l.start.toNat ≤ s.time.toNat → s.pastDeadline l = true → exec (.startHoldEnd die id) s = .next (s.expirePart id))) ∧
    (∀ core, isUnit core = false → (s.getCore core).inst.isSome = true → (∀ q, ((s.getCore core).seqr q).ended = true) →
      (∀ o ∈ (s.getCore core).ops, o.done = true ∨ o.kind.isProbe = true) →
      let w := s.lmRelease core
      ((w.getCore core).released = true → (w.getCore core).sent = [] → exec (.instanceEnd core) s = .next (w.endInstance core)) ∧
      ((w.getCore core).released = false ∨ (w.getCore core).sent ≠ [] → exec (.instanceEnd core) s = .next w)) ∧
    (∀ core q, ((s.getCore core).seqr q).ended = false → exec (.instanceEnd core) s = .next s) ∧
    (∀ code, code = 2 ∨ code = 3 ∨ code = 4 → Tbl.get? s.launches id = some l →
      (∃ p ∈ l.parts, p.module = s.modId.toNat ∧ p.die = die) →
      exec (.launchAbort die id code) s = .next (s.abortLaunch id code)) ∧
    (s.boot ≠ 2 →
      (∀ e, s.launches.find? (fun l => decide (l.2.origin = Origin.host) && l.2.packet = v.toNat && l.2.done.isNone) = some e →
        exec (.labort die v) s = .next (s.abortLaunch e.1 4)) ∧
      ((∀ e ∈ s.launches, e.2.origin = Origin.host → e.2.packet = v.toNat → e.2.done.isSome = true) →
        (∀ n x, s.arriving.find? (fun a => decide (a.2.origin = Origin.host) && a.2.pa = v.toNat) = some (n, x) →
          let w : State := { s with arriving := Tbl.erase s.arriving n }
          exec (.labort die v) s =
            .next ((w.setLaunch n { launchOf x (packetOf x.bytes) Header.none [] with abort := some 4 }).completeLaunch n 4)) ∧
        ((∀ e ∈ s.arriving, ¬(e.2.origin = Origin.host ∧ e.2.pa = v.toNat)) → exec (.labort die v) s = .next s)) ∧
      (let t := s.hlaunchLeave die
       let d := t.getDie die
       t.boot ≠ 2 →
       (16 ≤ d.hlaunch.length → exec (.hlaunch die v) s =
        .next (t.setDie die { d with hlDropped := min (d.hlDropped + 1) (2 ^ 32 - 1) })) ∧
       (∀ bs, d.hlaunch.length < 16 → v.toNat % 64 = 0 → t.physRead v.toNat 512 = some bs →
        let u := t.submit v.toNat .host die bs
        exec (.hlaunch die v) s = .next ((u.setDie die
          { u.getDie die with hlaunch := (u.getDie die).hlaunch ++ [t.nextLaunch] }).hlaunchLeave die))))) ∧
  (∀ (s : State) (die coord o n core : Nat) (entries : List (BitVec 16)) (packet : List (BitVec 8)) (j : BitVec 3) (i : Inst) (l : Level)
    (st : LvlState),
    (let ds := entries.map fun e => slotOfEntry e.toNat
     let ev := Instr.launchForward die packet (entries, coord) (o, n)
     let p := packetOf packet
     let t : State := { s with nextLaunch := s.nextLaunch + 1 }
     let a : Arrival := ⟨0, .remote o n, die, packet, some (ds, coord), none⟩
     let here := fun (e : Nat × Launch) => decide (e.2.origin = Origin.remote o n) && e.2.done.isNone
     (ds[coord]? ≠ some (s.modId.toNat, die) → exec ev s = .next s) ∧
     (ds[coord]? = some (s.modId.toNat, die) →
      (∀ id la, s.launches.find? here = some (id, la) →
        exec ev s = .next (s.setLaunch id (la.updPart coord fun p => { p with stage := .pending }))) ∧
      (s.launches.find? here = none →
        let u : State := { t with arriving := Tbl.erase t.arriving s.nextLaunch }
        (u.packetFields p = false → exec ev s = .next (u.refusePacket s.nextLaunch a)) ∧
        (u.packetFields p = true → u.packetReach p false = none →
          (∀ hb, u.vread (unitAgent p.asid) (t.jobAnswer die (arriveJob s.nextLaunch)) p.kaddr 128 = .ok hb →
            (∀ m off k, u.sectionsReach p.asid p.kaddr (headerOf hb) ≠ some (.pend m off k)) →
            exec ev s = .next ((u.enter s.nextLaunch a (headerOf hb) ds).dropJob die (arriveJob s.nextLaunch))) ∧
          (∀ c r x, u.vread (unitAgent p.asid) (t.jobAnswer die (arriveJob s.nextLaunch)) p.kaddr 128 = .error (.fault c r x) →
            exec ev s = .next (u.refusePacket s.nextLaunch a)))))) ∧
    (∀ (t : State) id a h ds,
      let la := launchOf a (packetOf a.bytes) h (partsOf ds (a.fwd.map (·.2)))
      (∀ code, t.headerCheck (packetOf a.bytes) h ds = some code →
        t.enter id a h ds = (t.setLaunch id { la with parts := [] }).completeLaunch id code.num) ∧
      (t.headerCheck (packetOf a.bytes) h ds = none → (∃ v ∈ la.levels, v.kind ≠ 0 ∧ v.trip = 0) →
        t.enter id a h ds = (t.setLaunch id { la with parts := [] }).completeLaunch id 1) ∧
      (t.headerCheck (packetOf a.bytes) h ds = none → (∀ v ∈ la.levels, v.kind = 0 ∨ v.trip ≠ 0) → a.fwd.isSome = true →
        t.enter id a h ds = t.setLaunch id la) ∧
      (t.headerCheck (packetOf a.bytes) h ds = none → (∀ v ∈ la.levels, v.kind = 0 ∨ v.trip ≠ 0) → a.fwd = none → a.pctx = none →
        t.enter id a h ds = { t.setLaunch id la with
          out := t.out ++ ((ds.filter fun d => d.1 ≠ t.modId.toNat).map fun d => Msg.remoteLaunch d.1 d.2 id) })) ∧
    ((s.getCore core).inst = some i → i.levels[j.toNat]? = some l → i.lvl[j.toNat]? = some st →
      (st.asking = 0 → exec (.stealRequest core j) s = .next s) ∧
      (0 < st.asking → st.asking < 2 ^ 16 → st.reply = none →
        let cs := i.coords.set j.toNat ((st.coord + st.asking) % l.width)
        ∀ la pt, Tbl.get? s.launches i.launch = some la → la.parts.find? (fun p => p.coord = slotOf i.levels cs) = some pt →
          (pt.module ≠ s.modId.toNat → exec (.stealRequest core j) s =
            .next ((s.setCore core ((s.getCore core).setLvl j.toNat { st with asking := st.asking + 2 ^ 16 })).emit
              (.remoteSteal pt.module i.launch j.toNat (instIdOf i.levels cs)))) ∧
          (pt.module = s.modId.toNat →
            let r := s.serveSteal i.launch j.toNat cs
            exec (.stealRequest core j) s = .next (r.1.setCore core ((r.1.getCore core).setLvl j.toNat { st with reply := some r.2 })))) ∧
      (∀ lo hi, st.reply = some (lo, hi) →
        let give (x : LvlState) : Host.Outcome State Fault Refusal := .next (s.setCore core ((s.getCore core).setLvl j.toNat x))
        (lo < hi → exec (.stealGrant core j) s = give { st with base := lo, next := lo, limit := hi, asking := 0, reply := none }) ∧
        (hi ≤ lo → st.asking % 2 ^ 16 + 1 < l.width →
          exec (.stealGrant core j) s = give { st with asking := st.asking % 2 ^ 16 + 1, reply := none }) ∧
        (hi ≤ lo → l.width ≤ st.asking % 2 ^ 16 + 1 →
          exec (.stealGrant core j) s = give { st with asking := 0, reply := none, finished := true }))) ∧
    (∀ launch n cs v w lv sv, s.coreOf launch cs = some v → (s.getCore v).inst = some w → w.levels[n]? = some lv → w.lvl[n]? = some sv →
      let left := sv.limit - sv.next
      (2 * grainOf lv ≤ left → s.serveSteal launch n cs =
        (s.setCore v ((s.getCore v).setLvl n { sv with limit := sv.next + left / 2 }), sv.next + left / 2, sv.limit)) ∧
      (left < 2 * grainOf lv → s.serveSteal launch n cs = (s, 0, 0))))

/-- Pre-emption (R40, R41, R355, R402 to R405): PREQ starts a request for the launch that its packet address names, or
ends it at once with 2; a request that found no stopping point for 50 µs stops every sequencer of its instances; die-slots
that are quiet are saved once their dirty lines are written back and have performed, and a request that has ended is
reported; RESUME marks the images that a record names for admission on its die, asks another module to resume its own, or
leaves 3; a pre-emption of a launch that another module placed reaches the parts on the die it names, and a packet still
being checked there, and what a die-slot elsewhere writes into a context area here leaves that die-slot suspended. The
bytes inside the sections and the form of the messages are the model's (log entries 25, 29). -/
def Obligations.PreemptionAndResume : Prop :=
  ∀ (s : State) (die : Nat) (v : BitVec 64),
    let d := s.getDie die
    let wanted (e : Nat × Launch) : Bool :=
      decide (e.2.origin = Origin.host) && e.2.packet = v.toNat && e.2.done.isNone && e.2.home = die
    (d.pstatBusy = true → exec (.preq die v) s = .next s) ∧
    (d.pstatBusy = false → s.boot ≠ 2 →
      let stopping : State := s.setDie die { d with pstatBusy := true }
      (s.launches.find? wanted = none → (∀ e ∈ s.arriving, ¬(e.2.origin = Origin.host ∧ e.2.pa = v.toNat)) → exec (.preq die v) s =
        .next ((s.setDie die { d with pstatResult := 2, pstatDone := true, pstatBusy := false }).emit (.msix (d.dvec.toNat % 2048)))) ∧
      (∀ n a, s.launches.find? wanted = none →
        s.arriving.find? (fun a => decide (a.2.origin = Origin.host) && a.2.pa = v.toNat) = some (n, a) → a.home = die →
        exec (.preq die v) s = .next { stopping with arriving := Tbl.set s.arriving n { a with pctx := some (d.pctx, a.pa) } }) ∧
      (∀ id l, s.launches.find? wanted = some (id, l) →
        let t := stopping.setLaunch id { l with pctx := some d.pctx }
        exec (.preq die v) s = .next ((List.range l.parts.length).foldl (fun t pi => t.preemptPart id pi d.pctx) t))) ∧
    (∃ t, exec (.preemptTimeout die) s = .next t ∧ s.SameOutside t ∧ ∀ n c, Tbl.get? s.cores n = some c →
      (∀ i t0, c.inst = some i → i.preempt = some t0 → coreDie n = die → isUnit n = false → c.anyStopped = false →
        t0 + 50000 ≤ s.time.toNat → (∀ q, (t.getCore n).seqr q = { c.seqr q with stopped := true }) ∧ (t.getCore n).ops = c.ops) ∧
      ((c.inst = none ∨ (∃ i, c.inst = some i ∧ (i.preempt = none ∨ ∃ t0, i.preempt = some t0 ∧ s.time.toNat < t0 + 50000)) ∨ coreDie n ≠ die) →
        t.getCore n = c)) ∧
    (let t := (s.unstarted die).foldl (fun t e => t.preemptPart e.1 e.2.1 e.2.2) s
     exec (.preemptSave die) s = .next ((t.savable die).foldl (fun t e => t.saveStep e.1 e.2) t).preqSettle) ∧
    (∀ id pi la p, Tbl.get? s.launches id = some la → la.parts[pi]? = some p →
      let cs := p.cores.map (·.1)
      let w := cs.foldl (fun t c => t.lmRelease c) s
      ((∀ c ∈ cs, (w.getCore c).released = true ∧ (w.getCore c).sent = []) → s.saveStep id pi = w.savePart id pi) ∧
      ((∃ c ∈ cs, (w.getCore c).released = false ∨ (w.getCore c).sent ≠ []) → s.saveStep id pi = w)) ∧
    (s.boot ≠ 2 →
      (s.recordImages die v.toNat = none → s.recordFar v.toNat = none →
        exec (.resume die v) s = .next (s.setDie die { d with pstatResult := 3 })) ∧
      (∀ id pi insts l p, s.recordImages die v.toNat = none → s.recordFar v.toNat = some (id, pi, insts) →
        Tbl.get? s.launches id = some l → l.parts[pi]? = some p →
        let la := l.updPart pi fun p => { p with die := die, stage := .running }
        exec (.resume die v) s =
          .next ((s.setLaunch id { la with suspendedInsts := l.suspendedInsts.filter fun i => !(insts.map (·.1)).contains i }).emit
            (.remoteResume p.module die id insts))) ∧
      (∀ m rest l, s.recordImages die v.toNat = some (m :: rest) → Tbl.get? s.launches m.launch = some l →
        let t := s.setLaunch m.launch (l.updPart m.part fun p => { p with die := die })
        let resumed (x : Image) : Image := ((m :: rest).find? fun r => x.launch = m.launch && r.inst = x.inst).elim x fun r =>
          { x with bytes := r.bytes, resumed := true }
        exec (.resume die v) s = .next { t with images := s.images.map resumed })) ∧
    (∀ asid off sup origin number pctx packet,
      let here (e : Nat × Launch) : Bool := decide (e.2.origin = Origin.remote origin number) && e.2.done.isNone
      (s.launches.filter here = [] → exec (.remoteAccess asid off sup (.preempt origin number die pctx packet)) s =
        .next { s with arriving := Tbl.mapVals s.arriving fun _ a =>
          if a.origin = Origin.remote origin number ∧ a.home = die then { a with pctx := some (pctx, packet) } else a }) ∧
      (∀ id l, s.launches.filter here = [(id, l)] → (∀ e ∈ s.arriving, e.2.origin ≠ Origin.remote origin number) →
        exec (.remoteAccess asid off sup (.preempt origin number die pctx packet)) s =
          .next ((l.parts.zipIdx.filter fun p => p.1.module = s.modId.toNat && p.1.die = die).foldl
            (fun t p => t.preemptPart id p.2 pctx) (s.setLaunch id { l with pctx := some pctx, packet := packet })))) ∧
    (∀ asid off sup launch coord ws l p, Tbl.get? s.launches launch = some l → l.parts[coord]? = some p →
      p.module ≠ s.modId.toNat → l.done = none → l.abort = none →
      ∃ t, exec (.remoteAccess asid off sup (.context launch coord ws)) s = .next t ∧
        t.images = s.images ∧ t.cores = (ws.foldl (fun t w => t.putPlain w.1 w.2) s).cores ∧
        t.mem = (ws.foldl (fun t w => t.putPlain w.1 w.2) s).mem ∧
        ∃ l', Tbl.get? t.launches launch = some l' ∧ l'.parts[coord]? = some { p with stage := .suspended } ∧
          ∀ i, i ∈ ws.dropLast.map (fun w => fld w.2 4 4) → i ∈ l'.suspendedInsts)

/-- The matrix pair (R34 to R37, R317, R318, R320 to R324): the arbiter grants a free pair to the highest level waiting,
and among equals to the core that comes first after that level's last holder; a run ends, off the arrays, at 16 commands,
4,096 clocks, or freed with no entry left, and enters again while it has work; an entry of a dead group is cancelled; a
free array takes the oldest ready entry; a task that leaves the array writes its words into its bank, and the command
completes after its last. The sampler and the beam engine serve the oldest command of their queue, one request at a
boundary (R84, R125 to R130, R137): the command of a dead group has the rest of its requests marked CANCELLED; a request
past its deadline is marked EXPIRED; one that has begun goes on as of the time it began, while it waits for another
module; what a draw leaves to write is written in the turns that follow; the next request starts, and the command ends,
once what it wrote to other modules has been acknowledged; then it leaves the queue, and of the sampler no later command
starts before its writes have performed. A product's words (R155, R191, R192, R325): per K block the exact sum of products
is scaled and rounded into the running sum, a block of NaN gives a NaN; the groups of an N-fold are combined in ascending
order, and positions past the blocks read as zero where they are padded (R108); without LIST the bank's element becomes
Raw under INIT and else its value plus Raw, rounded; under LIST the row's value is offered to each column's list, NaN
values only counted. A task of a command without a chain runs this on the rows read from its stream and the plane as
loaded. The clocks that a task charges and a request in one step are the model's readings (log entries 11, 13). -/
def Obligations.MatrixPairAndEngines : Prop :=
  (∀ (s : State) (cluster core : Nat) (arr : Arr) (o : Op),
    let cl := s.getCluster cluster
    let c := s.getCore core
    let on (t : Option ArrTask) (n : Nat) : Prop := ∃ a, t = some a ∧ a.core = n
    (cl.holder = none → cl.waiting ≠ [] →
      ∃ n level, (n, level) ∈ cl.waiting ∧ (∀ w ∈ cl.waiting, w.2 ≤ level) ∧
        (let after (m : Nat) : Nat := (m % 8 + 7 - Tbl.getD cl.last level 7 % 8) % 8
         ∀ w ∈ cl.waiting, w.2 = level → after n ≤ after w.1) ∧
        (let t := s.setCluster cluster { cl with
          holder := some n, cmds := (Tbl.getD cl.carried n (0, 0)).1, clocks := (Tbl.getD cl.carried n (0, 0)).2,
          carried := Tbl.erase cl.carried n, waiting := cl.waiting.filter (fun w => w.1 != n),
          freed := decide ((s.getCore n).leased = false), last := Tbl.set cl.last level n }
         exec (.belayGrant cluster) s = .next (t.setCore n (t.getCore n).granted))) ∧
    (∀ n, cl.holder = some n → exec (.belayGrant cluster) s = .next s) ∧
    (cl.holder = some core → ¬ on cl.onS core → ¬ on cl.onV core →
      let entries : Prop := ∃ e ∈ cl.table, e.1 = core
      let t := s.setCluster cluster { cl with holder := none, cmds := 0, clocks := 0, freed := false }
      ((16 ≤ cl.cmds ∨ 4096 ≤ cl.clocks ∨ ((cl.freed = true ∨ c.leased = false) ∧ ¬ entries)) →
        ((c.leased = true ∨ entries) → exec (.belayRunEnd cluster) s = .next (t.enterArbitration core c.level)) ∧
        (c.leased = false → ¬ entries → exec (.belayRunEnd cluster) s = .next t)) ∧
      (cl.cmds < 16 → cl.clocks < 4096 → ((cl.freed = false ∧ c.leased = true) ∨ entries) → exec (.belayRunEnd cluster) s = .next s)) ∧
    (s.deadEntry cluster = some (core, o) → exec (.tileTaskIssue cluster arr) s = .next (s.cancelCmd core o)) ∧
    (s.deadEntry cluster = none →
      ((cl.free arr = false ∨ (s.getDie (cluster / 16)).hot = true) → exec (.tileTaskIssue cluster arr) s = .next s) ∧
      (cl.free arr = true → (s.getDie (cluster / 16)).hot = false →
        (s.holderOps cluster).find? (fun e => !e.2.isWest && s.taskReady cluster e.1 e.2 arr &&
          (s.chainPeers cluster e.2 arr).isSome) = some (core, o) →
        (∀ g nf f p m e, o.kind = .mloadb g arr nf f p → s.readTile (s.opAgent core o) g = .ok (m, e) →
          let t := s.setCore core { c with planes := Tbl.set c.planes p ⟨.loading, g, nf, f, m, e, false, o.id + 1,
            (c.plane p).dead.filter fun d => decide (o.id < d.1)⟩ }
          let clocks := max 16 (ceilDiv (gNext g * ceilDiv (gKext g * gM g) 8) 8192)
          exec (.tileTaskIssue cluster arr) s = .next (((t.useArray cluster core arr).putTask cluster arr
            ⟨core, o.id, o.prog, [], [], [], [], 0, 0, clocks⟩).advanceCmd core o true)) ∧
        (∀ ga a init fe list bound bank p rows cols n l, o.kind = .mmul ga a init fe list bound bank p rows cols n l →
          exec (.tileTaskIssue cluster arr) s = .next (s.issueProduct cluster core o)) ∧
        (∀ q k v d shape fe bank rows, o.kind = .mattn q k v d shape fe bank rows →
          exec (.tileTaskIssue cluster arr) s = .next (s.issueAttn cluster core o)))) ∧
    (∀ (t : ArrTask) (b : Nat), (arr = .s → cl.onS = some t ∧ cl.onV = none) → (arr = .v → cl.onV = some t ∧ cl.onS = none) →
      t.core = core → c.findOp t.op = some o → o.kind.bank = some b → s.alive o.group = true → cl.holder = some core →
      let k := { c with banks := Tbl.set c.banks b ((Tbl.getD c.banks b Bank.start).apply t) }
      let last : Prop := o.prog = o.kind.tasks ∧ t.unit + 1 = o.prog
      ∃ v, exec (.tileTaskComplete cluster arr) s = .next v ∧ (last → v.getCore core = (k.fillAll t.op).finishOp t.op) ∧ (¬ last → v.getCore core = k) ∧
        (v.getCluster cluster).onS = none ∧ (v.getCluster cluster).onV = none ∧
        (v.getCluster cluster).clocks = cl.clocks + t.clocks ∧ v.mem = s.mem ∧ v.host = s.host ∧
        (∀ m, m ≠ core → v.getCore m = s.getCore m))) ∧
  (∀ (s : State) (die : Nat) (r : EngRef) (rest : List EngRef) (c : EngCmd),
    let base := c.list + 64 * c.next
    let ends (t : State) : State :=
      let u := t.engNext die r (c.next + 1) false
      if c.next + 1 = c.n then u.engDone die r else u
    let starts (off : Nat) (w : State) (t0 : Word64) : Prop :=
      (s.begunAt die off r c.next = some t0 ∧ w = s) ∨
      (s.begunAt die off r c.next = none ∧ c.next < c.n ∧ c.out = 0 ∧ s.alive c.group = true ∧ t0 = s.time ∧
        w = s.setDie die { s.getDie die with begun := Tbl.set (s.getDie die).begun off (r, c.next, s.time) })
    let serves (i : Instr) (off by_ : Nat) (after : State → Host.Outcome State Fault Refusal) : Prop :=
      s.engOver die r = false → s.engCmd die r = some c → (c.asked = [] → answerWhy c.answer = none) →
        (s.begunAt die off r c.next = none →
          (c.n ≤ c.next → exec i s = after (s.engDone die r)) ∧
          (c.next < c.n → c.out ≠ 0 → exec i s = after s) ∧
          (∀ t, c.next < c.n → c.out = 0 → s.alive c.group = false →
            s.cancelRest c off 4 (c.n - c.next) c.next = (t, none) →
              exec i s = after ((t.engNext die r c.n true).engDone die r))) ∧
        (∀ w t0 rq t, starts off w t0 → w.vread c.agent c.answer base 64 = .ok rq →
          passed t0 (BitVec.ofNat 48 (fld rq by_ 6)) = true → (t.getDie die).act = none →
          (w.groupCount c.group true).vwrite c.agent (base + off) (leBytes 2 2) = (t, none) → exec i s = after (ends t))
    (∀ q, (s.getDie die).sampler = r :: rest → q = Instr.samplerRequest die →
      let after (t : State) : Host.Outcome State Fault Refusal :=
        .next (if t.engOver die r ∧ t.engFlown die r then t.setDie die { t.getDie die with sampler := rest, act := none } else t)
      ((s.getDie die).act = none → serves q 0x16 0x18 after) ∧
      (s.engOver die r = false → s.engCmd die r = some c →
        ((s.getDie die).act = none → (c.asked = [] → answerWhy c.answer = none) →
          ∀ w t0 t, starts 0x16 w t0 → w.sampleOne die c base t0 = (t, none) →
            ((t.getDie die).act = none → exec q s = after (ends t)) ∧
            ((t.getDie die).act ≠ none → exec q s = after t)) ∧
        (∀ a, (s.getDie die).act = some a →
          (∀ h more t, a.hist = h :: more → s.historyStep die r c a h more = (t, none) → exec q s = after t) ∧
          (∀ t, a.hist = [] → s.putFields c.agent a.base a.fields = (t, none) → exec q s = after ((ends t).setAct die none))))) ∧
    (∀ q, (s.getDie die).beam = r :: rest → q = Instr.beamRequest die →
      let after (t : State) : Host.Outcome State Fault Refusal :=
        .next (if t.engOver die r then t.setDie die { t.getDie die with beam := rest } else t)
      serves q 0x36 0x30 after ∧
      (s.engOver die r = false → s.engCmd die r = some c → (c.asked = [] → answerWhy c.answer = none) →
        ∀ w t0, starts 0x36 w t0 →
          (∀ t, w.beamOne die r c base t0 = .wrote (t, none) → exec q s = after (ends t)) ∧
          (∀ t, w.beamOne die r c base t0 = .waits t → exec q s = after t))) ∧
    (let whole := c.release = false ∨ c.out = 0
     s.engCmd die r = some c → answerWhy c.answer = none →
      (∀ core op, r = .op core op → whole → s.engDone die r = s.doneOp core op) ∧
      (∀ j b, r = .job j → s.getJob die j = some b → whole → s.engDone die r = s.setJob die j { b with done := true }) ∧
      (¬ whole → s.engDone die r = s)) ∧
    ((s.getDie die).sampler = [] → exec (.samplerRequest die) s = .next s) ∧
    ((s.getDie die).beam = [] → exec (.beamRequest die) s = .next s)) ∧
  (let rnd (v : FVal) : Nat := (roundF32 v).1.toNat
  let sum (s : Nat) (v : FVal) : Nat := rnd ((f32.dec s).add v).1
  let block (mA mB : Nat) (a b : BfpBlock) : FVal :=
    let q : Int := (List.zipWith (· * ·) a.m b.m).foldl (· + ·) 0
    if a.e = 255 ∨ b.e = 255 then .nan false
    else .fin (decide (q < 0)) q.natAbs ((a.e : Int) + b.e - 254 - ((mA : Int) - 1) - ((mB : Int) - 1))
  let run (mA mB : Nat) (ps : List (BfpBlock × BfpBlock)) : Nat := ps.foldl (fun s p => sum s (block mA mB p.1 p.2)) 0
  let ends (pad : Bool) (s : Nat) : Nat := if pad then sum s (.fin false 0 0) else s
  let raw (mA mB chunk fold : Nat) (pad : Bool) (a b : List BfpBlock) : Nat :=
    if chunk = 0 then ends pad (run mA mB (List.zip a b))
    else
      let group (i : Nat) : Nat :=
        let ps := ((List.zip a b).drop (chunk * i)).take chunk
        ends (pad && decide (ps.length < chunk)) (run mA mB ps)
      (List.range (fold - 1)).foldl (fun s i => sum s (f32.dec (group (i + 1)))) (group 0)
  (∀ (mA mB chunk fold : Nat) (pad : Bool) (a b : List BfpBlock), 0 < fold →
    (rawSum mA mB chunk fold pad a b).1 = raw mA mB chunk fold pad a b) ∧
  (∀ (mA mB chunk fold : Nat) (b : Bank) (init : Bool) (cols : Nat) (rows : List (Nat × List BfpBlock)) (tile : List (List BfpBlock)),
    0 < fold → (rows.map (·.1)).Nodup →
      let at_ (r : Nat × List BfpBlock) (c : Nat) : Nat := raw mA mB chunk fold false r.2 (tile.getD c [])
      (let k := b.apply (productTask mA mB chunk fold b init cols none rows tile)
       (∀ r ∈ rows, ∀ c, c < cols → (Tbl.getD k.vals (r.1 * cols + c) 0).toNat =
         if init then at_ r c else sum (Tbl.getD b.vals (r.1 * cols + c) 0).toNat (f32.dec (at_ r c))) ∧
       (∀ i, (∀ r ∈ rows, ∀ c, c < cols → i ≠ r.1 * cols + c) → Tbl.getD k.vals i 0 = Tbl.getD b.vals i 0) ∧
       k.pairs = b.pairs ∧ k.maxs = b.maxs ∧ k.sums = b.sums) ∧
      (∀ (lk : Nat) (base : Word32), 0 < lk →
       let k := b.apply (productTask mA mB chunk fold b init cols (some (lk, base)) rows tile)
       let zero (v : Nat) : Nat := if v = 0x8000_0000 then 0 else v
       let isNum (v : Nat) : Bool := !(f32.dec v).isNan
       (∀ c, c < cols → k.column lk c = topK (b.column lk c ++ (rows.filter fun r => isNum (at_ r c)).map fun r =>
         (zero (at_ r c), (base.toNat + r.1) % 2 ^ 32)) lk) ∧
       k.nans = min (2 ^ 16 - 1) (b.nans + (rows.map fun r =>
         ((List.range cols).filter fun c => !isNum (at_ r c)).length).sum) ∧
       k.vals = b.vals)) ∧
  (∀ (s : State) (cluster core : Nat) (o : Op) (ga : BitVec 256) (a : Arr) (init : Bool) (fe : FEq) (list : Option (Nat × Word32))
      (bank : Nat) (p rows cols : Nat) (n : Nat) (data : List (Nat × List BfpBlock)),
    o.kind = .mmul (some ga) a init fe list none bank p rows cols n [] → o.chain = 0 → o.peers = [] →
    let c := s.getCore core
    let pl := c.plane p
    let t := s.setCore core (c.updOp o.id fun x => { x with kind := .mmul (some ga) a init fe list none bank p rows cols 0 [] })
    c.findOp o.id = some o → pl.cancelledFor o.id = false → pl.state = .loaded → pl.lost = false →
    (init = true ∨ (c.bank bank).shape.agrees ⟨listMode list, rows, cols⟩ = true) → t.readRows core o ga rows o.prog = .ok data →
      let b := if init && o.prog = 0 then (c.bank bank).init ⟨listMode list, rows, cols⟩ else c.bank bank
      let w := productTask (gM ga) (gM pl.g) (if pl.nfold then 1024 / gBl pl.g else 0) pl.fold b init cols list data pl.blocks
      let cl := (s.issueProduct cluster core o).getCluster (coreCluster core)
      (match a with | .s => cl.onS | .v => cl.onV) =
        some { w with core := core, op := o.id, unit := o.prog, clocks := data.length * gM ga }))

/-- Tasks, bins and groups between instructions (R75 to R83, R87, R99, R100, R116): the first queued task, if it is for
evaluation, joins a bin, or ends where its group is dead or its deadline has passed; a bin whose window is over freezes; a
frozen bin whose weight set has a free shape area, or whose record another module has acknowledged, is launched; the sweep
ends every queued task that is no longer issuable; references and cancels of other modules are performed and answered; a
cancel completes once the key slots it retired are erased; a cancelled group and every group below it is dead, and nothing
else comes of the cancel of a dead group; a dead group that nothing belongs to any more returns to the pool. One update of
a walk (R92 to R95, R344): virtual loss raises VL; backup raises N, lowers VL and adds the value, its sign turned at every
second step under .neg, to W, each saturated at its bounds; the walk goes on at the parent until its steps are done or the
parent is the null handle, and then completes. A walk from another module does the same here, and its issuer hears of its
end; one that leaves this module is sent on. When a group is marked and returns, and the record of a failing walk, are the
model's readings (log entries 18, 19). -/
def Obligations.TreeEngineAndWalks : Prop :=
  (∀ (s : State) (die : Nat),
    (∀ slot t, firstTask (s.queued die) = some (slot, t) →
      (t.isEval = false → exec (.evalHandoff die) s = .next s) ∧
      (t.isEval = true →
        (s.alive t.group = false → exec (.evalHandoff die) s = .next (s.endTask die slot .cancelled)) ∧
        (s.alive t.group = true → passed s.time t.deadline = true → exec (.evalHandoff die) s = .next (s.endTask die slot .expired)) ∧
        (s.alive t.group = true → passed s.time t.deadline = false →
          (∀ u, s.handOff die slot = some u → exec (.evalHandoff die) s = .next u) ∧
          (s.handOff die slot = none → exec (.evalHandoff die) s = .next s)))) ∧
    (∀ n b, s.getBin die n = some b → b.frozen = false →
      (b.reg.window * 50 ≤ (s.time.toNat - b.opened) * 47 → exec (.binWindowExpiry die n) s = .next (s.freeze die n)) ∧
      ((s.time.toNat - b.opened) * 47 < b.reg.window * 50 → exec (.binWindowExpiry die n) s = .next s)) ∧
    (∀ n b, (s.getDie die).bins.find? (fun b => b.2.frozen &&
        if b.2.area.isSome then b.2.out = 0 else (s.freeArea die b.2.wset).isSome) = some (n, b) →
      exec (.binLaunch die) s = .next (s.launchBin die n)) ∧
    (exec (.sweep die) s = .next ((s.queued die).foldl (fun t e =>
      if t.alive e.2.group = false then t.endTask die e.1 .cancelled
      else if passed t.time e.2.deadline then t.endTask die e.1 .expired else t) s)) ∧
    (∀ (raise : Bool) (h : BitVec 32),
      let n := s.nodeFld h 34 2
      let fails : Prop := nodeNull h = true ∨ s.nodeHere h = false ∨ (raise = true ∧ n = 65535)
      (fails → exec (.remoteTref raise h) s = .next (s.emit (.remoteAnswer false []))) ∧
      (¬ fails → exec (.remoteTref raise h) s = .next ((s.tref h raise).emit (.remoteAnswer true [])))) ∧
    (∀ g : BitVec 16,
      let t := s.cancelGroup g.toNat none
      (t.keysErased = true → exec (.remoteTcancel g) s = .next (t.emit (.remoteAnswer true []))) ∧
      (t.keysErased = false → exec (.remoteTcancel g) s = .next { t with owed := t.owed + 1 })) ∧
    (∀ core op o g m, (s.getCore core).findOp op = some o → o.done = false → o.kind = .tcancel g m →
      (m = s.modId.toNat →
        (o.prog = 0 →
          let t := s.cancelGroup g (s.opIssuer core o)
          exec (.tcancelComplete core op) s = .next (t.setCore core ((t.getCore core).updOp op fun x => { x with prog := 1 }))) ∧
        (o.prog ≠ 0 → s.keysErased = true → exec (.tcancelComplete core op) s = .next (s.doneOp core op)) ∧
        (o.prog ≠ 0 → s.keysErased = false → exec (.tcancelComplete core op) s = .next s)) ∧
      (m ≠ s.modId.toNat →
        (∀ a b, o.answer = some (.ack a b) → exec (.tcancelComplete core op) s = .next (s.doneOp core op)) ∧
        (∀ a b, o.answer = some (.lost a b) →
          exec (.tcancelComplete core op) s = .next (s.failOp core o 13 3 (BitVec.ofNat 64 (m + 2 ^ 16 * g)) 0)))) ∧
    (∀ g e c who, g ≠ 0 → s.getGroup g = some e → s.alive g = true → s.under c g = true → (s.cancelGroup g who).alive c = false) ∧
    (∀ g who, g = 0 ∨ s.alive g = false → s.cancelGroup g who = s) ∧
    (∀ (g : Nat) (e : Group), s.getGroup g = some e →
      (g ≠ 0 → s.alive g = false → s.groupBusy g = false → exec (.groupFree g) s = .next (s.dropGroup g e).ropesSettle) ∧
      (g = 0 ∨ s.alive g = true ∨ s.groupBusy g = true → exec (.groupFree g) s = .next s))) ∧
  (∀ (s : State) (core op : Nat) (o : Op) (who : Nat × Nat × Nat) (backup neg : Bool) (h : Word32) (v : Word64) (left : Option Nat) (i : Nat),
    let n := s.nodeFld h 0 4
    let vl := s.nodeFld h 4 4
    let w := s.nodeFld h 8 8
    let sat (x : Int) : Int := max (-(2 ^ 63)) (min (2 ^ 63 - 1) x)
    let x : Int := if neg = true ∧ i % 2 = 1 then sat (-v.toInt) else v.toInt
    let t : State :=
      if backup then ((s.nodePut h 0 4 (min (n + 1) (2 ^ 32 - 1))).nodePut h 4 4 (vl - 1)).nodePut h 8 8
        (BitVec.ofInt 64 (sat (Int.bmod w (2 ^ 64) + x))).toNat
      else s.nodePut h 4 4 (min (vl + 1) (2 ^ 32 - 1))
    let parent : Word32 := BitVec.ofNat 32 (s.nodeFld h 20 4)
    let ends : Prop := left = some 1 ∨ nodeNull parent = true
    let on (kind : OpKind) : State := t.setCore core ((t.getCore core).updOp op fun q => { q with kind := kind, prog := i + 1 })
    s.nodeHere h = true → s.badRange (nodeAddr h) 24 = false →
    ((s.getCore core).findOp op = some o → o.done = false → o.kind = .walk backup neg h v left i →
      (ends → exec (.walkComplete core op) s = .next ((on o.kind).doneOp core op)) ∧
      (¬ ends → exec (.walkComplete core op) s = .next (on (.walk backup neg parent v (left.map (· - 1)) (i + 1))))) ∧
    (nodeNull h = false →
      (ends → exec (.remoteWalk who backup neg h v (left, i)) s = .next (t.emit (.walkDone who none))) ∧
      (¬ ends → exec (.remoteWalk who backup neg h v (left, i)) s =
        .next { t with turns := t.turns ++ [.unit (.foreignWalk who backup neg parent v (left.map (· - 1)) (i + 1))] })) ∧
    (∀ g, nodeNull g = false → s.nodeHere g = false →
      (s.nodeReachable g = true → exec (.remoteWalk who backup neg g v (left, i)) s =
        .next (s.emit (.remoteWalk (s.blockModule (nodeModule g)) who backup neg g v left i))) ∧
      (s.nodeReachable g = false → exec (.remoteWalk who backup neg g v (left, i)) s = .next (s.emit (.walkDone who (some g))))))

/-- The KV unit (R117 to R122, R333): an entry that arrives is applied unless the one held is of a later epoch, and
translations that wait go on; an append to a root that is not live answers 3, to a full one 1; the next row of a block of
this module that no other root shares is written there and counted; a command ends once what it sent has been performed; a
drop lets go of the hold; kvmap of a block of this module gives its global address and tier, or none, and asks the home
where the entry is not held. The bases, the choice of a block and of what is evicted are the model's readings (log entries
8, 12, 23). -/
def Obligations.KvUnitWorks : Prop :=
  ∀ (s : State) (core op : Nat) (o : Op) (sid : Word32),
    let die := coreDie core
    (∀ blk entry epoch,
      exec (.kvBroadcast sid blk entry epoch) s = .next ((s.sbtApply sid.toNat blk entry epoch).emit (.remoteAnswer true [])) ∧
      exec (.sbtFetch sid blk entry epoch) s = .next ((s.sbtApply sid.toNat blk entry epoch).sbtCame sid blk entry)) ∧
    ((s.getCore core).findOp op = some o → o.done = false →
      (∀ dst src place, o.kind = .kvapp dst sid src →
        (o.prog = 0 →
          ((∀ k, s.getRoot (sidRoot sid.toNat) = some k → k.live = false) →
            exec (.kvPlace core op place) s = .next (s.kvEnd core o dst sid 3)) ∧
          (∀ k, s.getRoot (sidRoot sid.toNat) = some k → k.live = true →
            (k.ntok = 64 * k.nblk → exec (.kvPlace core op place) s = .next (s.kvEnd core o dst sid 1)) ∧
            (∀ row t, k.ntok ≠ 64 * k.nblk → s.appending sid = false → k.ntok % 64 ≠ 0 →
              s.vread (s.opAgent core o) o.answer src.toNat k.trowb = .ok row →
              let e := s.sbtRead die k (k.ntok / 64)
              sbtModule e = s.modId.toNat % 1024 → s.refcnt die (sbtGbn e) ≤ 1 →
              s.vwrite (kvAgent s die o.sup) (s.blockAddr die (sbtGbn e) + k.ntok % 64 * k.trowb) row = (t, none) →
              exec (.kvPlace core op place) s = .next
                ((t.putRoot die (sidRoot sid.toNat) (k.count (k.shardOf (s.modId.toNat % 1024)))).kvEnd core o dst sid 0)))) ∧
        (∀ a b v, o.prog = 2 → o.answer = some (.value a b v) →
          (o.out = 0 → exec (.kvPlace core op place) s =
            .next ((s.setCore core ((s.getCore core).setSeqr o.seq (((s.getCore core).seqr o.seq).setX dst v))).doneOp core o.id)) ∧
          (o.out ≠ 0 → exec (.kvPlace core op place) s = .next s))) ∧
      (o.kind = .kvdrop sid →
        (∀ k, s.getRoot (sidRoot sid.toNat) = some k → k.live = true → k.hold = true →
          exec (.kvPlace core op none) s = .next (((s.putRoot die (sidRoot sid.toNat) { k with hold := false }).rootFree die
            (sidRoot sid.toNat)).doneOp core o.id)) ∧
        (s.getRoot (sidRoot sid.toNat) = none → exec (.kvPlace core op none) s = .next (s.doneOp core o.id))) ∧
      (∀ dst src bs k r, o.kind = .kvnew dst src → s.vread (s.opAgent core o) o.answer src.toNat 128 = .ok bs →
        s.kvTemplate bs = some k →
        firstFrom (fun r => !s.rootLive r) 0x7FFF 0x7FFF (s.freeBelow (o.id + 2 ^ 87) 0x7FFF) = some r →
        exec (.kvPlace core op none) s = .next ((s.putRoot die r k).kvEnd core o dst 0 (s.sidOf r))) ∧
      (∀ dst p blk addr tier (valid : Bool), o.kind = .kvmap dst p sid blk → answerWhy o.answer = none →
        let ev := Instr.sstLookup core op addr tier valid
        (o.prog = 0 → 2 ^ 20 ≤ blk → exec ev s = .next (s.unmapped core o dst p)) ∧
        (∀ w, o.prog = 0 → blk < 2 ^ 20 →
          w = (if s.freeBool (sbtKey sid.toNat blk + 2 ^ 88) then s.sbtEvict sid.toNat blk else s) →
          (∀ e, w.sbtHeld sid.toNat blk = some e → exec ev s = .next (w.kvOwner core die o dst p sid e)) ∧
          (w.sbtHeld sid.toNat blk = none →
            (w.isHome sid.toNat = true →
              exec ev s = .next ((w.sbtHome die sid.toNat blk).1.kvOwner core die o dst p sid (w.sbtHome die sid.toNat blk).2)) ∧
            (w.isHome sid.toNat = false → w.reaches (w.blockModule (sidHome sid.toNat)) = true →
              exec ev s = .next ((w.setCore core ((w.getCore core).updOp op fun x => { x with prog := 1 })).emit
                (.kvFetch (w.blockModule (sidHome sid.toNat)) core op sid blk))))) ∧
        (∀ a b e, o.prog = 1 → o.answer = some (.value a b e) → exec ev s = .next (s.kvOwner core die o dst p sid e.toNat)) ∧
        (∀ a m l, o.prog = 2 → o.asked = (a, m) :: l →
          exec ev s = .next (if valid then s.mapped core o dst p m addr tier.toNat else s.unmapped core o dst p)))) ∧
    (∀ (t : State) dst p e, t.modId = s.modId →
      let b := t.sstEntry die (sbtGbn e)
      (sbtValid e = false → t.kvOwner core die o dst p sid e = t.unmapped core o dst p) ∧
      (sbtValid e = true → t.blockModule (sbtModule e) = s.modId.toNat →
        (fld b 11 1 % 2 = 1 → t.kvOwner core die o dst p sid e =
          t.mapped core o dst p s.modId.toNat (BitVec.ofNat 64 (fld b 0 8)) (fld b 10 1 % 4)) ∧
        (fld b 11 1 % 2 = 0 → t.kvOwner core die o dst p sid e = t.unmapped core o dst p)))

/-- Collectives and the quadrille complete (R158 to R163, R170 to R174): each command here takes a turn. One that was
refused gets its status word; where a participant is lost, PEERLOST; while one is missing the command sends its
contribution; once all are there and agree, every participant of this module has its output and its status to write, and
where they differ the status that says so. A matched command makes its writes, some at a turn, and ends after the last.
DONE, the bytes after PEERLOST and table addresses are the model's readings (log entries 8, 21). What collectives deliver
(R159 to R162, R401): all-reduce and reduce-scatter the reduction of element i of every source, or of block r; all-gather
and all-to-all the sources' blocks in rank order; FP32 sums go up the route tree, children in ascending order; MAX and MIN
do not depend on order; EXACT adds without loss in units of 2^A and saturates elements and the sum; a NaN gives
0x7FC0_0000 and INV. Each participant here writes its output at DST and DONE with the bits at STATUS. The quadrille's
delivery (R173, R174): the splits come nearest to equal loads, the lowest among equals, by record counts where all loads
are 0; a rank receives the records of its buckets in delivery order, the first CAP of them; every other stays with its
sender, counted and spilled in key order; OVERFLOW is set where a rank turned records away or kept some. -/
def Obligations.CollectivesComplete : Prop :=
  (∀ (s : State) (setId n : Nat) (others : List Contribution) (core id : Nat) (x : OnSet),
    exec (.collectiveComplete setId n others) s =
      .next (((s.onSet setId n).filter fun y => y.re = false).foldl (fun t y => t.collTurn setId n others y.core y.o.id) s) ∧
    exec (.repartComplete setId n others) s =
      .next (((s.onSet setId n).filter fun y => y.re = true).foldl (fun t y => t.collTurn setId n others y.core y.o.id) s) ∧
    ((s.onSet setId n).find? (fun y => y.core = core && y.o.id = id) = some x →
      (x.matched = false → setId = refusedSet →
        s.collTurn setId n others core id = s.collEnd x [(x.addr.toNat + x.statusAt, leBytes 4 x.badBit)] false) ∧
      (∀ cs, x.matched = false → setId ≠ refusedSet → s.collSet (coreDie x.core) setId = some cs →
        let here := ((s.onSet setId n).filter fun y => !y.matched).filter fun y =>
          y = x || cs.ranks.any fun e => natBits e 0 12 = s.modId.toNat && natBits e 14 2 = coreDie y.core
        let ps := cs.ranks.zipIdx.map fun e => s.partyOf setId n here others e.1 e.2
        (ps.any (·.isLost) = true → s.collTurn setId n others core id = s.peerLost cs.p here) ∧
        (∀ t, ps.any (·.isLost) = false →
          (if cs.spans s.modId.toNat = true then s.contribute setId n cs here = (t, none) else t = s) →
          (ps.any (·.isMissing) = true → s.collTurn setId n others core id = t) ∧
          (ps.any (·.isMissing) = false →
            (agree (ps.map (t.partyDesc setId)) = false →
              s.collTurn setId n others core id = t.allStatus here OnSet.mismatchBit) ∧
            (∀ srcs, agree (ps.map (t.partyDesc setId)) = true → t.sources cs.p ps = .ok srcs →
              (x.re = false → s.collTurn setId n others core id = t.collDeliver cs ps (srcs.map (·.src))) ∧
              (x.re = true → s.collTurn setId n others core id = t.quadDeliver cs ps srcs))))) ∧
      (∀ a d i ws lost, x.o.kind = .coll a d i n (some (ws, lost)) ∨ x.o.kind = .repart a d i n (some (ws, lost)) →
        let k := ws.length - s.freeBelow (2 ^ 96) ws.length
        ∀ t, s.writeList (s.opAgent x.core x.o) (ws.take k) = (t, [], none) →
          let u := t.setLeft x.core x.o.id (ws.drop k) lost
          (k < ws.length → s.collTurn setId n others core id = u) ∧
          (ws.length ≤ k → s.collTurn setId n others core id = u.collOver x.core x.o i lost (BitVec.ofNat 64 (fld x.desc 0x18 8)))))) ∧
  (let val (v : Nat) : FVal := f32.dec v
  let anyNan (vals : List Nat) : Bool := vals.any fun v => (val v).isNan
  let low : Int := -(2 ^ 127)
  let high : Int := 2 ^ 127 - 1
  let held (x : Int) : Int := max low (min high x)
  let near (a : Int) (v : FVal) (q : Int) (sat : Bool) : Prop :=
    match v with
    | .nan _ => True
    | .inf n => sat = true ∧ q = if n then low else high
    | .fin n m e => ∃ x : Int,
        let up : Int := 2 ^ (e - a).toNat
        let down : Int := 2 ^ (a - e).toNat
        let diff : Int := x * down - (if n then -(m : Int) else m) * up
        2 * diff.natAbs ≤ down.natAbs ∧ (2 * diff.natAbs = down.natAbs → x % 2 = 0) ∧ q = held x ∧ (sat = true ↔ x ≠ held x)
  (∀ (c : CollFmt) (route vals : List Nat), c.mode = 0 → (∀ v ∈ vals, v < 2 ^ 32) →
    (anyNan vals = true → reduceElem c route vals = (leBytes 4 0x7FC0_0000, 4)) ∧
    (anyNan vals = false →
      (∀ (root : Nat) (depth : Nat → Nat) (T : Nat → Nat × Nat), c.rop = 0 → vals.length ≤ 0xFFFF → root < vals.length → route.getD root 0 = 0xFFFF →
        (∀ i, i < vals.length → i ≠ root → route.getD i 0xFFFF < vals.length) →
        (∀ i, i < vals.length → depth i < vals.length ∧ (i ≠ root → depth i = depth (route.getD i 0xFFFF) + 1)) →
        (∀ i, i < vals.length → T i = ((List.range vals.length).filter fun j => j ≠ root ∧ route.getD j 0xFFFF = i).foldl
          (fun acc j =>
            let r := f32.add acc.1 (T j).1
            (r.1, acc.2 ||| (T j).2 ||| collBits r.2)) (vals.getD i 0, 0)) →
        reduceElem c route vals = (leBytes 4 (T root).1, (T root).2)) ∧
      (c.rop = 1 → vals ≠ [] → ∃ x ∈ vals, reduceElem c route vals = (leBytes 4 x, 0) ∧
        ∀ y ∈ vals, (val x).lt (val y) = false ∧ (x = 0x8000_0000 → y ≠ 0)) ∧
      (c.rop = 2 → vals ≠ [] → ∃ x ∈ vals, reduceElem c route vals = (leBytes 4 x, 0) ∧
        ∀ y ∈ vals, (val y).lt (val x) = false ∧ (x = 0 → y ≠ 0x8000_0000)))) ∧
  (∀ (c : CollFmt) (route vals : List Nat), c.mode = 1 → ∃ qs : List (Int × Bool), qs.length = vals.length ∧
    (∀ (i v : Nat) (q : Int × Bool), vals[i]? = some v → qs[i]? = some q → near c.anchor (val v) q.1 q.2) ∧
    (let sat := qs.any (·.2)
     let total := (qs.map (·.1)).foldl (· + ·) 0
     let ovf := sat || decide (total ≠ held total)
     let r := roundF32 (.fin (decide (held total < 0)) (held total).natAbs c.anchor)
     reduceElem c route vals =
       if anyNan vals then (if c.ofmt = 1 then leBytes 16 (2 ^ 127) else leBytes 4 0x7FC0_0000, if sat then 6 else 4)
       else if c.ofmt = 1 then (leBytes 16 (held total % 2 ^ 128).toNat, if ovf then 2 else 0)
       else (leBytes 4 r.1.toNat, (if ovf then 2 else 0) + (if r.1 &&& 0x7FFF_FFFF = 0x7F80_0000 then 8 else 0)))) ∧
  (∀ (c : CollFmt) (op count : Nat) (route : List Nat) (srcs : List (List Byte)) (r : Nat),
    let out := collOutput op c count route srcs r
    let el (b : List Byte) (i : Nat) : Nat := fld b (4 * i) 4
    let all (l : List (List Byte × Nat)) : Prop := out.1 = (l.map (·.1)).flatten ∧ out.2 = (l.map (·.2)).foldl (· ||| ·) 0
    let moved (o : Nat) : Prop := all (srcs.flatMap fun b =>
      if c.mode = 2 then [(slice b (o * count) count, 0)]
      else (List.range count).map fun i => reduceElem c [0xFFFF] [el b (o * count + i)])
    (op = 0 → all ((List.range count).map fun i => reduceElem c route (srcs.map fun b => el b i))) ∧
    (op = 2 → all ((List.range count).map fun i => reduceElem c route (srcs.map fun b => el b (r * count + i)))) ∧
    (op = 1 → moved 0) ∧ (op = 3 → moved r)) ∧
  (∀ (s : State) (cs : CollSet) (ps : List Party) (srcs : List (List Byte)), s.collDeliver cs ps srcs =
    ps.zipIdx.foldl (fun t e =>
      match e.1 with
      | .here y =>
        let d := y.desc
        let c : CollFmt := ⟨fld d 1 1, fld d 2 1, fld d 3 1, (BitVec.ofNat 16 (fld d 6 2)).toInt⟩
        let out := collOutput (fld d 0 1) c (fld d 8 4) cs.route srcs e.2
        t.collEnd y [(fld d 0x18 8, out.1), (y.addr.toNat + 0x20, leBytes 4 (1 + out.2))] false
      | _ => t) s)) ∧
  ((∀ (rs : List Rec) (p : Nat), 0 < p → (∀ r ∈ rs, r.key < 2 ^ 64) →
    let bucket (r : Rec) : Nat := r.key / 2 ^ 52
    let loads (weigh : Rec → Nat) (n : Nat) : Nat := ((rs.filter fun r => bucket r < n).map weigh).sum
    let weigh : Rec → Nat := if (rs.map (·.load)).sum = 0 then fun _ => 1 else (·.load)
    let off (n k : Nat) : Nat := ((loads weigh n * p : Int) - k * loads weigh 4096).natAbs
    let sp := splitsOf rs p
    sp.length = p + 1 ∧ sp.getD 0 0 = 0 ∧ sp.getD p 0 = 4096 ∧
    (∀ k, 0 < k → k < p → sp.getD k 0 ≤ 4096 ∧ (∀ n, n ≤ 4096 → off (sp.getD k 0) k ≤ off n k) ∧
      ∀ n, n < sp.getD k 0 → off (sp.getD k 0) k < off n k) ∧
    (∀ d, d < p →
      let got := boundFor rs sp p d
      (∀ r, r ∈ got ↔ r ∈ rs ∧ sp.getD d 0 ≤ bucket r ∧ bucket r < sp.getD (d + 1) 0) ∧
      got.Pairwise (fun x y => x.key < y.key ∨ x.key = y.key ∧ (x.sender < y.sender ∨ x.sender = y.sender ∧ x.pos ≤ y.pos)))) ∧
  (∀ (s : State) (cs : CollSet) (ps : List Party) (gs : List Given), ps.length = cs.p →
    let rs := allRecs ps gs
    let sp := splitsOf rs cs.p
    let cap (d : Nat) : Nat := ((ps[d]?.map fun q => fld q.desc 0x14 4).getD 0)
    let bound (d : Nat) : List Rec := boundFor rs sp cs.p d
    let left (d : Nat) : List Rec := (bound d).drop (cap d)
    let kept (k d : Nat) : List Rec := (left d).filter fun r => r.sender = k
    ∃ spill : Nat → List Rec,
      (∀ k, (spill k).Perm ((List.range cs.p).map (kept k)).flatten ∧ (spill k).Pairwise (fun x y =>
        x.key < y.key ∨ x.key = y.key ∧ (x.sender < y.sender ∨ x.sender = y.sender ∧ x.pos ≤ y.pos))) ∧
      s.quadDeliver cs ps gs = ps.zipIdx.foldl (fun t e =>
        match e.1 with
        | .here y =>
          let b := y.desc
          let k := e.2
          let got := (bound k).take (cap k)
          let counts := (List.range cs.p).map fun d => leBytes 4 (kept k d).length
          t.collEnd y
            ([(fld b 0x18 8, (got.map (·.bytes)).flatten), (fld b 0x20 8, ((spill k).map (·.bytes)).flatten)] ++
              (if fld b 0x28 8 = 0 then [] else [(fld b 0x28 8, counts.flatten)]) ++
              (if fld b 0x48 8 = 0 then [] else [(fld b 0x48 8, (sp.map fun v => leBytes 2 v).flatten)]) ++
              [(y.addr.toNat + 0x34, leBytes 4 (if left k = [] ∧ spill k = [] then 1 else 3) ++ leBytes 4 got.length ++
                leBytes 4 (spill k).length ++ leBytes 4 ((gs[k]?.map (·.bad)).getD 0))]) false
        | _ => t) s))

/-- An access of another module is translated here, in the space with the issuer's number, and performs, or fails without
any effect (R43, R44, R235): a read answers the bytes; a write's bytes are there and it is acknowledged; an atomic on a
word of an uncached page answers the old word and changes the bytes of that word only, where it must be aligned; a field
of a cairn that lies here is read and stored; an entry of a sequence's block table is answered where the sequence is at
home, zeros where it is not; words are fetched from a page with X; an access that cannot be translated answers its cause,
PAGE with the reason remote, and changes nothing. The answers of other modules to this one's requests, and a host's writes
of the far tier (R43, R44, R53, R64, R66, R233, R235): a page's translation, or why it has none, is held under its space
and page; a word goes to the operation that asked for it; an acknowledged write to a cairn completes, and so does a
write-back; what a lost module owed a write to a cairn ends it with cause PAGE, reason 1, and any other operation learns
of the loss; a part of a launch that has ended elsewhere has ended, or has stopped where the launch is aborted; an answer
that no operation waits for does nothing. Other modules act through events, a part's LATE comes in bit 16 of its answer,
and a host write that races an atomic is free in the atomic's word (log entries 1, 16, 28). -/
def Obligations.OtherModules : Prop :=
  (∀ (s : State) (asid : Nat) (off : BitVec 43) (sup : Bool),
    let g : Agent := ⟨none, asid, sup, none, false⟩
    let va := off.toNat
    let answer (t : State) (ok : Bool) (bs : List Byte) : State := { t with out := t.out ++ [.remoteAnswer ok bs] }
    let seen (e : EFail) : State := match e with | .fault .uncorr _ a => s.countSeen none asid a.toNat | _ => s
    let failed (e : EFail) : State := answer (seen e) false (leBytes 1 e.codes.1 ++ leBytes 1 (if e.codes.1 = 3 then 2 else 0))
    (∀ n bs, s.vread g none va n = .ok bs →
      exec (.remoteAccess asid off sup (.read n)) s = .next (answer (s.vtouch asid va n) true bs)) ∧
    (∀ n e, s.vread g none va n = .error e → exec (.remoteAccess asid off sup (.read n)) s = .next (failed e)) ∧
    (∀ n x, s.agentXlat g .fetch va = .ok x →
      (∀ bs, s.readEng 0 x n = some bs →
        exec (.remoteAccess asid off sup (.fetch n)) s = .next (answer (s.vtouch asid va n) true bs)) ∧
      (s.readEng 0 x n = none → exec (.remoteAccess asid off sup (.fetch n)) s = .next (failed (.fault .uncorr 0 (BitVec.ofNat 64 va))))) ∧
    (∀ n e, s.agentXlat g .fetch va = .error e → exec (.remoteAccess asid off sup (.fetch n)) s = .next (failed e)) ∧
    (∀ bs t, s.vwrite g va bs = (t, none) → exec (.remoteAccess asid off sup (.write bs)) s = .next (answer t true [])) ∧
    (∀ bs t e, s.vwrite g va bs = (t, some e) → exec (.remoteAccess asid off sup (.write bs)) s = .next (failed e)) ∧
    (∀ op dword b cv, va % (if dword then 8 else 4) ≠ 0 →
      exec (.remoteAccess asid off sup (.amo op dword b cv)) s = .next (failed (.fault .misalign 0 (BitVec.ofNat 64 va)))) ∧
    (∀ (op : AmoOp) (dword : Bool) (b cv : Word64) (pa k : Nat),
      let w := if dword then 8 else 4
      let m := 2 ^ (8 * w)
      let old := leNat (s.physBytes pa w)
      let signed (v : Nat) : Int := Int.bmod v m
      let result : Nat := match op with
        | .add => (old + b.toNat) % m
        | .min => if signed old < signed b.toNat then old else b.toNat % m
        | .max => if signed old < signed b.toNat then b.toNat % m else old
        | .band => old &&& b.toNat % m
        | .bor => old ||| b.toNat % m
        | .bxor => old ^^^ b.toNat % m
        | .xchg => b.toNat % m
        | .cas => if old = cv.toNat % m then b.toNat % m else old
      va % w = 0 → s.xlat none asid sup .amo va = .ok ⟨.dev pa, k, false, none⟩ → s.badRange pa w = false → pa + w ≤ farBase →
      Tbl.get? s.stamps (pa / 128) = none → Tbl.get? s.stamps ((pa + w - 1) / 128) = none → s.MemoryWf →
        ∃ t, exec (.remoteAccess asid off sup (.amo op dword b cv)) s = .next t ∧
          t.out = s.out ++ [.remoteAnswer true (leBytes 8 old)] ∧
          (∀ y, Mem.read t.mem y =
            if pa ≤ y ∧ y < pa + w ∧ (op ≠ .cas ∨ old = cv.toNat % m) then BitVec.ofNat 8 (result / 256 ^ (y - pa))
            else Mem.read s.mem y) ∧
          t.host = s.host ∧ (s.waiters = [] → t.cores = s.cores)) ∧
    (∀ hd o n, nodeNull hd = false → s.nodeHere hd = true → s.badRange (nodeAddr hd + o) n = false →
      exec (.remoteAccess asid off sup (.nodeRead hd o n)) s = .next (answer s true (s.physBytes (nodeAddr hd + o) n))) ∧
    (∀ hd o bs t, nodeNull hd = false → s.nodeHere hd = true → s.storePhys (nodeAddr hd + o) bs = some t →
      exec (.remoteAccess asid off sup (.nodeWrite hd o bs)) s = .next (answer t true [])) ∧
    (∀ hd o n, s.nodeHere hd = false →
      exec (.remoteAccess asid off sup (.nodeRead hd o n)) s = .next (answer s false [])) ∧
    (∀ launch level inst, (∀ c ∈ s.cores, ∀ i, c.2.inst = some i → i.launch = launch → i.inst ≠ inst) →
      exec (.remoteAccess asid off sup (.steal launch level inst)) s = .next (answer s false [])) ∧
    (∀ die sid blk k, s.getRoot (sidRoot sid.toNat) = some k → s.isHome sid.toNat = true → k.live = true → blk < k.nblk →
      exec (.remoteAccess asid off sup (.kvEntry die sid blk)) s =
        .next (answer s true (leBytes 8 (s.sbtRead die k blk) ++ leBytes 4 k.epoch.toNat))) ∧
    (∀ die sid blk, s.getRoot (sidRoot sid.toNat) = none →
      exec (.remoteAccess asid off sup (.kvEntry die sid blk)) s = .next (answer s true (List.replicate 12 0)))) ∧
  (∀ s : State,
    (∀ asid page kind r w x su unc, asid < 64 → page < 2 ^ 39 → kind < 3 →
      let t : State := { s with remotePages := Tbl.set s.remotePages (asid * 2 ^ 39 + page) ⟨kind, r, w, x, su, unc, none⟩ }
      exec (.remoteResponse (.page asid page kind r w x su unc)) s = .next t.ringsAgain) ∧
    (∀ asid page reason, asid < 64 → page < 2 ^ 39 → (reason = 1 ∨ reason = 2) →
      let t : State :=
        { s with remotePages := Tbl.set s.remotePages (asid * 2 ^ 39 + page) ⟨0, false, false, false, false, true, some reason⟩ }
      exec (.remoteResponse (.pageFail asid page reason)) s = .next t.ringsAgain) ∧
    (∀ core op, core < 2048 → op < 2 ^ 64 → Tbl.get? (s.getCore core).wbs op = none → Tbl.get? (s.getCore core).sent op = none →
      ((s.getCore core).findOp op = none →
        exec (.remoteResponse (.ack core op)) s = .next s ∧ exec (.remoteResponse (.lost core op)) s = .next s ∧
        (∀ v, exec (.remoteResponse (.value core op v)) s = .next s) ∧
        ∀ cells, exec (.remoteResponse (.bytes core op cells)) s = .next s) ∧
      (∀ o, (s.getCore core).findOp op = some o → o.done = false →
        let put (p : Op) : State := s.setCore core ((s.getCore core).updOp o.id fun _ => p)
        let w := s.setCore core ((s.getCore core).unaskOp o)
        (∀ hd fo dw v, o.kind = .nwr hd fo dw v →
          (o.out = 0 → exec (.remoteResponse (.ack core op)) s = .next (s.doneOp core op)) ∧
          exec (.remoteResponse (.lost core op)) s = .next (w.failOp core o 3 1 (hd.setWidth 64) 0)) ∧
        (∀ a dw d addr b cv, o.kind = .amo a dw d addr b cv →
          (∀ v, exec (.remoteResponse (.value core op v)) s = .next (put { o with answer := some (.value core op v) })) ∧
          exec (.remoteResponse (.lost core op)) s =
            .next (w.setCore core ((w.getCore core).updOp op fun p => { p with answer := some (.lost core op) }))) ∧
        (∀ addr x v, o.kind = .store addr x v → 0 < o.out →
          exec (.remoteResponse (.ack core op)) s = .next (put { o with out := o.out - 1 })) ∧
        (∀ l n cells, o.kind = .sample l n → o.answer = none →
          ∃ cs, exec (.remoteResponse (.bytes core op cells)) s = .next (put { o with answer := some (.bytes core op cs) }) ∧
            ∀ a, Tbl.get? cs a = ((cells.reverse.find? fun e => e.1 = a).map Prod.snd)))) ∧
    (∀ core op n, core < 2048 → Tbl.get? (s.getCore core).wbs op = some n → op < 2 ^ 64 →
      Tbl.get? (s.getCore core).wbq n = none →
      exec (.remoteResponse (.ack core op)) s =
        .next (s.setCore core { s.getCore core with wbs := Tbl.erase (s.getCore core).wbs op })) ∧
    (∀ id pi l p, id < 2 ^ 39 → Tbl.get? s.launches id = some l → l.parts[pi]? = some p → p.module ≠ s.modId.toNat → l.done = none → l.abort = none →
      let ended (late : Bool) : State :=
        s.setLaunch id (l.updPart pi fun p => { p with stage := .ended, late := p.late || late })
      exec (.remoteResponse (.ack (2 ^ 30 + id) pi)) s = .next ((ended false).launchCheck id) ∧
      exec (.remoteResponse (.value (2 ^ 30 + id) pi (BitVec.ofNat 64 (2 ^ 16 + 1)))) s = .next ((ended true).launchCheck id)) ∧
    (∀ id pi l p code, id < 2 ^ 39 → Tbl.get? s.launches id = some l → l.parts[pi]? = some p → p.module ≠ s.modId.toNat → l.done = none →
      l.abort = some code → exec (.remoteResponse (.ack (2 ^ 30 + id) pi)) s =
        .next ((s.setLaunch id (l.updPart pi fun p => { p with stage := .discarded })).launchCheck id)) ∧
    (∀ ha bytes, (∀ c ∈ s.cores, ∀ o ∈ c.2.ops, o.done = true) →
      ∃ t, exec (.farTierHostWrite ha bytes) s = .next t ∧ t.mem = s.mem ∧ (s.waiters = [] → t.cores = s.cores) ∧ t.out = s.out ∧
        (s.MemoryWf → s.bad = [] → s.stamps = [] → ∀ a, Mem.read t.host a =
          if ha ≤ a ∧ a < ha + bytes.length then bytes.getD (a - ha) 0 else Mem.read s.host a)))

/-- A graph slot runs its nodes in array order (R141 to R146): at a node boundary a dead cancel group ends the run
CANCELLED without its pending replays, NOWAIT work that failed under STOPFAIL ends it FAILED, a node at or past GNODES,
one that cannot be read or one that breaks a rule ends it BADNODE; a node past its deadline is discarded; END ends it
COMPLETED; PATCH copies its words to gp registers; COND tests (w and MASK) OP VALUE and jumps, rearms or ends; WAIT waits;
a LAUNCH node submits its packet with the 32 gp registers in it; an ENGINE node's work goes to the die's sampler or beam
engine, or is given as copies or collectives of the slot; an HRING node appends its records; with NOWAIT the node
completes as its work is taken in. A run that ends while NOWAIT work goes on waits for it; else its completion record is
written, and once that has performed everywhere its interrupt is sent and a pending replay starts the next run. The
corners of a run's end that R141 to R146 leave are the model's readings (log entry 30). -/
def Obligations.GraphNodesRun : Prop :=
  ∀ (s : State) (die slot n : Nat), slot < 64 →
    let g := s.getSlot die slot
    let stays (h : GSlot) : Prop := ∃ t, exec (.graphNodeStart die slot) s = .next t ∧ t.getSlot die slot = h ∧ t.mem = s.mem ∧ t.host = s.host ∧
      t.cores = s.cores ∧ t.launches = s.launches ∧ t.out = s.out
    let goes (h : GSlot) (m : Nat) : Prop := stays { h with phase := .ready m, evt := 0, stopfail := false }
    let busy := g.nowait.any fun w => w.code.isNone
    let ends (b : State) (h : GSlot) (code : Nat) : Prop :=
      (busy = true → stays { h with phase := .ending code }) ∧
      (busy = false → ∀ t, b.postAs (unitCore die slot, slotWrites + recordOp g.gcomp.toNat false) g.asid g.gcomp.toNat
          (leBytes 4 (if g.failing then 3 else code) ++ leBytes 4 h.iter.toNat ++ leBytes 8 s.time.toNat) = .ok t →
        ((t.getSlot die slot).out ≠ 0 → exec (.graphNodeStart die slot) s = .next (t.setSlot die slot { t.getSlot die slot with phase := .recorded })) ∧
        ((t.getSlot die slot).out = 0 → ∃ u, exec (.graphNodeStart die slot) s = .next u ∧ u.mem = t.mem ∧ u.host = t.host ∧
          u.out = t.out ++ (if g.irqEnd then [.msix (g.vec % 2048)] else []) ∧
          u.getSlot die slot = { h with
            phase := if h.pending = 0 then .idle else .ready 0, iter := if h.pending = 0 then h.iter else 0,
            pending := h.pending - 1, nowait := [], failing := false, evt := 0, stopfail := false }))
    g.phase = .ready n →
    (g.out ≠ 0 → exec (.graphNodeStart die slot) s = .next s) ∧
    (g.out = 0 → s.alive g.group = false → ends (s.setSlot die slot { g with pending := 0 }) { g with pending := 0 } 11) ∧
    (g.out = 0 → s.alive g.group = true →
      (g.failing = true → ends s g 3) ∧
      (g.failing = false →
        (g.gnodes ≤ n → ends s g 12) ∧
        (n < g.gnodes →
          (∀ c r a, s.slotRead die slot (g.gbase.toNat + 64 * n) 64 = .error (.fault c r a) → ends s g 12) ∧
          (∀ bs, s.slotRead die slot (g.gbase.toNat + 64 * n) 64 = .ok bs →
            let nd : GNode := ⟨bs, g.gp⟩
            let flag (i : Nat) : Bool := natBits (fld bs 1 1) i 1 = 1
            let base := if flag 1 then (Tbl.getD g.gp (fld bs 2 1) 0).toNat else 0
            let addr (o : Nat) : Nat := (fld bs o 8 + base) % 2 ^ 64
            let h0 : GSlot := { g with phase := .begun n s.time (some bs) g.gp }
            let b := s.setSlot die slot h0
            (nd.bad g.gnodes = true → ends b g 12) ∧
            (nd.bad g.gnodes = false →
              (passed s.time (BitVec.ofNat 48 (fld bs 8 6)) = true → fld bs 0 1 = 5 → flag 2 = false →
                ∃ t, exec (.graphNodeStart die slot) s = .next t ∧ t.getSlot die slot = { g with phase := .ready (n + 1), evt := 0, stopfail := false } ∧
                  t.mem = s.mem) ∧
              (passed s.time (BitVec.ofNat 48 (fld bs 8 6)) = true → (fld bs 0 1 = 5 ∨ nd.evt = 0) → flag 2 = true →
                ends (b.groupCount g.group true) g 3) ∧
              (passed s.time (BitVec.ofNat 48 (fld bs 8 6)) = false →
                (fld bs 0 1 = 0 → ends b g 1) ∧
                (fld bs 0 1 = 3 → ∀ ws, s.slotRead die slot (addr 0x10) (8 * fld bs 0x19 1) = .ok ws →
                  ∃ gp, goes { g with gp := gp } (n + 1) ∧ ∀ i, Tbl.getD gp i 0 =
                    if fld bs 0x18 1 ≤ i ∧ i < fld bs 0x18 1 + fld bs 0x19 1 then
                      BitVec.ofNat 64 (fld ws (8 * (i - fld bs 0x18 1)) 8) else Tbl.getD g.gp i 0) ∧
                (fld bs 0 1 = 4 → ∀ ws, s.slotRead die slot (addr 0x10) 8 = .ok ws →
                  let v := leNat ws % 2 ^ 64 &&& fld bs 0x18 8
                  let w := fld bs 0x20 8
                  let holds : Bool := match fld bs 0x28 1 with
                    | 0 => v = w
                    | 1 => v ≠ w
                    | 2 => v < w
                    | _ => w ≤ v
                  (holds = false → goes g (n + 1)) ∧
                  (holds = true →
                    (fld bs 0x29 1 = 0 → goes g (fld bs 0x2A 2)) ∧
                    (fld bs 0x29 1 = 2 → ends b g 1) ∧
                    (fld bs 0x29 1 = 1 →
                      let it := g.iter + 1
                      let h := { g with iter := it }
                      ((fld bs 0x2C 4 = 0 ∨ it.toNat ≠ fld bs 0x2C 4) → goes h 0) ∧
                      (fld bs 0x2C 4 ≠ 0 → it.toNat = fld bs 0x2C 4 → ends (s.setSlot die slot { h0 with iter := it }) h 9)))) ∧
                (fld bs 0 1 = 6 →
                  let till := if fld bs 0x34 4 = 0 then none else some (s.time.toNat + 1000 * fld bs 0x34 4)
                  let word : GPhase := .waitWord n till (BitVec.ofNat 64 (addr 0x18)) (BitVec.ofNat 64 (fld bs 0x20 8))
                    (BitVec.ofNat 64 (fld bs 0x28 8)) (fld bs 0x30 1)
                    (match s.agentXlat (unitAgent g.asid) .read (addr 0x18) with | .ok x => some x | .error _ => none) false
                  stays { g with phase := if fld bs 0x10 1 = 0 then .waitDrain n till else word }) ∧
                (fld bs 0 1 = 1 → flag 0 = false → addr 0x10 % 64 = 0 → ∀ ps, s.slotRead die slot (addr 0x10) 512 = .ok ps →
                  let packet := slice ps 0 0x100 ++ ((List.range 32).map fun i => leBytes 8 (Tbl.getD g.gp i 0).toNat).flatten
                  let u := b.submit 0 (.graph die slot n) die packet
                  ∃ t, exec (.graphNodeStart die slot) s = .next t ∧ t.launches = u.launches ∧ t.arriving = u.arriving ∧ t.mem = u.mem ∧ t.nextLaunch = u.nextLaunch ∧
                    (t.getSlot die slot).phase = .launch n s.nextLaunch) ∧
                (fld bs 0 1 = 1 → flag 0 = true → addr 0x10 % 64 = 0 → ∀ ps, s.slotRead die slot (addr 0x10) 512 = .ok ps →
                  let packet := slice ps 0 0x100 ++ ((List.range 32).map fun i => leBytes 8 (Tbl.getD g.gp i 0).toNat).flatten
                  let u := b.submit 0 (.graph die slot n) die packet
                  ∃ t, exec (.graphNodeStart die slot) s = .next t ∧ t.launches = u.launches ∧ t.mem = u.mem ∧
                    (t.getSlot die slot).phase = .ready (n + 1) ∧
                    (t.getSlot die slot).nowait = (u.getSlot die slot).nowait ++
                      [⟨n, BitVec.ofNat 64 nd.evt, flag 2, some s.nextLaunch, none, none, none⟩]) ∧
                (fld bs 0 1 = 2 →
                  let job := (s.getDie die).nextJob + 64
                  let j (next : Nat) : Job := ⟨fld bs 0x10 1, BitVec.ofNat 64 (addr 0x18), fld bs 0x12 2, next, g.asid, g.group,
                    slot, false, false, false, false, [], [], 0, none⟩
                  let issued (next : Nat) (t : State) : Prop :=
                    exec (.graphNodeStart die slot) s = .next t ∧ t.getJob die job = some (j next) ∧
                    (flag 0 = false → t.getSlot die slot =
                      { g with phase := .engine n job, evt := BitVec.ofNat 64 nd.evt, stopfail := flag 2 }) ∧
                    (flag 0 = true → t.getSlot die slot = { g with
                      phase := .ready (n + 1), evt := 0, stopfail := false,
                      nowait := g.nowait ++ [⟨n, BitVec.ofNat 64 nd.evt, flag 2, none, some job, none, none⟩] })
                  let unit := s.getCore (unitCore die slot)
                  let given (t : State) : List (Nat × OpKind) :=
                    ((t.getCore (unitCore die slot)).ops.drop unit.ops.length).map fun o => (o.id, o.kind)
                  (fld bs 0x10 1 = 0 → ∃ t, issued 0 t ∧ (t.getDie die).sampler = (s.getDie die).sampler ++ [.job job]) ∧
                  (fld bs 0x10 1 = 1 → ∃ t, issued 0 t ∧ (t.getDie die).beam = (s.getDie die).beam ++ [.job job]) ∧
                  (∀ rs, fld bs 0x10 1 = 3 → s.slotRead die slot (addr 0x18) (32 * fld bs 0x12 2) = .ok rs →
                    let rec_ (i : Nat) : List Byte := slice rs (32 * i) 32
                    let bad (r : List Byte) : Prop := 2 ≤ fld r 0x14 4 ∨ (fld r 0x14 4 = 0 ∧ fld r 0x18 8 ≠ 0) ∨ fld r 0x18 8 % 16 ≠ 0
                    ((∃ i, i < fld bs 0x12 2 ∧ bad (rec_ i)) → ends b g 12) ∧
                    ((∀ i, i < fld bs 0x12 2 → ¬ bad (rec_ i)) → ∃ t, issued unit.nextOp t ∧
                      given t = (List.range (fld bs 0x12 2)).map fun i => (unit.nextOp + i,
                        .xfer .copy (BitVec.ofNat 64 (fld (rec_ i) 0 8)) (BitVec.ofNat 64 (fld (rec_ i) 8 8)) 0 (fld (rec_ i) 0x10 4)
                          (if fld (rec_ i) 0x14 4 = 1 then some (BitVec.ofNat 64 (fld (rec_ i) 0x18 8)) else none) none none))) ∧
                  (∀ d cs, fld bs 0x10 1 = 2 → fld bs 0x12 2 = 1 → s.slotRead die slot (addr 0x18) 64 = .ok d → d.length = 64 →
                    s.collSet die (fld d 4 2) = some cs → fld d 0 1 < 4 → collBad (fld d 0 1) d = false →
                    ∃ t, issued unit.nextOp t ∧ Tbl.getD (t.getDie die).collCount (fld d 4 2) 0 = Tbl.getD (s.getDie die).collCount (fld d 4 2) 0 + 1 ∧
                      given t = [(unit.nextOp, .coll (BitVec.ofNat 64 (addr 0x18)) d (fld d 4 2)
                        (Tbl.getD (s.getDie die).collCount (fld d 4 2) 0) none)])) ∧
                (fld bs 0 1 = 5 →
                  let ring := fld bs 0x10 1
                  let r := s.getHring die ring
                  (r.enabled = false ∨ r.asid ≠ g.asid → ends b g 12) ∧
                  (r.enabled = true → r.asid = g.asid →
                    (flag 0 = true → goes { g with nowait := g.nowait ++
                      [⟨n, 0, flag 2, none, none, some (ring, BitVec.ofNat 64 (addr 0x18), fld bs 0x11 1, flag 4, flag 3), none⟩] } (n + 1)) ∧
                    (flag 0 = false →
                      (∀ t, b.slotRing die slot ring (addr 0x18) (fld bs 0x11 1) (flag 4) (flag 3) = (t, .all) →
                        exec (.graphNodeStart die slot) s = .next (t.goTo die slot (n + 1))) ∧
                      (∀ t src left, b.slotRing die slot ring (addr 0x18) (fld bs 0x11 1) (flag 4) (flag 3) = (t, .waits src left) →
                        exec (.graphNodeStart die slot) s = .next (t.setSlot die slot { t.getSlot die slot with
                          phase := .hring n ring (BitVec.ofNat 64 src) left (flag 4) (flag 3) })))))))))))

/-- Nodes and NOWAIT work end (R143, R145, R394, R422): a LAUNCH or ENGINE node ends with its work, whose status, with
LATE and the time, is the word at its EVT; a status other than COMPLETED ends the run FAILED where the node has STOPFAIL,
else the next node is ready; a WAIT for NOWAIT work ends when there is none, one for a word when its test holds; a WAIT
past its time ends the run TIMEOUT; a run that waits for its NOWAIT work, or for its own writes to perform, then ends;
NOWAIT work that ends is noted, and fails the run where it has STOPFAIL and did not complete. The corners of a run's end
that R143 to R145 leave are the model's readings (log entry 30). -/
def Obligations.GraphNodesEnd : Prop :=
  ∀ (s : State) (die slot : Nat),
    let g := s.getSlot die slot
    let word (code : Nat) (late : Bool) : List Byte := leBytes 8 (code + (if late then 256 else 0) + s.time.toNat % 2 ^ 48 * 2 ^ 16)
    let ended (l : Launch) : Bool := l.parts.any fun p => p.late
    let at_ (t : State) (m : Nat) : GSlot := { t.getSlot die slot with phase := .ready m, evt := 0, stopfail := false }
    (∀ n id, g.phase = .launch n id →
      (∀ l, Tbl.get? s.launches id = some l → (l.done = none ∨ l.out ≠ 0) → exec (.graphNodeComplete die slot) s = .next s) ∧
      (∀ l c, Tbl.get? s.launches id = some l → l.done = some c → l.out = 0 → c < 256 → (c = 1 ∨ g.stopfail = false) →
        (g.evt = 0 → ∃ t, exec (.graphNodeComplete die slot) s = .next t ∧ t.getSlot die slot = at_ s (n + 1) ∧ t.mem = s.mem) ∧
        (g.evt ≠ 0 → ∀ u, s.postAs (unitCore die slot, slotWrites + recordOp g.evt.toNat false) g.asid g.evt.toNat
            (word c (ended l)) = .ok u →
          ∃ t, exec (.graphNodeComplete die slot) s = .next t ∧ t.getSlot die slot = at_ u (n + 1) ∧ t.mem = u.mem ∧ t.host = u.host)) ∧
      (∀ l c, Tbl.get? s.launches id = some l → l.done = some c → l.out = 0 → c ≠ 1 → g.stopfail = true → g.evt = 0 →
        exec (.graphNodeComplete die slot) s = .next (s.finishRun die slot 3))) ∧
    (∀ n job j, g.phase = .engine n job → s.getJob die job = some j → j.eng < 2 →
      (j.done = false → exec (.graphNodeComplete die slot) s = .next s) ∧
      (j.done = true → j.failed = false → j.cancelled = false → j.expired = false → g.evt = 0 →
        ∃ t, exec (.graphNodeComplete die slot) s = .next t ∧ t.getSlot die slot = at_ s (n + 1) ∧ t.mem = s.mem)) ∧
    (∀ n till, g.phase = .waitDrain n till →
      ((∃ w ∈ g.nowait, w.code = none) → exec (.graphNodeComplete die slot) s = .next s) ∧
      ((∀ w ∈ g.nowait, w.code.isSome = true) → ∃ t, exec (.graphNodeComplete die slot) s = .next t ∧ t.getSlot die slot = at_ s (n + 1) ∧ t.mem = s.mem)) ∧
    (∀ n till addr mask value op place met bs, g.phase = .waitWord n till addr mask value op place met → s.slotRead die slot addr.toNat 8 = .ok bs →
      let holds := gtest op (BitVec.ofNat 64 (leNat bs)) mask value
      ((met = true ∨ holds = true) →
        ∃ t, exec (.graphNodeComplete die slot) s = .next t ∧ t.getSlot die slot = at_ s (n + 1) ∧ t.mem = s.mem) ∧
      (met = false → holds = false → exec (.graphNodeComplete die slot) s = .next (s.dropRead die slot))) ∧
    (∀ code, g.phase = .ending code →
      ((∃ w ∈ g.nowait, w.code = none) → exec (.graphNodeComplete die slot) s = .next s) ∧
      ((∀ w ∈ g.nowait, w.code.isSome = true) → exec (.graphNodeComplete die slot) s = .next (s.finishRun die slot code))) ∧
    (g.phase = .recorded →
      (g.out ≠ 0 → exec (.graphNodeComplete die slot) s = .next s) ∧ (g.out = 0 → exec (.graphNodeComplete die slot) s = .next (s.slotOver die slot))) ∧
    (∀ n t, (g.phase = .waitDrain n (some t) ∨ ∃ a m v op x b, g.phase = .waitWord n (some t) a m v op x b) →
      (t ≤ s.time.toNat → exec (.waitNodeTimeout die slot) s = .next (s.finishRun die slot 10)) ∧
      (s.time.toNat < t → exec (.waitNodeTimeout die slot) s = .next s)) ∧
    (∀ (i : Nat) (w : NoWait), g.nowait[i]? = some w → w.code = none →
      (∀ id l c, w.launch = some id → Tbl.get? s.launches id = some l →
        (l.done = none ∨ l.out ≠ 0 → exec (.nowaitWorkEnd die slot i) s = .next s) ∧
        (l.done = some c → l.out = 0 → w.evt = 0 →
          exec (.nowaitWorkEnd die slot i) s = .next (s.setSlot die slot { g with
            nowait := g.nowait.set i { w with code := some c, hring := none },
            failing := g.failing || (w.stopfail && c != 1) })))) ∧
    (∀ i, g.nowait[i]? = none → exec (.nowaitWorkEnd die slot i) s = .next s)

/-- The host on graph slots and host rings, and a ring's timer (R141, R148, R149, R396 to R398): a replay starts an idle
slot at node 0 with ITER 0, counts as pending on a running one up to 255, and is counted as an error on a slot that is not
bound, whose space is off or that has no nodes; an abort ends a run FAILED with its pending replays and NOWAIT work
forgotten; CCNT takes a value that leaves at most 2^n records; a ring's configuration is taken only while it is off, and
what is refused changes nothing; a ring whose oldest pending record is TUS microseconds old gets PCNT's copy written and
its interrupt sent. That an abort leaves the launches in flight running, and of a run whose record is on its way drops
only the pending replays, are the model's (log entries 30, 65). -/
def Obligations.HostOnGraphsAndRings : Prop :=
  ∀ (s : State) (die : Nat),
    (∀ slot, slot < 64 → s.takesHost = true →
      let g := s.getSlot die slot
      let bound : Bool := g.bound && (s.getSpace g.asid).en && g.gnodes != 0
      exec (.greplay die slot) s = .next (s.setSlot die slot
        (if bound = false then { g with errs := min (g.errs + 1) 255 }
         else if g.phase = .idle then
          { g with iter := 0, phase := .ready 0, evt := 0, stopfail := false, nowait := [], failing := false }
         else { g with pending := min (g.pending + 1) 255 })) ∧
      (g.phase = .idle → exec (.gabort die slot) s = .next s) ∧
      (g.phase = .recorded → exec (.gabort die slot) s = .next (s.setSlot die slot { g with pending := 0 })) ∧
      (g.phase ≠ .idle → g.phase ≠ .recorded →
        let h : GSlot := { g with pending := 0, nowait := [] }
        (g.out ≠ 0 → exec (.gabort die slot) s =
          .next ((s.setSlot die slot h).setSlot die slot { (s.setSlot die slot h).getSlot die slot with phase := .ending 3 })) ∧
        (g.out = 0 → ∀ t, (s.setSlot die slot h).postAs (unitCore die slot, slotWrites + recordOp g.gcomp.toNat false) g.asid g.gcomp.toNat
            (leBytes 4 3 ++ leBytes 4 g.iter.toNat ++ leBytes 8 s.time.toNat) = .ok t →
          ∃ u, exec (.gabort die slot) s = .next u ∧ u.mem = t.mem ∧ u.launches = t.launches ∧
            (u.getSlot die slot).pending = 0 ∧
            (u.getSlot die slot).phase = if (t.getSlot die slot).out = 0 then .idle else .recorded))) ∧
    (∀ slot, s.takesHost = false ∨ 64 ≤ slot → exec (.greplay die slot) s = .next s) ∧
    (∀ ring (value : Word64), ring < 64 → s.takesHost = true →
      let r := s.getHring die ring
      let c : BitVec 32 := value.setWidth 32
      (2 ^ r.n < (r.pcnt - c).toNat → exec (.hrccntWrite die ring value) s = .next s) ∧
      ((r.pcnt - c).toNat ≤ 2 ^ r.n → (∀ k ∈ s.cores, ∀ o ∈ k.2.ops, o.done = true) →
        exec (.hrccntWrite die ring value) s = .next (s.setHring die ring { r with ccnt := c })) ∧
      (r.enabled = true →
        (value.getLsbD 5 = true → exec (.hrcfgWrite die ring value) s = .next s) ∧
        (value.getLsbD 5 = false →
          exec (.hrcfgWrite die ring value) s = .next (s.setHring die ring { r with hrcfg := r.hrcfg &&& ~~~0x20#64 }))) ∧
      (r.enabled = false → value.getLsbD 5 = true →
        let n := natBits value.toNat 0 5
        (4 ≤ n → n ≤ 20 → r.hrbase.toNat % (32 * 2 ^ n) = 0 →
          exec (.hrcfgWrite die ring value) s = .next (s.setHring die ring
            { r with hrcfg := value &&& 0x07FF_FFFF_FFFF_0FFF, pcnt := 0, pend := 0, oldest := 0 })) ∧
        (¬ (4 ≤ n ∧ n ≤ 20 ∧ r.hrbase.toNat % (32 * 2 ^ n) = 0) → exec (.hrcfgWrite die ring value) s = .next s)) ∧
      (r.enabled = false → value.getLsbD 5 = false →
        exec (.hrcfgWrite die ring value) s = .next (s.setHring die ring { r with hrcfg := value &&& 0x07FF_FFFF_FFFF_0FFF }))) ∧
    (∀ ring,
      let r := s.getHring die ring
      (r.enabled = true → r.pend ≠ 0 → r.tus ≠ 0 → r.oldest + 1000 * r.tus ≤ s.time.toNat →
        ∃ t, exec (.hostRingTimer die ring) s = .next t ∧ t.out = s.out ++ [.msix (r.vec % 2048)] ∧ t.mem = s.mem ∧
          (s.MemoryWf → ∀ i, i < 8 → Mem.read t.host (r.hrpcopy.toNat + i) =
            if i < 4 then BitVec.ofNat 8 (r.pcnt.toNat / 256 ^ i) else 0) ∧
          t.getHring die ring = { r with pend := 0, oldest := 0 }) ∧
      ((r.enabled = false ∨ r.pend = 0 ∨ r.tus = 0 ∨ s.time.toNat < r.oldest + 1000 * r.tus) →
        exec (.hostRingTimer die ring) s = .next s))

/-- Invalidation of translations (R49, R390): a TLBICTL write while GO reads 0 makes GO read 1 and fixes the range that
the two registers then name (the page of a space that holds TLBIVA, a space, everything); a write while GO reads 1 does
nothing. Until TLBI_DONE an access may use the old translation or the new; then every held translation of the range goes,
the remote ones too, with the LM lines of the range on every core; once no access that used such a translation is
outstanding, what those accesses left in LM goes too, and GO reads 0 again when no write-back of the range is out. Memory
changes only by LM lines written back. A write with KIND 2 keeps ASID; one with KIND 3, which names nothing, leaves GO at
0 (log entry 66). Key slots (R82, R86, R391): LOAD makes a FREE slot LOADED with the key that KEYDATA holds, and KEYDATA
reads zero; RETIRE makes a LOADED slot FREE, its material staying until nothing outstanding uses it; BIND and UNBIND set
and clear a LOADED slot's group; a command on a slot in another state sets ERR and changes no slot. Cancels of other
modules are answered when no retired slot holds material any more. When what is held goes and that a key's material stays
until KEY_ERASE are the model's readings (log entries 32, 33). -/
def Obligations.TranslationsAndKeys : Prop :=
  (∀ s : State,
    let begun (ctl : Nat) : State :=
      { s with tlbictl := BitVec.ofNat 64 ctl, tlbiGo := true, tlbiRun := (s.tlbiva, BitVec.ofNat 64 ctl), tlbiOps := [], tlbiOld := none }
    (s.tlbiGo = true → ∀ a, exec (.tlbiOnePage a) s = .next s ∧ exec (.tlbiOneSpace a) s = .next s ∧ exec .tlbiAll s = .next s) ∧
    (s.tlbiGo = false → s.takesHost = true →
      (∀ a : BitVec 6, exec (.tlbiOnePage a) s = .next (begun a.toNat) ∧ exec (.tlbiOneSpace a) s = .next (begun (a.toNat + 256))) ∧
      exec .tlbiAll s = .next (begun 512)) ∧
    (s.tlbiGo = false → exec .tlbiDone s = .next s) ∧
    (s.tlbiGo = true → s.tlbiOld = none → exec .tlbiDone s = .next (s.tlbiDrop s.tlbiCover)) ∧
    (∀ pages, s.tlbiGo = true → s.tlbiOld = some pages →
      (s.tlbiBusy = true → exec .tlbiDone s = .next s) ∧
      (s.tlbiBusy = false →
        let t := s.cores.foldl (fun t e => t.coreInvalidate s.tlbiCover pages e.1) s
        ((∃ e ∈ t.cores, s.tlbiCover.backs e.2 = true) → exec .tlbiDone s = .next t) ∧
        ((∀ e ∈ t.cores, s.tlbiCover.backs e.2 = false) →
          exec .tlbiDone s = .next { t with tlbiGo := false, tlbiOps := [], tlbiOld := none }))) ∧
    (s.tlbiBusy = true ↔ ∃ e ∈ s.tlbiOps, ∃ n ∈ e.2, (∃ o ∈ (s.getCore e.1).ops, o.id = n ∧ o.done = false) ∨
      ∃ w ∈ (s.getCore e.1).sent, w.1 = n) ∧
    (let t := s.tlbiDrop s.tlbiCover
     let a := s.tlbiRun.2.toNat % 64
     let kind := s.tlbiRun.2.toNat / 256 % 4
     let va := s.tlbiRun.1.toNat / 2 ^ 16 % 2 ^ 40 * 2 ^ 16
     let gone (k : Nat) (e : TlbEntry) : Bool :=
       if kind = 0 then k / 2 ^ 42 = a && k % 2 ^ 40 * pageSize (k / 2 ^ 40 % 4) / pageSize e.level = va / pageSize e.level
       else if kind = 1 then decide (k / 2 ^ 42 = a) else true
     (∀ k l, (k, l) ∈ t.tlb ↔ l ≠ [] ∧ ∃ l0, (k, l0) ∈ s.tlb ∧ l = l0.filter fun e => !gone k e) ∧
     (kind = 1 → ∀ k e, (k, e) ∈ t.remotePages ↔ (k, e) ∈ s.remotePages ∧ k / 2 ^ 39 ≠ a) ∧
     (2 ≤ kind → t.remotePages = []) ∧
     t.launches = s.launches ∧ t.spaces = s.spaces ∧ (s.cores = [] → t.mem = s.mem ∧ t.host = s.host))) ∧
  (∀ (s : State) (slot : BitVec 12),
    let k := Tbl.getD s.keys slot.toNat ⟨false, none, none⟩
    let put (k : KeySlot) : State := { s with keys := Tbl.set s.keys slot.toNat k, keyErr := false, keyLast := slot.toNat }
    let err : State := { s with keyErr := true, keyLast := slot.toNat }
    (s.takesHost = true →
      (k.loaded = false → exec (.keyLoad slot) s = .next
        { put ⟨true, some (ofBytes 512 (s.keydata.flatMap fun w => leBytes 8 w.toNat)), none⟩ with keydata := List.replicate 8 0 }) ∧
      (k.loaded = true → exec (.keyLoad slot) s = .next err) ∧
      (k.loaded = true → exec (.keyRetire slot) s = .next (put ⟨false, k.key, none⟩) ∧
        (∀ g, exec (.keyBind slot g) s = .next (put { k with group := some g.toNat })) ∧
        exec (.keyUnbind slot) s = .next (put { k with group := none })) ∧
      (k.loaded = false → exec (.keyRetire slot) s = .next err ∧ (∀ g, exec (.keyBind slot g) s = .next err) ∧
        exec (.keyUnbind slot) s = .next err)) ∧
    (s.takesHost = false → exec (.keyLoad slot) s = .next s ∧ exec (.keyRetire slot) s = .next s ∧
      (∀ g, exec (.keyBind slot g) s = .next s) ∧ exec (.keyUnbind slot) s = .next s) ∧
    (k.loaded = false → k.key ≠ none →
      ((∀ c ∈ s.cores, ∀ o ∈ c.2.ops, o.done = false → ∀ v ∈ o.via, v.2.2.key ≠ k.key) →
        let t : State := { s with keys := Tbl.set s.keys slot.toNat { k with key := none } }
        (t.keysErased = false → exec (.keyErase slot) s = .next t) ∧
        (t.keysErased = true → exec (.keyErase slot) s =
          .next { t with owed := 0, out := t.out ++ List.replicate t.owed (.remoteAnswer true []) })) ∧
      ((∃ c ∈ s.cores, ∃ o ∈ c.2.ops, o.done = false ∧ ∃ v ∈ o.via, v.2.2.key = k.key) → exec (.keyErase slot) s = .next s)) ∧
    (k.loaded = true → exec (.keyErase slot) s = .next s))

/-- The host's registers, dispatch tables and the aperture (R8, R69, R164, R166, R236, R383, R384, R387, R396): a register
write that is not aligned or while the module takes none changes nothing; a space's ASROOT, ASTVEC and ASCTL take what is
written, EN staying set while the space is active; TLBIVA, KEYDATA, a slot's gp registers, a slot's other registers only
while it is IDLE; a dispatch table that is valid takes only the clearing of VALID, and one whose capacities do not ascend
is not made valid; an aperture read gives memory's bytes, a write stores them, and neither changes a register of a core.
The masks, the BOUND check, writes in RECOVERY and accesses outside memory are the model's readings (log entries 35, 36). -/
def Obligations.HostRegistersAndAperture : Prop :=
  ∀ s : State,
    (∀ off value, off % 8 ≠ 0 ∨ s.takesHost = false → exec (.registerWrite off value) s = .next s) ∧
    (s.takesHost = true →
      (∀ (a : Nat) (v : Word64), a < 64 →
        let sp := Tbl.getD s.spaces a Space.start
        let put (sp : Space) : State := { s with spaces := Tbl.set s.spaces a sp }
        exec (.registerWrite (0x1000 + 32 * a) v) s = .next (put { sp with root := v }) ∧
        exec (.registerWrite (0x1000 + 32 * a + 8) v) s = .next (put { sp with tvec := v.setWidth 54 }) ∧
        (sp.en = true → s.spaceActive a = true → v.getLsbD 0 = false →
          exec (.registerWrite (0x1000 + 32 * a + 16) v) s = .next s) ∧
        ((sp.en = false ∨ s.spaceActive a = false ∨ v.getLsbD 0 = true) →
          exec (.registerWrite (0x1000 + 32 * a + 16) v) s = .next (put { sp with en := v.getLsbD 0 }))) ∧
      (∀ v, exec (.registerWrite 0x2000 v) s = .next { s with tlbiva := v &&& 0x00FF_FFFF_FFFF_0000 }) ∧
      (∀ v : Word64, s.tlbiGo = false → (v.getLsbD 31 = false ∨ v.toNat / 256 % 4 = 3) →
        exec (.registerWrite 0x2008 v) s = .next { s with tlbictl := v &&& 0x33F }) ∧
      (∀ v : Word64, s.tlbiGo = false → v.getLsbD 31 = true → v.toNat / 256 % 4 ≠ 3 → ∃ t,
        exec (.registerWrite 0x2008 v) s = .next t ∧ t.tlbictl = v &&& 0x33F ∧ t.tlbiGo = true ∧
          t.tlbiRun = (s.tlbiva, v &&& 0x33F) ∧ t.tlb = s.tlb ∧ t.mem = s.mem ∧ t.cores = s.cores) ∧
      (∀ i v, i < 8 → exec (.registerWrite (0x2100 + 8 * i) v) s = .next { s with keydata := s.keydata.set i v }) ∧
      (∀ die slot v, die < 4 → slot < 64 →
        let b := 0x10_0000 * (die + 1) + 0x8_0000 + 0x200 * slot
        let g := s.getSlot die slot
        (∀ i, i < 32 → exec (.registerWrite (b + 0x100 + 8 * i) v) s =
          .next (s.setSlot die slot { g with gp := Tbl.set g.gp i v })) ∧
        (g.phase = .idle → exec (.registerWrite b v) s = .next (s.setSlot die slot { g with gbase := v }) ∧
          exec (.registerWrite (b + 0x10) v) s = .next (s.setSlot die slot { g with gcomp := v }) ∧
          exec (.registerWrite (b + 0x38) v) s = .next (s.setSlot die slot { g with gnodes := v.toNat % 2 ^ 16 })) ∧
        (g.phase ≠ .idle → ∀ o, o < 0x40 → o % 8 = 0 → exec (.registerWrite (b + o) v) s = .next s)) ∧
      (∀ (die : Nat) (t : BitVec 3) (v : Word64),
        let d := s.getTable die t.toNat
        (d.valid = true → v.getLsbD 16 = true → exec (.dispatchTableWrite die t 0 v) s = .next s) ∧
        (d.valid = true → ∀ off, off % 8 = 0 → 8 ≤ off → off ≤ 0x78 → exec (.dispatchTableWrite die t off v) s = .next s) ∧
        (d.valid = false →
          exec (.dispatchTableWrite die t 0x70 v) s = .next (if d.ordered then s.setTable die t.toNat { d with biasaddr := v } else s) ∧
          (v.getLsbD 16 = true → ascending d.bound = false → exec (.dispatchTableWrite die t 0 v) s = .next s) ∧
          (v.getLsbD 16 = true → ascending d.bound = true → ∃ u : DTable,
            exec (.dispatchTableWrite die t 0 v) s = .next (s.setTable die t.toNat u) ∧ u.valid = true ∧ u.mb = 0 ∧
            u.counts = [] ∧ u.nexp = v.toNat % 2 ^ 16 ∧ u.bound = d.bound ∧ u.sched = d.sched))) ∧
      (∀ off n, off + n ≤ 2 ^ 36 →
        let pa := s.aperbase.toNat + off
        backedRange pa n = true → s.badRange pa n = false →
          exec (.hostApertureAccess (.read off n)) s = .next { s with out := s.out ++ [.hostRead (s.physBytes pa n)] }) ∧
      (∀ off bytes, off + bytes.length ≤ 2 ^ 36 →
        let pa := s.aperbase.toNat + off
        backedRange pa bytes.length = true → s.partialBad pa bytes.length = false → pa + bytes.length ≤ farBase → s.MemoryWf →
          (∀ l, pa / 128 ≤ l → l ≤ (pa + bytes.length - 1) / 128 → Tbl.get? s.stamps l = none) →
          ∃ t, exec (.hostApertureAccess (.write off bytes)) s = .next t ∧ (s.waiters = [] → t.cores = s.cores) ∧ t.host = s.host ∧ t.out = s.out ∧
            ∀ a, Mem.read t.mem a = if pa ≤ a ∧ a < pa + bytes.length then bytes.getD (a - pa) 0 else Mem.read s.mem a)) ∧
    (s.takesHost = false → ∀ off bytes n,
      exec (.hostApertureAccess (.write off bytes)) s = .next s ∧
      exec (.hostApertureAccess (.read off n)) s = .next { s with out := s.out ++ [.hostRead (List.replicate n 0)] })

/-- The reset levels (R385, R386, R407): FUNCTION and a PCIe function-level reset leave no launch, no running core, no
graph, ring, space or key, and only the root group; what the level does not name stays: time, the boot state, the
measurements and the management registers; vaults and node memory read zero; MODULE also runs the boot sequence, POWER
loses device memory and module time as well, and both leave the module READY, in RECOVERY with BOOTERR set, or waiting for
MODID; ten seconds without MODID end in RECOVERY with code 7. In RECOVERY a RESETCTL write does nothing; a die has 4 to 32
tiles a core, by fours. Whether HBM and the links train is free, and what a level keeps beyond the words of R385 is the
model's reading, and the binding of a reset over management is free (log entries 34, 37, 43, 72). -/
def Obligations.ResetLevels : Prop :=
  ∀ s : State,
    let emptied (t : State) : Prop := t.cores = [] ∧ t.clusters = [] ∧ t.launches = [] ∧ t.images = [] ∧ t.spaces = [] ∧
      t.keys = [] ∧ t.roots = [] ∧ t.tlb = [] ∧ t.groups = [(0, Group.root)] ∧ t.keydata = List.replicate 8 0 ∧
      t.tlbiGo = false ∧ t.aperbase = 0 ∧ t.arriving = [] ∧ t.waiters = []
    let cleared (t : State) : Prop := emptied t ∧ t.time = s.time ∧ t.boot = s.boot ∧ t.meas = s.meas ∧ t.modId = s.modId ∧
      t.mgmt = s.mgmt ∧ t.host = s.host ∧
      (∀ die, (t.getDie die).tasks = [] ∧ (t.getDie die).slots = [] ∧ (t.getDie die).hrings = [] ∧
        (t.getDie die).dtables = [] ∧ (t.getDie die).nodes = [] ∧ (t.getDie die).hlaunch = [] ∧
        (t.getDie die).tilecap = (s.getDie die).tilecap ∧ (t.getDie die).hot = (s.getDie die).hot) ∧
      (s.MemoryWf → ∀ a, Mem.read t.mem a = match regionOf a with
        | some (.vault _ _) => 0
        | some (.node _) => 0
        | _ => Mem.read s.mem a)
    let booted (t : State) (now : Word64) : Prop := emptied t ∧ t.time = now ∧ t.host = s.host ∧
      (s.hbmFails = true → t.boot = 2 ∧ t.booterr = 1) ∧
      (∀ c, s.hbmFails = false → s.mgmt.bootBank = .error c → t.boot = 2 ∧ t.booterr = c) ∧
      (∀ b, s.hbmFails = false → s.mgmt.bootBank = .ok b →
        (s.linksFail = true → t.boot = 2 ∧ t.booterr = 6) ∧
        (s.linksFail = false → t.booterr = b.2 ∧
          (s.mgmt.modid.getLsbD 12 = true → t.boot = 1 ∧ t.modId = s.mgmt.modid.setWidth 12) ∧
          (s.mgmt.modid.getLsbD 12 = false → t.boot = 0))) ∧
      ∀ die, die < 4 → 4 ≤ (t.getDie die).tilecap ∧ (t.getDie die).tilecap ≤ 32 ∧ (t.getDie die).tilecap % 4 = 0
    (∃ t, exec .pcieFlr s = .next t ∧ cleared t) ∧
    (s.boot ≠ 2 → (∃ t, exec .resetctlFunction s = .next t ∧ cleared t) ∧ ∃ t, exec .resetctlModule s = .next t ∧ booted t s.time) ∧
    (s.boot = 2 → exec .resetctlFunction s = .next s ∧ exec .resetctlModule s = .next s) ∧
    (∃ t, exec .powerOn s = .next t ∧ booted t 0 ∧ t.mem = []) ∧
    (s.boot ≠ 2 → ∃ t, exec .managementModuleReset s = .next t ∧
      if s.hostBinding then t = { s with out := s.out ++ [.mctp 2 0] } else booted t s.time) ∧
    (s.boot = 2 → exec .managementModuleReset s = .next { s with out := s.out ++ [.mctp 3 0] }) ∧
    (s.boot = 0 → s.svn ≠ 0 → s.mgmt.modid.getLsbD 12 = false →
      exec .modidTimeout s = .next { s with boot := 2, booterr := 7 }) ∧
    ((s.boot ≠ 0 ∨ s.svn = 0 ∨ s.mgmt.modid.getLsbD 12 = true) → exec .modidTimeout s = .next s)

/-- The management endpoint's registers (R168, R406 to R409, R413 to R415, R418, R419): a request in RECOVERY answers
BUSY, but for a read of MODID; a read answers a register's value, an offset that names none BAD_REQUEST; a write over the
host's binding is DENIED, whichever register it names; PCAP and PFLOOR take only values in range with PFLOOR + 1,000 at
most PCAP, from the next period on; CNTCLR zeroes the counts of the units its bits name; a cleared FAILED bit leaves the
entry's other bits; the oldest waiting event goes to the receiver once one is set. DENIED for a PCAP out of range and what
a cleared FAILED bit forgets are the model's choices; BUSY for a host-binding write in RECOVERY, a MODID write that ends
boot at once, and the binding of a request whose event names none are too (log entries 38, 40, 42, 72). -/
def Obligations.ManagementRegisters : Prop :=
  ∀ s : State,
    let answered (t : State) (code : Nat) (v : Word64) : State := { t with out := t.out ++ [.mctp code v] }
    let mgmt (m : Mgmt) : State := { s with mgmt := m }
    (∀ hb, exec (.mctpRead hb 0) s = .next (answered s 0 s.mgmt.modid)) ∧
    (s.boot = 2 → ∀ hb off v, (off ≠ 0 → exec (.mctpRead hb off) s = .next (answered s 3 0)) ∧
      exec (.mctpWrite hb off v) s = .next (answered s 3 0) ∧ exec (.cntclr v) s = .next (answered s 3 0) ∧
      exec (.pcapWrite v) s = .next (answered s 3 0) ∧ exec (.pfloorWrite v) s = .next (answered s 3 0) ∧
      exec (.modidWrite v) s = .next (answered s 3 0) ∧ exec (.setEventReceiver off) s = .next (answered s 3 0)) ∧
    (s.boot ≠ 2 →
      (∀ hb off, off % 8 ≠ 0 → exec (.mctpRead hb off) s = .next (answered s 1 0)) ∧
      (∀ hb i, i < 64 → exec (.mctpRead hb (0x500 + 8 * i)) s = .next (answered s 0 (Tbl.getD s.mgmt.kvdrain i 0))) ∧
      (∀ hb, exec (.mctpRead hb 0x10) s = .next (answered s 0 (BitVec.ofNat 64 s.mgmt.pcapNext))) ∧
      (∀ off v, exec (.mctpWrite true off v) s = .next (answered s 2 0)) ∧
      (∀ i v, i < 64 → exec (.mctpWrite false (0x500 + 8 * i) v) s =
        .next (answered (mgmt { s.mgmt with kvdrain := Tbl.set s.mgmt.kvdrain i v }) 0 0)) ∧
      (∀ v, exec (.mctpWrite false 0x30 v) s = .next (answered (mgmt { s.mgmt with eolwarn := v.setWidth 16 }) 0 0)) ∧
      (∀ v : Word64, let c := v.toNat % 2 ^ 13
        exec (.pcapWrite v) s = .next
          (if 1000 ≤ c ∧ c ≤ 4000 ∧ s.mgmt.pfloorNext + 1000 ≤ c then answered (mgmt { s.mgmt with pcapNext := c }) 0 0
           else answered s 2 0)) ∧
      (∀ v : Word64, let f := v.toNat % 2 ^ 12
        exec (.pfloorWrite v) s = .next
          (if f + 1000 ≤ s.mgmt.pcapNext then answered (mgmt { s.mgmt with pfloorNext := f }) 0 0 else answered s 2 0)) ∧
      (∀ v : Word64, ∃ t, exec (.cntclr v) s = .next t ∧ t.out = s.out ++ [.mctp 0 0] ∧ t.mgmt.pcapNext = s.mgmt.pcapNext ∧
        ∀ u w, (u, w) ∈ t.mgmt.errcnt ↔
          (u, w) ∈ s.mgmt.errcnt ∧ ¬ (u / 64 = v.toNat / 2 ^ 62 ∧ v.getLsbD (u % 64) = true)) ∧
      (∀ v : Word64, (s.boot ≠ 0 ∨ s.svn = 0 ∨ v.getLsbD 12 = false) →
        exec (.modidWrite v) s = .next (answered (mgmt { s.mgmt with modid := v &&& 0x1FFF }) 0 0)) ∧
      (∀ v : Word64, s.boot = 0 → s.svn ≠ 0 → v.getLsbD 12 = true → ∃ t, exec (.modidWrite v) s = .next t ∧ t.boot = 1 ∧
        t.modId = v.setWidth 12 ∧ t.mgmt.modid = v &&& 0x1FFF ∧ t.out = s.out ++ [.mctp 0 0]) ∧
      (∀ (die : Nat) (t : BitVec 3) (e : Nat), e < 1024 → ∃ u, exec (.failedClear die t e) s = .next u ∧
        if s.hostBinding then u = answered s 2 0
        else u.out = s.out ++ [.mctp 0 0] ∧ ∀ n, Tbl.getD (u.getDie die).failover n 0 =
          if n = 1024 * t.toNat + e then Tbl.getD (s.getDie die).failover n 0 &&& 0x7FFF_FFFF_FFFF_FFFF
          else Tbl.getD (s.getDie die).failover n 0) ∧
      (∀ r, exec (.setEventReceiver r) s = .next
        (if s.hostBinding then answered s 2 0 else answered (mgmt { s.mgmt with receiver := some r }) 0 0))) ∧
    (∀ c u a rest r, s.mgmt.waiting = (c, u, a) :: rest → s.mgmt.receiver = some r →
      exec .platformEventMessage s = .next { mgmt { s.mgmt with waiting := rest } with out := s.out ++ [.event c u a] }) ∧
    (s.mgmt.waiting = [] ∨ s.mgmt.receiver = none → exec .platformEventMessage s = .next s)

/-- Firmware update and attestation (R386, R406, R420, R421): an update is asked for over the management binding, one at a
time; bytes of the image go to the bank that does not run; an image that passes its checks is verified, one that fails
leaves both banks as they were; activation marks the new bank for the next boot; a report is the 320 bytes that Table 4
signs, with the nonce, the boot state and the eight measurements, a signature under the module's key, that key and its
certificate. A request over the host's binding is DENIED; the binding of one whose event names none is free (log entry
72). The layout of an image, the order of its checks and the restored bank are the model's readings, signatures are
constants without a body (log entries 4, 37, 38). -/
def Obligations.FirmwareUpdateAndAttestation : Prop :=
  ∀ s : State,
    let m := s.mgmt
    let answered (t : State) (code : Nat) (v : Word64) : State := { t with out := t.out ++ [.mctp code v] }
    let off := if m.running then m.flash0 else m.flash1
    (exec (.requestUpdate true) s = .next (answered s 2 0)) ∧
    (m.upd ≠ .none → exec (.requestUpdate false) s = .next (answered s 3 0)) ∧
    (m.upd = .none →
      exec (.requestUpdate false) s = .next (answered { s with mgmt := { m with upd := .requested, saved := off } } 0 0)) ∧
    (∀ o bytes, m.upd = .requested → o + bytes.length ≤ off.length → ∃ t, exec (.firmwareImageTransfer o bytes) s = .next t ∧
      if s.hostBinding then t = answered s 2 0
      else (if m.running then t.mgmt.flash1 = m.flash1 else t.mgmt.flash0 = m.flash0) ∧
      ∀ i, (if m.running then t.mgmt.flash0 else t.mgmt.flash1)[i]? =
        if o ≤ i ∧ i < o + bytes.length then bytes[i - o]? else off[i]?) ∧
    (∀ o bytes, m.upd ≠ .requested → exec (.firmwareImageTransfer o bytes) s =
      .next (if s.hostBinding then answered s 2 0 else s)) ∧
    (m.upd = .requested →
      (imageFails m.svnMin off = none →
        exec .verifyComplete s = .next
          (if s.hostBinding then answered s 2 0 else answered { s with mgmt := { m with upd := .verified } } 0 0)) ∧
      (∀ c, imageFails m.svnMin off = some c → ∃ t, exec .verifyComplete s = .next t ∧
        if s.hostBinding then t = answered s 2 0 else t.mgmt.upd = .none ∧ t.out = s.out ++ [.mctp 4 (BitVec.ofNat 64 c)] ∧
        (if m.running then t.mgmt.flash0 = m.saved ∧ t.mgmt.flash1 = m.flash1
         else t.mgmt.flash1 = m.saved ∧ t.mgmt.flash0 = m.flash0))) ∧
    (m.upd ≠ .requested → exec .verifyComplete s = .next (if s.hostBinding then answered s 2 0 else s)) ∧
    (∀ raise, m.upd = .verified → exec (.activateFirmware raise) s = .next (if s.hostBinding then answered s 2 0 else
      answered { s with mgmt := { m with upd := .none, saved := [], marked := !m.running, svnRaise := raise } } 0 0)) ∧
    (∀ raise, m.upd ≠ .verified → exec (.activateFirmware raise) s =
      .next (if s.hostBinding then answered s 2 0 else s)) ∧
    (∀ bs, imageFails m.svnMin bs = none → 16320 ≤ bs.length ∧ fld bs 0 4 = 0x4F56_4657 ∧
      sha256 (slice bs 16320 (fld bs 8 8)) = slice bs 0x10 32 ∧ leNat (sha256 (slice bs 0x30 48)) = Config.romKeyHash ∧
      Config.slhDsaVerify (slice bs 0x30 48) (slice bs 0 0x60) (slice bs 0x60 16224) = true ∧ max 1 m.svnMin ≤ fld bs 4 4) ∧
    (∀ nonce : BitVec 256, let m0 := (s.reportMeas 0).toNat
      ∃ body, exec (.attest nonce) s = .next { s with out := s.out ++
        [.report (body ++ leBytes 16224 (Config.slhDsaSign m0 body).toNat) (leBytes 48 (Config.identityKey m0).toNat)
          (Config.identityCert m0)] } ∧
      body.length = 320 ∧ fld body 0 4 = 0x4F56_4154 ∧ fld body 0x18 32 = nonce.toNat ∧ fld body 0x10 8 = s.time.toNat ∧
      (s.boot ≠ 2 → ∀ i, i < 8 → fld body (0x38 + 32 * i) 32 = (Tbl.getD s.meas i 0).toNat) ∧
      (s.boot = 2 → ∀ i, 1 ≤ i → i < 8 → fld body (0x38 + 32 * i) 32 = 0))

/-- Power, heat and health (R409 to R411, R415): a period meets the demands in the order SRAM and HBM, links, vector,
arrays out of PCAP, PFLOOR kept for the arrays; a hot die's arrays are gated all period; CAPPED says whether any demand
was not met; a trip makes its die hot with an event, and a clear ends that; AGE is as refreshed; the first prediction
below EOLWARN gives an event. Heartbeats, time and links (R168, R407, R408, R416, R417, R419): an interval lasts HBP µs,
and then a heartbeat goes to every primary of the die's experts but this module; an answer forgets the misses; when three
in a row are missed its experts' entries are FAILED (HBP = 0 counts as 1 µs: log entry 65); a lock sets LOCK and EVER and
moves time forward by nothing or by more than 1 ms; an unlock clears LOCK with an event; a port that goes down has no
lanes and gives an event; a retrained one is up, unless its neighbour claims this module's number; routes name the modules
reachable. The draw, the rounding, the event units and the step at a lock are free or the model's choices (log entries 39,
40, 42, 65). -/
def Obligations.FleetHealth : Prop :=
  (∀ s : State,
    let m := s.mgmt
    let put (die : Nat) (d : Die) : State := { s with dies := Tbl.set s.dies die d }
    (∀ sram hbm links vector arrays, ∃ t, exec (.arbiterPeriod sram hbm links vector arrays) s = .next t ∧
      t.mgmt.pcap = m.pcapNext ∧ t.mgmt.pfloor = m.pfloorNext ∧
      (let left := m.pcapNext - sram - hbm
       let gl := min links (left - m.pfloorNext)
       let gv := min vector (left - gl - m.pfloorNext)
       let ga := min arrays (left - gl - gv)
       (t.mgmt.capped = true ↔ gl < links ∨ gv < vector ∨ ga < arrays) ∧
       (∀ die, die < 4 → (s.getDie die).hot = false → links ≤ gl → vector ≤ gv → arrays ≤ ga →
         (t.getDie die).lnkgate = (s.getDie die).lnkgate ∧ (t.getDie die).vecgate = (s.getDie die).vecgate ∧
         (t.getDie die).arrgate = (s.getDie die).arrgate) ∧
       (∀ die, die < 4 → (s.getDie die).hot = true → (s.getDie die).arrgate.toNat + 3760 < 2 ^ 64 →
         (t.getDie die).arrgate = (s.getDie die).arrgate + 3760)) ∧
      t.cores = s.cores ∧ t.mem = s.mem) ∧
    (∀ die, die < 4 →
      exec (.thermalClear die) s = .next (put die { s.getDie die with hot := false }) ∧
      (∀ v, exec (.ageRefresh die v) s = .next (put die { s.getDie die with age := v })) ∧
      ((∀ e ∈ m.waiting, ¬ (e.1 = 2 ∧ e.2.1 = die)) → exec (.thermalTrip die) s = .next
        { put die { s.getDie die with hot := true } with mgmt := { m with waiting := m.waiting ++ [(2, die, 0)] } })) ∧
    (∀ months : BitVec 16, ∃ t, exec (.eolRecompute months) s = .next t ∧ t.mgmt.eol = months ∧
      (months.toNat < m.eolwarn.toNat → m.eolSent = false → (∀ e ∈ m.waiting, ¬ (e.1 = 3 ∧ e.2.1 = 0)) →
        t.mgmt.waiting = m.waiting ++ [(3, 0, 0)]) ∧
      (m.eolwarn.toNat ≤ months.toNat ∨ m.eolSent = true → t.mgmt.waiting = m.waiting) ∧ t.cores = s.cores)) ∧
  (∀ s : State,
    let m := s.mgmt
    (∀ die, s.time.toNat < (s.getDie die).beatAt → exec (.heartbeat die) s = .next s) ∧
    (∀ die, (s.getDie die).beatAt ≤ s.time.toNat →
      let d := s.getDie die
      let word (n : Nat) : Word64 := Tbl.getD d.failover n 0
      let held (n p : Nat) : Prop := natBits (word n).toNat 0 12 = p ∧ ∃ tb ∈ d.dtables, ∃ e, e < tb.2.nexp ∧ n = 1024 * tb.1 + e
      let misses (p : Nat) : Nat := Tbl.getD d.missed p 0 / 2 + Tbl.getD d.missed p 0 % 2
      ∃ (u : State) (ms : List Nat), exec (.heartbeat die) s = .next u ∧ ms.Nodup ∧
        (∀ p, p ∈ ms ↔ p ≠ s.modId.toNat ∧ ∃ n, held n p) ∧ u.out = s.out ++ ms.map (Msg.heartbeat die) ∧
        (u.getDie die).beatAt = s.time.toNat + 1000 * max 1 m.hbp.toNat ∧
        (∀ p, Tbl.getD (u.getDie die).missed p 0 = if p ∈ ms then 2 * misses p + 1 else Tbl.getD d.missed p 0) ∧
        (∀ n, ((∃ p ∈ ms, held n p ∧ 3 ≤ misses p) → Tbl.getD (u.getDie die).failover n 0 = word n ||| 0x8000_0000_0000_0000) ∧
          ((¬ ∃ p ∈ ms, held n p ∧ 3 ≤ misses p) → Tbl.getD (u.getDie die).failover n 0 = word n)) ∧
        u.cores = s.cores ∧ u.mem = s.mem ∧ u.time = s.time) ∧
    (∀ die (module : BitVec 12), exec (.heartbeatAnswer die module) s =
      .next { s with dies := Tbl.set s.dies die { s.getDie die with missed := Tbl.erase (s.getDie die).missed module.toNat } }) ∧
    (∃ t, exec .timeLock s = .next t ∧ t.mgmt.lock = true ∧ t.mgmt.ever = true ∧ s.time.toNat ≤ t.time.toNat ∧
      (t.time = s.time ∨ s.time.toNat + 1_000_000 < t.time.toNat) ∧ t.cores = s.cores ∧ t.mem = s.mem) ∧
    (m.lock = true → ∃ t, exec .timeUnlock s = .next t ∧ t.mgmt.lock = false ∧ t.mgmt.unlockAt = s.time ∧
      t.mgmt.ever = m.ever ∧ (∃ a, (5, 0, a) ∈ t.mgmt.waiting) ∧ t.time = s.time) ∧
    (m.lock = false → exec .timeUnlock s = .next s) ∧
    (∀ port, port < 16 → ∃ t, exec (.portDown port) s = .next t ∧
      (s.getPort port).nmod = (t.getPort port).nmod ∧ (t.getPort port).up = false ∧ (t.getPort port).lanes = 0 ∧
      (∃ a, (4, port, a) ∈ t.mgmt.waiting) ∧ t.mgmt.reachable = m.reachable) ∧
    (∀ port (lanes nport : BitVec 4) (nmod : BitVec 12), port < 16 → (s.getPort port).up = false → (lanes = 8 ∨ lanes = 4) →
      let p : Port := if nmod = s.modId then ⟨0, nport, nmod, true, false⟩ else ⟨lanes, nport, nmod, false, true⟩
      exec (.portRetrain port lanes nport nmod) s = .next { s with mgmt := { m with ports := Tbl.set m.ports port p } }) ∧
    (∀ port (lanes nport : BitVec 4) (nmod : BitVec 12), (s.getPort port).up = true →
      exec (.portRetrain port lanes nport nmod) s = .next s) ∧
    (∀ r : List (BitVec 12), exec (.routeRecompute r) s =
      .next { s with mgmt := { m with reachable := r.map fun x => x.toNat } }))

/-- Attention (R110 to R112): a pass leaves a row's maximum where no visible score lies above -inf; else the maximum joins
the visible scores, a NaN giving NaN; weights are exponentials of score less maximum, quantised by blocks of 32; the row
sum and each element of O are scaled and added to; after the last pass NORM divides O by the row sum, and a row with sum 0
gives +0. A task runs this on every query row with the Raw sums of its keys. That a row with l = 0 gives +0 even where O
holds a NaN, and a NaN in one element of O stays there, are the model's choices (log entries 61, 68). The draw of a
request (R132, R135, R136, R138, R139): over the living tokens by value, the lowest number among equals; none alive is
EMPTY; greedy takes the first; a random draw takes the first whose running weight exceeds the drawn share of the sum, else
the last, and advances its counter, or is RNGWRAP where the position would wrap without WRAPOK; PROB is the weight over
the sum. A request of the sampler or the beam engine (R126, R127, R130, R131): EXPIRED past its deadline; BADREQ, and
nothing else, for a field out of range or a chain that does not pass; the sampler draws over the tokens its stages leave;
the beam engine writes the best K of the sums of beam score and logit, with their indexes, NANS, SHORT and the valid
outputs. -/
def Obligations.EngineResults : Prop :=
  (let sum (s : Nat) (v : FVal) : Nat := (roundF32 ((f32.dec s).add v).1).1.toNat
  let mul (a b : Nat) : Nat := (roundF32 ((f32.dec a).mul (f32.dec b)).1).1.toNat
  let less (a b : Nat) : Nat := sum a (f32.dec b).neg
  let nan (a : Nat) : Bool := (f32.dec a).isNan
  let exp (a : Nat) : Nat := (roundF32 (f32.dec a).exp.1).1.toNat
  (∀ (scale : Nat) (keys : List (Nat × Bool)) (pv : List BfpBlock → List Nat × Ev) (r : AttnRow),
    let a := attnPass scale (keys.map (·.1)) (keys.map (·.2)) pv r
    let sc := keys.map fun k => (mul scale k.1, k.2)
    let hidden : Prop := ∀ k ∈ sc, k.2 = true → k.1 = 0xFF80_0000
    let tops : List Nat := r.m :: (sc.filter (·.2)).map (·.1)
    (hidden → a.m = r.m) ∧
    (¬ hidden →
      ((∃ x ∈ tops, nan x = true) → a.m = 0x7FC0_0000) ∧
      ((∀ x ∈ tops, nan x = false) → a.m ∈ tops ∧ ∀ x ∈ tops, (f32.dec a.m).lt (f32.dec x) = false)) ∧
    ∃ (c : Nat) (w : List Nat) (bs : List BfpBlock),
      (hidden → c = 0x3F80_0000 ∧ w = keys.map fun _ => 0) ∧
      (¬ hidden → c = exp (less r.m a.m) ∧ w = sc.map fun k => if k.2 then exp (less k.1 a.m) else 0) ∧
      bs.length = (keys.length + 31) / 32 ∧
      (∀ i, i < bs.length → bs[i]? = some (toBfp ((List.range 32).map fun j => w.getD (32 * i + j) 0) 8 .rne).1) ∧
      a.l = sum (mul r.l c) (f32.dec ((bs.map fun b => b.m.map fun x =>
        if b.e = 255 then FVal.nan false else .fin (decide (x < 0)) x.natAbs ((b.e : Int) - 134)).flatten.foldl sum 0)) ∧
      a.o = List.zipWith (fun x y => sum (mul x c) (f32.dec y)) r.o (pv bs).1) ∧
  (∀ (norm : Bool) (r : AttnRow),
    let a := attnFinish norm r
    a.m = r.m ∧ a.l = r.l ∧
    (norm = false → a.o = r.o) ∧
    (norm = true → r.l % 2 ^ 31 = 0 → a.o = r.o.map fun _ => 0) ∧
    (norm = true → r.l % 2 ^ 31 ≠ 0 → a.o = r.o.map fun x => (roundF32 ((f32.dec x).div (f32.dec r.l)).1).1.toNat) ∧
    ((nan r.m = true ∨ nan r.l = true ∨ ∃ x ∈ a.o, nan x = true) → a.ev &&& evInv = evInv)) ∧
  (∀ (d : AttnDesc) (i j : Nat), visible d none i j = true ↔ d.causal = false ∨ (j : Int) ≤ d.qbase + i + d.coff) ∧
  (∀ (s : State) (cluster core : Nat) (o : Op) (q k v : BitVec 256) (d : AttnDesc) (shape : Option ShapeRec) (fe : FEq) (bank rows : Nat)
      (qs ks vs : List (List BfpBlock)),
    o.kind = .mattn q k v d shape fe bank rows →
    let u := o.prog
    let f := attnFold d.d
    let keys := (List.range (passKeys d u)).map fun j => d.kbase + u * (1024 * f) + j
    (∃ i, i < rows ∧ ∃ j ∈ keys, visible d shape i j = true) →
    s.passData (s.opAgent core o) q k v d rows u false = .ok (qs, ks, vs) →
      let b := (s.getCore core).bank bank
      let b := if d.init && u = 0 then { (b.init ⟨.sum, rows, d.d⟩) with vals := [] } else b
      let short := decide (gBl q * ceilDiv d.d (gBl q) < 1024 / f)
      let row (i : Nat) : AttnRow :=
        let raws := ks.map fun key => rawSum (gM q) (gM k) 0 1 short (qs.getD i []) key
        let pv (bs : List BfpBlock) : List Nat × Ev := mapEv (fun col => rawSum 8 (gM v) 32 f true bs col) vs
        let r := attnPass d.scale.toNat (raws.map (·.1)) (keys.map (visible d shape i)) pv (b.attnRow d.d i)
        if u + 1 = o.kind.tasks then attnFinish d.norm r else r
      ∃ t, ((s.issueAttn cluster core o).getCluster cluster).onV = some t ∧ t.core = core ∧ t.op = o.id ∧ t.unit = u ∧
        t.vals = ((List.range rows).map fun i => (List.range d.d).map fun c =>
          (i * d.d + c, BitVec.ofNat 32 ((row i).o.getD c 0))).flatten ∧
        t.maxs = (List.range rows).map (fun i => (i, BitVec.ofNat 32 (row i).m)) ∧
        t.sums = (List.range rows).map (fun i => (i, BitVec.ofNat 32 (row i).l)))) ∧
  (∀ (b : List Byte) (ts : List Tok8), (ts.map (·.t)).Nodup → (∀ x ∈ ts, x.alive = true → x.z < 2 ^ 32 ∧ (f32.dec x.z).isNan = false) →
    let val (z : Nat) : FVal := f32.dec z
    let rnd (v : FVal) : Nat := (roundF32 v).1.toNat
    let d := drawStage b ts
    let fl := fld b 1 1
    ((∀ x ∈ ts, x.alive = false) → d = ⟨9, 0xFFFF_FFFF, 0, 0, none⟩) ∧
    ((∃ x ∈ ts, x.alive = true) → ∃ l : List Tok8, l.Perm (ts.filter (·.alive)) ∧
      l.Pairwise (fun x y => (val y.z).lt (val x.z) = true ∨ (val y.z).eq (val x.z) = true ∧ x.t < y.t) ∧
      (let top := (l.headD ⟨0, 0, false⟩).z
       let e := l.map fun x =>
         if top = 0x7F80_0000 then (if x.z = 0x7F80_0000 then 0x3F80_0000 else 0)
         else rnd (val (rnd ((val x.z).add (val top).neg).1)).exp.1
       let acc (n : Nat) : Nat := (e.take n).foldl (fun s x => rnd ((val s).add (val x)).1) 0
       let result (i : Nat) (ctr : Option (Nat × Nat × Bool)) : Drawn :=
         ⟨1, (l.map (·.t)).getD i 0, rnd ((val (e.getD i 0)).div (val (acc l.length))).1, l.length, ctr⟩
       (fl % 2 = 0 → d = result 0 none) ∧
       (fl % 2 = 1 →
         let pos := fld b 8 4
         let idx := fld b 4 2
         let wraps := idx = 0xFFFF ∧ pos = 0xFFFF_FFFF
         let n := (pos * 2 ^ 16 + idx + 1) % 2 ^ 48
         (wraps → fl / 2 % 2 = 0 → d = ⟨32, 0xFFFF_FFFF, 0, 0, none⟩) ∧
         (¬ (wraps ∧ fl / 2 % 2 = 0) → ∃ i, i < l.length ∧
           d = result i (some (n % 2 ^ 16, n / 2 ^ 16, decide (wraps ∨ fl / 4 % 2 = 1))) ∧
           (let r := gen32 (ofBytes 128 (slice b 16 16)) (BitVec.ofNat 32 pos) (BitVec.ofNat 16 idx) (BitVec.ofNat 16 (fld b 6 2))
            let x := rnd ((FVal.fin false (r.toNat / 256) (-24)).mul (val (acc l.length))).1
            (∀ j, j < i → (val x).lt (val (acc (j + 1))) = false) ∧
            (i + 1 < l.length → (val x).lt (val (acc (i + 1))) = true))))))) ∧
  (∀ (s : State) (die : Nat) (r : EngRef) (c : EngCmd) (base : Nat) (began : Word64) (rq : List Byte),
    s.vread c.agent c.answer base 64 = .ok rq →
    let field (o n : Nat) : Nat := fld rq o n
    let expired := (s.groupCount c.group true).putFields
    (let d := BitVec.ofNat 48 (field 0x18 6)
     let bad := s.putFields c.agent base [(0x16, leBytes 2 16)]
     let chain := field 8 8
     let ns := field 0x14 1
     let voc := field 0x10 4
     let wrong : Prop := chain % 64 ≠ 0 ∨ voc = 0 ∨ 2 ^ 20 < voc ∨ ns = 0 ∨ 16 < ns ∨ field 0x15 1 ≠ 0 ∨ field 0x1E 2 ≠ 0 ∨
       field 0x30 16 ≠ 0
     (passed began d = true → s.sampleOne die c base began = expired c.agent base [(0x16, leBytes 2 2)]) ∧
     (passed began d = false → wrong → s.sampleOne die c base began = bad) ∧
     (∀ cb, passed began d = false → ¬ wrong → s.vread c.agent c.answer chain (64 * ns) = .ok cb →
       let bs := (List.range ns).map fun i => slice cb (64 * i) 64
       let kind (b : List Byte) : Nat := fld b 0 1
       (((∃ b ∈ bs, kind b = 0 ∨ 6 < kind b) ∨ (∃ b ∈ bs.dropLast, kind b = 6) ∨ kind (bs.getLastD []) ≠ 6 ∨
           (∃ b ∈ bs, kind b = 1 ∧ ((f32.dec 0).lt (f32.dec (fld b 4 4)) = false ∨ fld b 4 4 / 2 ^ 23 % 256 = 255)) ∨
           (∃ b ∈ bs, kind b = 5 ∧ (f32.dec (fld b 8 4)).isNan = true)) →
         s.sampleOne die c base began = bad) ∧
       (∀ lg ts nans, chainOk bs = true → s.vread c.agent c.answer (field 0 8) (4 * voc) = .ok lg →
         s.runChain c voc bs.dropLast
           ((List.range voc).map fun t => let z := fld lg (4 * t) 4
             ⟨t, z, !((f32.dec z).isNan || z = 0xFF80_0000)⟩)
           ((List.range voc).filter fun t => (f32.dec (fld lg (4 * t) 4)).isNan).length = .ok (ts, nans) →
         s.sampleOne die c base began = s.putDrawn die c base chain bs nans (drawStage (bs.getLastD []) ts)))) ∧
    (let d := BitVec.ofNat 48 (field 0x30 6)
     let voc := field 0x28 4
     let nb := field 0x2C 1
     let k := field 0x2D 1
     let wrong : Prop := voc = 0 ∨ 2 ^ 20 < voc ∨ nb = 0 ∨ 64 < nb ∨ k = 0 ∨ 64 < k ∨ nb * voc < k ∨ 1 < field 0x2E 2
     (passed began d = true → s.beamOne die r c base began = .wrote (expired c.agent base [(0x36, leBytes 2 2)])) ∧
     (passed began d = false → wrong → s.beamOne die r c base began = .wrote (s.putFields c.agent base [(0x36, leBytes 2 16)])) ∧
     (∀ lg sc t, passed began d = false → ¬ wrong → field 0x2E 2 = 0 →
       s.vread c.agent c.answer (field 0 8) (4 * nb * voc) = .ok lg → s.vread c.agent c.answer (field 8 8) (4 * nb) = .ok sc →
       let all := ((List.range nb).map fun b => (List.range voc).map fun t =>
         ((roundF32 ((f32.dec (fld sc (4 * b) 4)).add (f32.dec (fld lg (4 * (b * voc + t)) 4))).1).1.toNat, b * 2 ^ 20 + t)).flatten
       let good := all.filter fun p => !(f32.dec p.1).isNan
       s.vwrite c.agent (field 0x10 8) (((topK good k).map fun p => leBytes 4 p.1 ++ leBytes 4 p.2).flatten) = (t, none) →
         s.beamOne die r c base began = .wrote (t.putFields c.agent base [(0x38, leBytes 8 (all.length - good.length)),
           (0x36, leBytes 2 (1 + (if good.length < k then 8 else 0) + 256 * min k good.length))]))))
end

