-- ==== Sys2Proof/Laws/Codec.lean ====
section
/-! SUPPORT. Lemmas about cutting words that the encoder has put together: what the decoder reads back from each format. -/

set_option linter.unusedSimpArgs false

namespace Sys2Proof

theorem bits_low {m k : Nat} (a : BitVec m) (b : BitVec k) (lo n : Nat) (h : lo + n ≤ k) :
    bits (a ++ b) lo n = bits b lo n := by
  apply BitVec.eq_of_getLsbD_eq
  intro i hi
  simp only [bits, BitVec.getLsbD_extractLsb', BitVec.getLsbD_append]
  rw [if_pos (by omega)]

theorem bits_high {m k : Nat} (a : BitVec m) (b : BitVec k) (lo n : Nat) (h : k ≤ lo) :
    bits (a ++ b) lo n = bits a (lo - k) n := by
  apply BitVec.eq_of_getLsbD_eq
  intro i hi
  simp only [bits, BitVec.getLsbD_extractLsb', BitVec.getLsbD_append]
  rw [if_neg (by omega)]
  congr 2
  omega

theorem bits_all {n : Nat} (a : BitVec n) : bits a 0 n = a := by
  apply BitVec.eq_of_getLsbD_eq
  intro i hi
  simp [bits, hi]

theorem bit_low {m k : Nat} (a : BitVec m) (b : BitVec k) (i : Nat) (h : i < k) : (a ++ b).getLsbD i = b.getLsbD i := by
  rw [BitVec.getLsbD_append, if_pos h]

theorem bit_high {m k : Nat} (a : BitVec m) (b : BitVec k) (i : Nat) (h : k ≤ i) : (a ++ b).getLsbD i = a.getLsbD (i - k) := by
  rw [BitVec.getLsbD_append, if_neg (by omega)]

theorem bit_ofBool (b : Bool) : (BitVec.ofBool b).getLsbD 0 = b := by cases b <;> rfl

@[simp] theorem Tok.dec_enc (t : Tok) : Tok.dec t.enc = t := by
  cases t with | mk a b c d => cases a <;> cases b <;> cases c <;> cases d <;> rfl

/-- The header of a one-word form is the one its first word holds. -/
theorem Hdr.of_oneWord (h : Hdr) (w : h.oneWord = true) : (⟨h.t0, h.g, h.gn, Tok.dec (BitVec.ofNat 4 0)⟩ : Hdr) = h := by
  obtain ⟨t0, g, gn, ⟨a, b, c, d⟩⟩ := h
  simp only [Hdr.oneWord, Tok.clear, Bool.and_eq_true, Bool.not_eq_true'] at w
  obtain ⟨⟨⟨rfl, rfl⟩, rfl⟩, rfl⟩ := w
  rfl

theorem hasExt_pack (t : Tok) (g : BitVec 4) (gn x : Bool) (maj : BitVec 6) (f : BitVec 16) :
    hasExt (packW0 t g gn x maj f) = x := by
  unfold hasExt packW0
  simp (disch := omega) only [bit_low, bit_high, Nat.reduceSub, bit_ofBool]

theorem majOf_pack (t : Tok) (g : BitVec 4) (gn x : Bool) (maj : BitVec 6) (f : BitVec 16) :
    majOf (packW0 t g gn x maj f) = maj.toNat := by
  unfold majOf packW0
  simp (disch := omega) only [bits_low, bits_high, bits_all, Nat.sub_self]

theorem decode_one (q : SeqId) (t : Tok) (g : BitVec 4) (gn : Bool) (maj : BitVec 6) (f : BitVec 16) (e : Word32) :
    decodeWords q (packW0 t g gn false maj f) e = decMajor q maj.toNat ⟨⟨t, g, gn, Tok.dec 0⟩, f, none⟩ := by
  unfold decodeWords cut
  rw [hasExt_pack, majOf_pack]
  unfold packW0
  simp (disch := omega) only [bits_low, bits_high, bits_all, bit_low, bit_high, Nat.reduceSub, bit_ofBool, Tok.dec_enc,
    Bool.false_eq_true, if_false]

theorem decode_two (q : SeqId) (t u : Tok) (g : BitVec 4) (gn : Bool) (maj : BitVec 6) (f : BitVec 16) (p : BitVec 28) :
    decodeWords q (packW0 t g gn true maj f) (packE u p) = decMajor q maj.toNat ⟨⟨t, g, gn, u⟩, f, some p⟩ := by
  unfold decodeWords cut
  rw [hasExt_pack, majOf_pack]
  unfold packW0 packE
  simp (disch := omega) only [bits_low, bits_high, bits_all, bit_low, bit_high, Nat.reduceSub, bit_ofBool, Tok.dec_enc,
    if_true]

/-! ### packReg -/

@[simp] theorem packReg_d (d : BitVec 4) (a : BitVec 4) (b : BitVec 4) (s : BitVec 4) : bits (packReg d a b s) 12 4 = d := by
  unfold packReg
  simp (disch := omega) only [bits_low, bits_high, bits_all, Nat.reduceSub]

@[simp] theorem packReg_a (d : BitVec 4) (a : BitVec 4) (b : BitVec 4) (s : BitVec 4) : bits (packReg d a b s) 8 4 = a := by
  unfold packReg
  simp (disch := omega) only [bits_low, bits_high, bits_all, Nat.reduceSub]

@[simp] theorem packReg_b (d : BitVec 4) (a : BitVec 4) (b : BitVec 4) (s : BitVec 4) : bits (packReg d a b s) 4 4 = b := by
  unfold packReg
  simp (disch := omega) only [bits_low, bits_high, bits_all, Nat.reduceSub]

@[simp] theorem packReg_s (d : BitVec 4) (a : BitVec 4) (b : BitVec 4) (s : BitVec 4) : bits (packReg d a b s) 0 4 = s := by
  unfold packReg
  simp (disch := omega) only [bits_low, bits_high, bits_all, Nat.reduceSub]

@[simp] theorem packReg_s3 (d a b s : BitVec 4) : (packReg d a b s).getLsbD 3 = s.getLsbD 3 := by
  unfold packReg
  simp (disch := omega) only [bit_low]

@[simp] theorem packReg_sLow (d a b s : BitVec 4) : bits (packReg d a b s) 0 3 = bits s 0 3 := by
  unfold packReg
  simp (disch := omega) only [bits_low]

/-! ### packImm -/

@[simp] theorem packImm_d (d : BitVec 4) (v : BitVec 12) : bits (packImm d v) 12 4 = d := by
  unfold packImm
  simp (disch := omega) only [bits_low, bits_high, bits_all, Nat.reduceSub]

@[simp] theorem packImm_v (d : BitVec 4) (v : BitVec 12) : bits (packImm d v) 0 12 = v := by
  unfold packImm
  simp (disch := omega) only [bits_low, bits_high, bits_all, Nat.reduceSub]

@[simp] theorem packImm_v11 (d : BitVec 4) (v : BitVec 12) : (packImm d v).getLsbD 11 = v.getLsbD 11 := by
  unfold packImm
  simp (disch := omega) only [bit_low]

@[simp] theorem packImm_vLow (d : BitVec 4) (v : BitVec 12) : bits (packImm d v) 0 11 = bits v 0 11 := by
  unfold packImm
  simp (disch := omega) only [bits_low]

/-! ### packFlow -/

@[simp] theorem packFlow_s (s : BitVec 3) (l : BitVec 13) : bits (packFlow s l) 13 3 = s := by
  unfold packFlow
  simp (disch := omega) only [bits_low, bits_high, bits_all, Nat.reduceSub]

@[simp] theorem packFlow_l (s : BitVec 3) (l : BitVec 13) : bits (packFlow s l) 0 13 = l := by
  unfold packFlow
  simp (disch := omega) only [bits_low, bits_high, bits_all, Nat.reduceSub]

/-! ### packCpl -/

@[simp] theorem packCpl_s (s : BitVec 4) (r : BitVec 4) (n : BitVec 8) : bits (packCpl s r n) 12 4 = s := by
  unfold packCpl
  simp (disch := omega) only [bits_low, bits_high, bits_all, Nat.reduceSub]

@[simp] theorem packCpl_r (s : BitVec 4) (r : BitVec 4) (n : BitVec 8) : bits (packCpl s r n) 8 4 = r := by
  unfold packCpl
  simp (disch := omega) only [bits_low, bits_high, bits_all, Nat.reduceSub]

@[simp] theorem packCpl_n (s : BitVec 4) (r : BitVec 4) (n : BitVec 8) : bits (packCpl s r n) 0 8 = n := by
  unfold packCpl
  simp (disch := omega) only [bits_low, bits_high, bits_all, Nat.reduceSub]

/-! ### packMem -/

@[simp] theorem packMem_xr (xr : BitVec 4) (a : BitVec 3) (sz : BitVec 3) (fe : BitVec 2) (k : BitVec 3) (kv : Bool) : bits (packMem xr a sz fe k kv) 12 4 = xr := by
  unfold packMem
  simp (disch := omega) only [bits_low, bits_high, bits_all, Nat.reduceSub]

@[simp] theorem packMem_a (xr : BitVec 4) (a : BitVec 3) (sz : BitVec 3) (fe : BitVec 2) (k : BitVec 3) (kv : Bool) : bits (packMem xr a sz fe k kv) 9 3 = a := by
  unfold packMem
  simp (disch := omega) only [bits_low, bits_high, bits_all, Nat.reduceSub]

@[simp] theorem packMem_sz (xr : BitVec 4) (a : BitVec 3) (sz : BitVec 3) (fe : BitVec 2) (k : BitVec 3) (kv : Bool) : bits (packMem xr a sz fe k kv) 6 3 = sz := by
  unfold packMem
  simp (disch := omega) only [bits_low, bits_high, bits_all, Nat.reduceSub]

@[simp] theorem packMem_fe (xr : BitVec 4) (a : BitVec 3) (sz : BitVec 3) (fe : BitVec 2) (k : BitVec 3) (kv : Bool) : bits (packMem xr a sz fe k kv) 4 2 = fe := by
  unfold packMem
  simp (disch := omega) only [bits_low, bits_high, bits_all, Nat.reduceSub]

@[simp] theorem packMem_k (xr : BitVec 4) (a : BitVec 3) (sz : BitVec 3) (fe : BitVec 2) (k : BitVec 3) (kv : Bool) : bits (packMem xr a sz fe k kv) 1 3 = k := by
  unfold packMem
  simp (disch := omega) only [bits_low, bits_high, bits_all, Nat.reduceSub]

@[simp] theorem packMem_kv (xr : BitVec 4) (a : BitVec 3) (sz : BitVec 3) (fe : BitVec 2) (k : BitVec 3) (kv : Bool) : (packMem xr a sz fe k kv).getLsbD 0 = kv := by
  unfold packMem
  simp (disch := omega) only [bit_low, bit_high, Nat.reduceSub, bit_ofBool]

/-! ### packTile -/

@[simp] theorem packTile_tb (tb : BitVec 11) (et : BitVec 4) (sat : Bool) : bits (packTile tb et sat) 5 11 = tb := by
  unfold packTile
  simp (disch := omega) only [bits_low, bits_high, bits_all, Nat.reduceSub]

@[simp] theorem packTile_et (tb : BitVec 11) (et : BitVec 4) (sat : Bool) : bits (packTile tb et sat) 1 4 = et := by
  unfold packTile
  simp (disch := omega) only [bits_low, bits_high, bits_all, Nat.reduceSub]

@[simp] theorem packTile_sat (tb : BitVec 11) (et : BitVec 4) (sat : Bool) : (packTile tb et sat).getLsbD 0 = sat := by
  unfold packTile
  simp (disch := omega) only [bit_low, bit_high, Nat.reduceSub, bit_ofBool]

/-! ### packTileE -/

@[simp] theorem packTileE_td (td : BitVec 11) (ta : BitVec 11) (sub : BitVec 3) (md : BitVec 3) : bits (packTileE td ta sub md) 17 11 = td := by
  unfold packTileE
  simp (disch := omega) only [bits_low, bits_high, bits_all, Nat.reduceSub]

@[simp] theorem packTileE_ta (td : BitVec 11) (ta : BitVec 11) (sub : BitVec 3) (md : BitVec 3) : bits (packTileE td ta sub md) 6 11 = ta := by
  unfold packTileE
  simp (disch := omega) only [bits_low, bits_high, bits_all, Nat.reduceSub]

@[simp] theorem packTileE_sub (td : BitVec 11) (ta : BitVec 11) (sub : BitVec 3) (md : BitVec 3) : bits (packTileE td ta sub md) 3 3 = sub := by
  unfold packTileE
  simp (disch := omega) only [bits_low, bits_high, bits_all, Nat.reduceSub]

@[simp] theorem packTileE_md (td : BitVec 11) (ta : BitVec 11) (sub : BitVec 3) (md : BitVec 3) : bits (packTileE td ta sub md) 0 3 = md := by
  unfold packTileE
  simp (disch := omega) only [bits_low, bits_high, bits_all, Nat.reduceSub]

@[simp] theorem packTileE_taHigh (td ta : BitVec 11) (sub md : BitVec 3) : bits (packTileE td ta sub md) 11 6 = bits ta 5 6 := by
  have e : ∀ i, (packTileE td ta sub md).getLsbD (6 + i) = if i < 11 then ta.getLsbD i else td.getLsbD (i - 11) := by
    intro i
    unfold packTileE
    rw [bit_high _ _ _ (by omega), bit_high _ _ _ (by omega), BitVec.getLsbD_append]
    have a : 6 + i - 3 - 3 = i := by omega
    rw [a]
  apply BitVec.eq_of_getLsbD_eq
  intro i hi
  simp only [bits, BitVec.getLsbD_extractLsb']
  have := e (5 + i)
  rw [if_pos (by omega)] at this
  rw [← this]
  congr 2
  omega

@[simp] theorem packTileE_taFlag (td ta : BitVec 11) (sub md : BitVec 3) : (packTileE td ta sub md).getLsbD 10 = ta.getLsbD 4 := by
  unfold packTileE
  simp (disch := omega) only [bit_low, bit_high, Nat.reduceSub]

@[simp] theorem packTileE_taLow (td ta : BitVec 11) (sub md : BitVec 3) : bits (packTileE td ta sub md) 6 4 = bits ta 0 4 := by
  have e : ∀ i, i < 4 → (packTileE td ta sub md).getLsbD (6 + i) = ta.getLsbD i := by
    intro i hi
    unfold packTileE
    rw [bit_high _ _ _ (by omega), bit_high _ _ _ (by omega), bit_low _ _ _ (by omega)]
    congr 1
    omega
  apply BitVec.eq_of_getLsbD_eq
  intro i hi
  simp only [bits, BitVec.getLsbD_extractLsb']
  rw [e i hi, Nat.zero_add]

/-! ### packTmem -/

@[simp] theorem packTmem_t (t : BitVec 5) (row : BitVec 4) (nr : BitVec 4) (a : BitVec 3) : bits (packTmem t row nr a) 11 5 = t := by
  unfold packTmem
  simp (disch := omega) only [bits_low, bits_high, bits_all, Nat.reduceSub]

@[simp] theorem packTmem_row (t : BitVec 5) (row : BitVec 4) (nr : BitVec 4) (a : BitVec 3) : bits (packTmem t row nr a) 7 4 = row := by
  unfold packTmem
  simp (disch := omega) only [bits_low, bits_high, bits_all, Nat.reduceSub]

@[simp] theorem packTmem_nr (t : BitVec 5) (row : BitVec 4) (nr : BitVec 4) (a : BitVec 3) : bits (packTmem t row nr a) 3 4 = nr := by
  unfold packTmem
  simp (disch := omega) only [bits_low, bits_high, bits_all, Nat.reduceSub]

@[simp] theorem packTmem_a (t : BitVec 5) (row : BitVec 4) (nr : BitVec 4) (a : BitVec 3) : bits (packTmem t row nr a) 0 3 = a := by
  unfold packTmem
  simp (disch := omega) only [bits_low, bits_high, bits_all, Nat.reduceSub]

/-! ### packTmemE -/

@[simp] theorem packTmemE_off (off : BitVec 20) (fe : BitVec 2) (dir : Bool) (rsv : Bool) (k : BitVec 3) (kv : Bool) : bits (packTmemE off fe dir rsv k kv) 8 20 = off := by
  unfold packTmemE
  simp (disch := omega) only [bits_low, bits_high, bits_all, Nat.reduceSub]

@[simp] theorem packTmemE_fe (off : BitVec 20) (fe : BitVec 2) (dir : Bool) (rsv : Bool) (k : BitVec 3) (kv : Bool) : bits (packTmemE off fe dir rsv k kv) 6 2 = fe := by
  unfold packTmemE
  simp (disch := omega) only [bits_low, bits_high, bits_all, Nat.reduceSub]

@[simp] theorem packTmemE_dir (off : BitVec 20) (fe : BitVec 2) (dir : Bool) (rsv : Bool) (k : BitVec 3) (kv : Bool) : (packTmemE off fe dir rsv k kv).getLsbD 5 = dir := by
  unfold packTmemE
  simp (disch := omega) only [bit_low, bit_high, Nat.reduceSub, bit_ofBool]

@[simp] theorem packTmemE_rsv (off : BitVec 20) (fe : BitVec 2) (dir : Bool) (rsv : Bool) (k : BitVec 3) (kv : Bool) : (packTmemE off fe dir rsv k kv).getLsbD 4 = rsv := by
  unfold packTmemE
  simp (disch := omega) only [bit_low, bit_high, Nat.reduceSub, bit_ofBool]

@[simp] theorem packTmemE_k (off : BitVec 20) (fe : BitVec 2) (dir : Bool) (rsv : Bool) (k : BitVec 3) (kv : Bool) : bits (packTmemE off fe dir rsv k kv) 1 3 = k := by
  unfold packTmemE
  simp (disch := omega) only [bits_low, bits_high, bits_all, Nat.reduceSub]

@[simp] theorem packTmemE_kv (off : BitVec 20) (fe : BitVec 2) (dir : Bool) (rsv : Bool) (k : BitVec 3) (kv : Bool) : (packTmemE off fe dir rsv k kv).getLsbD 0 = kv := by
  unfold packTmemE
  simp (disch := omega) only [bit_low, bit_high, Nat.reduceSub, bit_ofBool]

/-! ### packCmdE -/

@[simp] theorem packCmdE_acq (acq : BitVec 3) (rel : BitVec 3) (k : BitVec 3) (kv : Bool) (cf : BitVec 18) : bits (packCmdE acq rel k kv cf) 25 3 = acq := by
  unfold packCmdE
  simp (disch := omega) only [bits_low, bits_high, bits_all, Nat.reduceSub]

@[simp] theorem packCmdE_rel (acq : BitVec 3) (rel : BitVec 3) (k : BitVec 3) (kv : Bool) (cf : BitVec 18) : bits (packCmdE acq rel k kv cf) 22 3 = rel := by
  unfold packCmdE
  simp (disch := omega) only [bits_low, bits_high, bits_all, Nat.reduceSub]

@[simp] theorem packCmdE_k (acq : BitVec 3) (rel : BitVec 3) (k : BitVec 3) (kv : Bool) (cf : BitVec 18) : bits (packCmdE acq rel k kv cf) 19 3 = k := by
  unfold packCmdE
  simp (disch := omega) only [bits_low, bits_high, bits_all, Nat.reduceSub]

@[simp] theorem packCmdE_kv (acq : BitVec 3) (rel : BitVec 3) (k : BitVec 3) (kv : Bool) (cf : BitVec 18) : (packCmdE acq rel k kv cf).getLsbD 18 = kv := by
  unfold packCmdE
  simp (disch := omega) only [bit_low, bit_high, Nat.reduceSub, bit_ofBool]

@[simp] theorem packCmdE_cf (acq : BitVec 3) (rel : BitVec 3) (k : BitVec 3) (kv : Bool) (cf : BitVec 18) : bits (packCmdE acq rel k kv cf) 0 18 = cf := by
  unfold packCmdE
  simp (disch := omega) only [bits_low, bits_high, bits_all, Nat.reduceSub]

/-! ### packSync -/

@[simp] theorem packSync_s (s : BitVec 4) (sc : BitVec 3) (k : BitVec 3) (cv : BitVec 2) (xa : BitVec 4) : bits (packSync s sc k cv xa) 12 4 = s := by
  unfold packSync
  simp (disch := omega) only [bits_low, bits_high, bits_all, Nat.reduceSub]

@[simp] theorem packSync_sc (s : BitVec 4) (sc : BitVec 3) (k : BitVec 3) (cv : BitVec 2) (xa : BitVec 4) : bits (packSync s sc k cv xa) 9 3 = sc := by
  unfold packSync
  simp (disch := omega) only [bits_low, bits_high, bits_all, Nat.reduceSub]

@[simp] theorem packSync_k (s : BitVec 4) (sc : BitVec 3) (k : BitVec 3) (cv : BitVec 2) (xa : BitVec 4) : bits (packSync s sc k cv xa) 6 3 = k := by
  unfold packSync
  simp (disch := omega) only [bits_low, bits_high, bits_all, Nat.reduceSub]

@[simp] theorem packSync_cv (s : BitVec 4) (sc : BitVec 3) (k : BitVec 3) (cv : BitVec 2) (xa : BitVec 4) : bits (packSync s sc k cv xa) 4 2 = cv := by
  unfold packSync
  simp (disch := omega) only [bits_low, bits_high, bits_all, Nat.reduceSub]

@[simp] theorem packSync_xa (s : BitVec 4) (sc : BitVec 3) (k : BitVec 3) (cv : BitVec 2) (xa : BitVec 4) : bits (packSync s sc k cv xa) 0 4 = xa := by
  unfold packSync
  simp (disch := omega) only [bits_low, bits_high, bits_all, Nat.reduceSub]

/-! ### packRing -/

@[simp] theorem packRing_s (s : BitVec 3) (b : BitVec 3) (a : BitVec 3) (n : BitVec 7) : bits (packRing s b a n) 13 3 = s := by
  unfold packRing
  simp (disch := omega) only [bits_low, bits_high, bits_all, Nat.reduceSub]

@[simp] theorem packRing_b (s : BitVec 3) (b : BitVec 3) (a : BitVec 3) (n : BitVec 7) : bits (packRing s b a n) 10 3 = b := by
  unfold packRing
  simp (disch := omega) only [bits_low, bits_high, bits_all, Nat.reduceSub]

@[simp] theorem packRing_a (s : BitVec 3) (b : BitVec 3) (a : BitVec 3) (n : BitVec 7) : bits (packRing s b a n) 7 3 = a := by
  unfold packRing
  simp (disch := omega) only [bits_low, bits_high, bits_all, Nat.reduceSub]

@[simp] theorem packRing_n (s : BitVec 3) (b : BitVec 3) (a : BitVec 3) (n : BitVec 7) : bits (packRing s b a n) 0 7 = n := by
  unfold packRing
  simp (disch := omega) only [bits_low, bits_high, bits_all, Nat.reduceSub]

/-! ### vamoCf -/

@[simp] theorem vamoCf_tv (tv : BitVec 5) (rv : BitVec 4) (ti : BitVec 5) (ri : BitVec 4) : bits (vamoCf tv rv ti ri) 13 5 = tv := by
  unfold vamoCf
  simp (disch := omega) only [bits_low, bits_high, bits_all, Nat.reduceSub]

@[simp] theorem vamoCf_rv (tv : BitVec 5) (rv : BitVec 4) (ti : BitVec 5) (ri : BitVec 4) : bits (vamoCf tv rv ti ri) 9 4 = rv := by
  unfold vamoCf
  simp (disch := omega) only [bits_low, bits_high, bits_all, Nat.reduceSub]

@[simp] theorem vamoCf_ti (tv : BitVec 5) (rv : BitVec 4) (ti : BitVec 5) (ri : BitVec 4) : bits (vamoCf tv rv ti ri) 4 5 = ti := by
  unfold vamoCf
  simp (disch := omega) only [bits_low, bits_high, bits_all, Nat.reduceSub]

@[simp] theorem vamoCf_ri (tv : BitVec 5) (rv : BitVec 4) (ti : BitVec 5) (ri : BitVec 4) : bits (vamoCf tv rv ti ri) 0 4 = ri := by
  unfold vamoCf
  simp (disch := omega) only [bits_low, bits_high, bits_all, Nat.reduceSub]

/-! ### pdCf -/

@[simp] theorem pdCf_flag (flag : Bool) (pd : BitVec 4) : (pdCf flag pd).getLsbD 4 = flag := by
  unfold pdCf
  simp (disch := omega) only [bit_low, bit_high, Nat.reduceSub, bit_ofBool]

@[simp] theorem pdCf_pd (flag : Bool) (pd : BitVec 4) : bits (pdCf flag pd) 0 4 = pd := by
  unfold pdCf
  simp (disch := omega) only [bits_low, bits_high, bits_all, Nat.reduceSub]

@[simp] theorem pdCf_zero (flag : Bool) (pd : BitVec 4) : bits (pdCf flag pd) 5 13 = 0 := by
  unfold pdCf
  simp (disch := omega) only [bits_low, bits_high, bits_all, Nat.reduceSub]

@[simp] theorem bits_glue40 (v : BitVec 40) : bits v 12 28 ++ bits v 0 12 = v := by
  apply BitVec.eq_of_getLsbD_eq
  intro i hi
  rw [BitVec.getLsbD_append]
  simp only [bits, BitVec.getLsbD_extractLsb']
  by_cases c : i < 12
  · rw [if_pos c, decide_eq_true c, Bool.true_and, Nat.zero_add]
  · rw [if_neg c, decide_eq_true (by omega : i - 12 < 28), Bool.true_and, Nat.add_sub_cancel' (by omega)]

@[simp] theorem bits_glue41 (v : BitVec 41) : bits v 13 28 ++ bits v 0 13 = v := by
  apply BitVec.eq_of_getLsbD_eq
  intro i hi
  rw [BitVec.getLsbD_append]
  simp only [bits, BitVec.getLsbD_extractLsb']
  by_cases c : i < 13
  · rw [if_pos c, decide_eq_true c, Bool.true_and, Nat.zero_add]
  · rw [if_neg c, decide_eq_true (by omega : i - 13 < 28), Bool.true_and, Nat.add_sub_cancel' (by omega)]

@[simp] theorem bits_glue37 (v : BitVec 37) : bits v 9 28 ++ bits v 0 9 = v := by
  apply BitVec.eq_of_getLsbD_eq
  intro i hi
  rw [BitVec.getLsbD_append]
  simp only [bits, BitVec.getLsbD_extractLsb']
  by_cases c : i < 9
  · rw [if_pos c, decide_eq_true c, Bool.true_and, Nat.zero_add]
  · rw [if_neg c, decide_eq_true (by omega : i - 9 < 28), Bool.true_and, Nat.add_sub_cancel' (by omega)]

@[simp] theorem bits_glue39 (v : BitVec 39) : bits v 11 28 ++ bits v 0 11 = v := by
  apply BitVec.eq_of_getLsbD_eq
  intro i hi
  rw [BitVec.getLsbD_append]
  simp only [bits, BitVec.getLsbD_extractLsb']
  by_cases c : i < 11
  · rw [if_pos c, decide_eq_true c, Bool.true_and, Nat.zero_add]
  · rw [if_neg c, decide_eq_true (by omega : i - 11 < 28), Bool.true_and, Nat.add_sub_cancel' (by omega)]

/-! ### Codes -/

@[simp] theorem ICond.dec_enc (c : ICond) : ICond.dec c.enc = .ok c := by cases c <;> rfl

@[simp] theorem ExtW.dec_enc (c : ExtW) : ExtW.dec c.enc = .ok c := by cases c <;> rfl

@[simp] theorem PredW.dec_enc (c : PredW) : PredW.dec c.enc = .ok c := by cases c <;> rfl

@[simp] theorem ElemTy.dec_enc (c : ElemTy) : ElemTy.dec c.enc = .ok c := by cases c <;> rfl

@[simp] theorem RMode.dec_enc (c : RMode) : RMode.dec c.enc = .ok c := by cases c <;> rfl

@[simp] theorem LdSize.dec_enc (c : LdSize) : LdSize.dec c.enc = .ok c := by cases c <;> rfl

@[simp] theorem StSize.dec_enc (c : StSize) : StSize.dec c.enc = .ok c := by cases c <;> rfl

@[simp] theorem FEq.dec_enc (c : FEq) : FEq.dec c.enc = .ok c := by cases c <;> rfl

@[simp] theorem Scope.dec_enc (c : Scope) : Scope.dec c.enc = .ok c := by cases c <;> rfl

@[simp] theorem RedOp.dec_enc (c : RedOp) : RedOp.dec c.enc = .ok c := by cases c <;> rfl

@[simp] theorem FCond.dec_enc (c : FCond) : FCond.dec c.enc = c := by cases c <;> rfl

@[simp] theorem Cover.dec_enc (c : Cover) : Cover.dec c.enc = c := by cases c <;> rfl

@[simp] theorem Arr.dec_enc (c : Arr) : Arr.dec c.enc = c := by cases c <;> rfl

@[simp] theorem DrainMode.dec_enc (c : DrainMode) : DrainMode.dec c.enc = c := by cases c <;> rfl

@[simp] theorem FEq.dec_zero : FEq.dec (BitVec.ofNat 2 0) = .ok .none := rfl

@[simp] theorem OScope.dec_zero : OScope.dec (BitVec.ofNat 3 0) = .ok none := rfl

@[simp] theorem Ctr.dec_zero : Ctr.dec (BitVec.ofNat 3 0) false = .ok none := rfl

theorem regMax_ok (r : BitVec 4) (n : Nat) (h : r.toNat ≤ n) : regMax r n = .ok () := if_pos h

theorem isFp_eq (et : ElemTy) : isFp et = et.isFloat := by cases et <;> rfl

theorem satOk_wf (et : ElemTy) (sat : Bool) (h : wfSat et sat = true) : satOk et sat = .ok () := by
  unfold satOk
  rw [isFp_eq]
  unfold wfSat at h
  cases c : sat && et.isFloat
  · rfl
  · rw [c] at h
    cases h

theorem redOk_wf (op : RedOp) (et : ElemTy) (sat : Bool) (h : wfRed op et sat = true) : redOk op et sat = true := by
  unfold redOk
  unfold wfRed at h
  cases op <;> cases et <;> cases sat <;> first | rfl | exact h

theorem reelVals_wf (vals : TileOp) (n : BitVec 3) (h : wfReelValues vals n = true) : reelVals vals n = true := by
  unfold wfReelValues at h
  unfold reelVals
  by_cases c : n.toNat ≤ 1
  · rw [if_pos c]
  · rw [if_neg c]
    rw [decide_eq_false c, Bool.false_or] at h
    cases vals <;> exact h

@[simp] theorem decInt_enc (et : ElemTy) (h : et.isFloat = false) : decInt et.enc = .ok et := by
  unfold decInt
  rw [ElemTy.dec_enc]
  simp [bind, Except.bind, isFp_eq, h]

@[simp] theorem decFp_enc (et : ElemTy) (h : et.isFloat = true) : decFp et.enc = .ok et := by
  unfold decFp
  rw [ElemTy.dec_enc]
  simp [bind, Except.bind, isFp_eq, h]

@[simp] theorem ElemTy.dec_nine : ElemTy.dec (BitVec.ofNat 4 9) = .ok .u32 := rfl

theorem sfcOk_wf (hil : Bool) (dims : BitVec 2) (r : BitVec 4) : sfcOk hil dims r = wfCurve hil dims r := rfl

@[simp] theorem bits_zero (n lo k : Nat) : bits (BitVec.ofNat n 0) lo k = 0 := by
  apply BitVec.eq_of_getLsbD_eq
  intro i hi
  simp [bits]

@[simp] theorem bits_one13 : bits (BitVec.ofNat 13 1) 1 12 = 0 := rfl

@[simp] theorem table_glue (t : BitVec 8) : bits t 4 4 ++ BitVec.ofBool (t.getLsbD 3) ++ bits t 0 3 = t := by
  apply BitVec.eq_of_getLsbD_eq
  intro i hi
  rw [BitVec.getLsbD_append, BitVec.getLsbD_append]
  simp only [bits, BitVec.getLsbD_extractLsb', BitVec.getLsbD_ofBool]
  by_cases c : i < 3
  · rw [if_pos c, decide_eq_true c, Bool.true_and, Nat.zero_add]
  · rw [if_neg c]
    by_cases d : i = 3
    · subst d
      rfl
    · rw [if_neg (by omega), decide_eq_true (by omega : i - 3 - 1 < 4), Bool.true_and]
      congr 1
      omega

theorem reelEt_wf (et : ElemTy) : reelEt et = wfReelType et := rfl

@[simp] theorem OScope.dec_enc (c : OScope) : OScope.dec (OScope.enc c) = .ok c := by
  cases c with
  | none => rfl
  | some s => cases s <;> rfl

@[simp] theorem FEq.ofBits_enc (f : FEq) : FEq.ofBits f.feBit f.fcBit = .ok f := by cases f <;> rfl

@[simp] theorem Ctr.dec_enc (k : Ctr) : Ctr.dec (Ctr.kBits k) (Ctr.kv k) = .ok k := by cases k <;> rfl

@[simp] theorem OptX.dec_enc (x : Option XReg) : OptX.dec x.isSome (x.getD (BitVec.ofNat 4 0)) = .ok x := by cases x <;> rfl

@[simp] theorem OptRing.dec_enc (b : Option BRing) : OptRing.dec b.isSome (b.getD (BitVec.ofNat 3 0)) = .ok b := by cases b <;> rfl

@[simp] theorem need0_zero (n : Nat) : need0 (BitVec.ofNat n 0) = .ok () := if_pos rfl

@[simp] theorem needFalse_false : needFalse false = .ok () := rfl

@[simp] theorem reg3_up4 (a : BitVec 3) : reg3 (up4 a) = .ok a := by
  unfold reg3 up4
  simp (disch := omega) only [bits_low, bits_all, bit_high, Nat.reduceSub]
  rfl

@[simp] theorem TileOp.dec_enc (t : TileOp) : TileOp.dec t.enc = .ok t := by
  cases t <;> unfold TileOp.dec TileOp.enc <;>
    simp (disch := omega) only [bits_low, bits_high, bits_all, Nat.reduceSub] <;> rfl

theorem TileOp.decD_enc (t : TileOp) (h : t.isDest = true) : TileOp.decD t.enc = .ok t := by
  unfold TileOp.decD
  rw [TileOp.dec_enc]
  cases t <;> first | rfl | cases h

@[simp] theorem decList_enc (t : BitVec 5) (n : BitVec 4) : decList (encList t n) = .ok (t, n) := by
  unfold decList encList
  simp (disch := omega) only [bits_low, bits_high, bits_all, Nat.reduceSub, if_true]

@[simp] theorem decX_enc (x : XReg) : decX (encX x) = .ok x := by
  unfold decX encX
  simp (disch := omega) only [bits_low, bits_high, bits_all, Nat.reduceSub, if_true]

@[simp] theorem decLow_enc (n : BitVec 4) : decLow (encLow n) = .ok n := by
  unfold decLow encLow
  simp (disch := omega) only [bits_low, bits_high, bits_all, Nat.reduceSub, if_true]

/-! ### Majors -/

theorem major_decAlu (q : SeqId) (c : Cut) : decMajor q (BitVec.toNat (1 : BitVec 6)) c = decAlu c := rfl

theorem major_decAlu2 (q : SeqId) (c : Cut) : decMajor q (BitVec.toNat (2 : BitVec 6)) c = decAlu2 c := rfl

theorem major_decLi (q : SeqId) (c : Cut) : decMajor q (BitVec.toNat (3 : BitVec 6)) c = decLi c := rfl

theorem major_decCmp (q : SeqId) (c : Cut) : decMajor q (BitVec.toNat (4 : BitVec 6)) c = decCmp c := rfl

theorem major_decFpu (q : SeqId) (c : Cut) : decMajor q (BitVec.toNat (5 : BitVec 6)) c = decFpu c := rfl

theorem major_decFcmp (q : SeqId) (c : Cut) : decMajor q (BitVec.toNat (6 : BitVec 6)) c = decFcmp c := rfl

theorem major_decPred (q : SeqId) (c : Cut) : decMajor q (BitVec.toNat (7 : BitVec 6)) c = decPred c := rfl

theorem major_decFlow (q : SeqId) (c : Cut) : decMajor q (BitVec.toNat (8 : BitVec 6)) c = decFlow c := rfl

theorem major_decCouple (q : SeqId) (c : Cut) : decMajor q (BitVec.toNat (9 : BitVec 6)) c = decCouple c := rfl

theorem major_decWork (q : SeqId) (c : Cut) : decMajor q (BitVec.toNat (10 : BitVec 6)) c = decWork c := rfl

theorem major_decReel (q : SeqId) (c : Cut) : decMajor q (BitVec.toNat (11 : BitVec 6)) c = decReel c := rfl

theorem major_decLdl (q : SeqId) (c : Cut) : decMajor q (BitVec.toNat (12 : BitVec 6)) c = decLdl c := rfl

theorem major_decLd (q : SeqId) (c : Cut) : decMajor q (BitVec.toNat (13 : BitVec 6)) c = decLd c := rfl

theorem major_decSt (q : SeqId) (c : Cut) : decMajor q (BitVec.toNat (14 : BitVec 6)) c = decSt c := rfl

theorem major_decTmem (q : SeqId) (c : Cut) : decMajor q (BitVec.toNat (15 : BitVec 6)) c = decTmem c := rfl

theorem major_decXfer (q : SeqId) (c : Cut) : decMajor q (BitVec.toNat (16 : BitVec 6)) c = decXfer c := rfl

theorem major_decLmctl (q : SeqId) (c : Cut) : decMajor q (BitVec.toNat (17 : BitVec 6)) c = decLmctl c := rfl

theorem major_decRing (q : SeqId) (c : Cut) : decMajor q (BitVec.toNat (18 : BitVec 6)) c = decRing c := rfl

theorem major_decAmo (q : SeqId) (c : Cut) : decMajor q (BitVec.toNat (19 : BitVec 6)) c = decAmo c := rfl

theorem major_decVamo (q : SeqId) (c : Cut) : decMajor q (BitVec.toNat (20 : BitVec 6)) c = decVamo c := rfl

theorem major_decSync (q : SeqId) (c : Cut) : decMajor q (BitVec.toNat (21 : BitVec 6)) c = decSync c := rfl

theorem major_decVarith (q : SeqId) (c : Cut) : decMajor q (BitVec.toNat (22 : BitVec 6)) c = decVarith c := rfl

theorem major_decVcmpsel (q : SeqId) (c : Cut) : decMajor q (BitVec.toNat (23 : BitVec 6)) c = decVcmpsel c := rfl

theorem major_decVlogic (q : SeqId) (c : Cut) : decMajor q (BitVec.toNat (24 : BitVec 6)) c = decVlogic c := rfl

theorem major_decVshift (q : SeqId) (c : Cut) : decMajor q (BitVec.toNat (25 : BitVec 6)) c = decVshift c := rfl

theorem major_decVperm (q : SeqId) (c : Cut) : decMajor q (BitVec.toNat (26 : BitVec 6)) c = decVperm c := rfl

theorem major_decVcvt (q : SeqId) (c : Cut) : decMajor q (BitVec.toNat (27 : BitVec 6)) c = decVcvt c := rfl

theorem major_decVred (q : SeqId) (c : Cut) : decMajor q (BitVec.toNat (28 : BitVec 6)) c = decVred c := rfl

theorem major_decVfun (q : SeqId) (c : Cut) : decMajor q (BitVec.toNat (29 : BitVec 6)) c = decVfun c := rfl

theorem major_decVrand (q : SeqId) (c : Cut) : decMajor q (BitVec.toNat (30 : BitVec 6)) c = decVrand c := rfl

theorem major_decRlist (q : SeqId) (c : Cut) : decMajor q (BitVec.toNat (31 : BitVec 6)) c = decRlist c := rfl

theorem major_decVsfc (q : SeqId) (c : Cut) : decMajor q (BitVec.toNat (32 : BitVec 6)) c = decVsfc c := rfl

theorem major_decStream (q : SeqId) (c : Cut) : decMajor q (BitVec.toNat (33 : BitVec 6)) c = decStream c := rfl

theorem major_decLease (q : SeqId) (c : Cut) : decMajor q (BitVec.toNat (34 : BitVec 6)) c = decLease c := rfl

theorem major_decMloadb (q : SeqId) (c : Cut) : decMajor q (BitVec.toNat (35 : BitVec 6)) c = decMloadb c := rfl

theorem major_decMmul (q : SeqId) (c : Cut) : decMajor q (BitVec.toNat (36 : BitVec 6)) c = decMmul c := rfl

theorem major_decMattn (q : SeqId) (c : Cut) : decMajor q (BitVec.toNat (37 : BitVec 6)) c = decMattn c := rfl

theorem major_decMbank (q : SeqId) (c : Cut) : decMajor q (BitVec.toNat (38 : BitVec 6)) c = decMbank q c := rfl

theorem major_decEngine (q : SeqId) (c : Cut) : decMajor q (BitVec.toNat (39 : BitVec 6)) c = decEngine c := rfl

theorem major_decKv (q : SeqId) (c : Cut) : decMajor q (BitVec.toNat (40 : BitVec 6)) c = decKv c := rfl

theorem major_decTask (q : SeqId) (c : Cut) : decMajor q (BitVec.toNat (41 : BitVec 6)) c = decTask c := rfl

theorem major_decNode (q : SeqId) (c : Cut) : decMajor q (BitVec.toNat (42 : BitVec 6)) c = decNode c := rfl

theorem major_decBallot (q : SeqId) (c : Cut) : decMajor q (BitVec.toNat (43 : BitVec 6)) c = decBallot c := rfl

theorem major_decFabric (q : SeqId) (c : Cut) : decMajor q (BitVec.toNat (44 : BitVec 6)) c = decFabric c := rfl

theorem major_decGraph (q : SeqId) (c : Cut) : decMajor q (BitVec.toNat (45 : BitVec 6)) c = decGraph c := rfl

theorem major_decSys (q : SeqId) (c : Cut) : decMajor q (BitVec.toNat (46 : BitVec 6)) c = decSys c := rfl

theorem major_decBivouac (q : SeqId) (c : Cut) : decMajor q (BitVec.toNat (47 : BitVec 6)) c = decBivouac c := rfl

@[simp] theorem OScope.enc_none : OScope.enc none = 0 := rfl

@[simp] theorem Ctr.kBits_none : Ctr.kBits none = 0 := rfl

@[simp] theorem Ctr.kv_none : Ctr.kv none = false := rfl

end Sys2Proof
end

