-- ==== Sys2Proof/Laws/Dispatch.lean ====
section
/-! SUPPORT. exec of each constructor is its meaning. -/

set_option Elab.async false

namespace Sys2Proof.Machine

open Sys2Proof

@[simp] theorem exec_add {h d a b s} : exec (.add h d a b) s = execAdd h d a b s := rfl
@[simp] theorem exec_addImm {h d a imm s} : exec (.addImm h d a imm) s = execAddImm h d a imm s := rfl
@[simp] theorem exec_sub {h d a b s} : exec (.sub h d a b) s = execSub h d a b s := rfl
@[simp] theorem exec_subImm {h d a imm s} : exec (.subImm h d a imm) s = execSubImm h d a imm s := rfl
@[simp] theorem exec_mul {h d a b s} : exec (.mul h d a b) s = execMul h d a b s := rfl
@[simp] theorem exec_mulImm {h d a imm s} : exec (.mulImm h d a imm) s = execMulImm h d a imm s := rfl
@[simp] theorem exec_mulh {h d a b s} : exec (.mulh h d a b) s = execMulh h d a b s := rfl
@[simp] theorem exec_mulhImm {h d a imm s} : exec (.mulhImm h d a imm) s = execMulhImm h d a imm s := rfl
@[simp] theorem exec_mulhu {h d a b s} : exec (.mulhu h d a b) s = execMulhu h d a b s := rfl
@[simp] theorem exec_mulhuImm {h d a imm s} : exec (.mulhuImm h d a imm) s = execMulhuImm h d a imm s := rfl
@[simp] theorem exec_div {h d a b s} : exec (.div h d a b) s = execDiv h d a b s := rfl
@[simp] theorem exec_divImm {h d a imm s} : exec (.divImm h d a imm) s = execDivImm h d a imm s := rfl
@[simp] theorem exec_divu {h d a b s} : exec (.divu h d a b) s = execDivu h d a b s := rfl
@[simp] theorem exec_divuImm {h d a imm s} : exec (.divuImm h d a imm) s = execDivuImm h d a imm s := rfl
@[simp] theorem exec_rem {h d a b s} : exec (.rem h d a b) s = execRem h d a b s := rfl
@[simp] theorem exec_remImm {h d a imm s} : exec (.remImm h d a imm) s = execRemImm h d a imm s := rfl
@[simp] theorem exec_remu {h d a b s} : exec (.remu h d a b) s = execRemu h d a b s := rfl
@[simp] theorem exec_remuImm {h d a imm s} : exec (.remuImm h d a imm) s = execRemuImm h d a imm s := rfl
@[simp] theorem exec_and {h d a b s} : exec (.and h d a b) s = execAnd h d a b s := rfl
@[simp] theorem exec_andImm {h d a imm s} : exec (.andImm h d a imm) s = execAndImm h d a imm s := rfl
@[simp] theorem exec_or {h d a b s} : exec (.or h d a b) s = execOr h d a b s := rfl
@[simp] theorem exec_orImm {h d a imm s} : exec (.orImm h d a imm) s = execOrImm h d a imm s := rfl
@[simp] theorem exec_xor {h d a b s} : exec (.xor h d a b) s = execXor h d a b s := rfl
@[simp] theorem exec_xorImm {h d a imm s} : exec (.xorImm h d a imm) s = execXorImm h d a imm s := rfl
@[simp] theorem exec_andn {h d a b s} : exec (.andn h d a b) s = execAndn h d a b s := rfl
@[simp] theorem exec_andnImm {h d a imm s} : exec (.andnImm h d a imm) s = execAndnImm h d a imm s := rfl
@[simp] theorem exec_shl {h d a b s} : exec (.shl h d a b) s = execShl h d a b s := rfl
@[simp] theorem exec_shlImm {h d a imm s} : exec (.shlImm h d a imm) s = execShlImm h d a imm s := rfl
@[simp] theorem exec_shr {h d a b s} : exec (.shr h d a b) s = execShr h d a b s := rfl
@[simp] theorem exec_shrImm {h d a imm s} : exec (.shrImm h d a imm) s = execShrImm h d a imm s := rfl
@[simp] theorem exec_sra {h d a b s} : exec (.sra h d a b) s = execSra h d a b s := rfl
@[simp] theorem exec_sraImm {h d a imm s} : exec (.sraImm h d a imm) s = execSraImm h d a imm s := rfl
@[simp] theorem exec_min {h d a b s} : exec (.min h d a b) s = execMin h d a b s := rfl
@[simp] theorem exec_minImm {h d a imm s} : exec (.minImm h d a imm) s = execMinImm h d a imm s := rfl
@[simp] theorem exec_max {h d a b s} : exec (.max h d a b) s = execMax h d a b s := rfl
@[simp] theorem exec_maxImm {h d a imm s} : exec (.maxImm h d a imm) s = execMaxImm h d a imm s := rfl
@[simp] theorem exec_minu {h d a b s} : exec (.minu h d a b) s = execMinu h d a b s := rfl
@[simp] theorem exec_minuImm {h d a imm s} : exec (.minuImm h d a imm) s = execMinuImm h d a imm s := rfl
@[simp] theorem exec_maxu {h d a b s} : exec (.maxu h d a b) s = execMaxu h d a b s := rfl
@[simp] theorem exec_maxuImm {h d a imm s} : exec (.maxuImm h d a imm) s = execMaxuImm h d a imm s := rfl
@[simp] theorem exec_clz {h d a s} : exec (.clz h d a) s = execClz h d a s := rfl
@[simp] theorem exec_popc {h d a s} : exec (.popc h d a) s = execPopc h d a s := rfl
@[simp] theorem exec_sext {h d a w s} : exec (.sext h d a w) s = execSext h d a w s := rfl
@[simp] theorem exec_zext {h d a w s} : exec (.zext h d a w) s = execZext h d a w s := rfl
@[simp] theorem exec_movXX {h d a s} : exec (.movXX h d a) s = execMovXX h d a s := rfl
@[simp] theorem exec_movXA {h d a s} : exec (.movXA h d a) s = execMovXA h d a s := rfl
@[simp] theorem exec_movAX {h d a s} : exec (.movAX h d a) s = execMovAX h d a s := rfl
@[simp] theorem exec_sel {h d a b p s} : exec (.sel h d a b p) s = execSel h d a b p s := rfl
@[simp] theorem exec_li {h d v s} : exec (.li h d v) s = execLi h d v s := rfl
@[simp] theorem exec_liExt {h d v s} : exec (.liExt h d v) s = execLiExt h d v s := rfl
@[simp] theorem exec_cmp {h c d a b s} : exec (.cmp h c d a b) s = execCmp h c d a b s := rfl
@[simp] theorem exec_cmpImm {h c d a imm s} : exec (.cmpImm h c d a imm) s = execCmpImm h c d a imm s := rfl
@[simp] theorem exec_fadd {h d a b s} : exec (.fadd h d a b) s = execFadd h d a b s := rfl
@[simp] theorem exec_faddImm {h d a imm s} : exec (.faddImm h d a imm) s = execFaddImm h d a imm s := rfl
@[simp] theorem exec_fsub {h d a b s} : exec (.fsub h d a b) s = execFsub h d a b s := rfl
@[simp] theorem exec_fsubImm {h d a imm s} : exec (.fsubImm h d a imm) s = execFsubImm h d a imm s := rfl
@[simp] theorem exec_fmul {h d a b s} : exec (.fmul h d a b) s = execFmul h d a b s := rfl
@[simp] theorem exec_fmulImm {h d a imm s} : exec (.fmulImm h d a imm) s = execFmulImm h d a imm s := rfl
@[simp] theorem exec_fma {h d a b s} : exec (.fma h d a b) s = execFma h d a b s := rfl
@[simp] theorem exec_fmaImm {h d a imm s} : exec (.fmaImm h d a imm) s = execFmaImm h d a imm s := rfl
@[simp] theorem exec_fmin {h d a b s} : exec (.fmin h d a b) s = execFmin h d a b s := rfl
@[simp] theorem exec_fminImm {h d a imm s} : exec (.fminImm h d a imm) s = execFminImm h d a imm s := rfl
@[simp] theorem exec_fmax {h d a b s} : exec (.fmax h d a b) s = execFmax h d a b s := rfl
@[simp] theorem exec_fmaxImm {h d a imm s} : exec (.fmaxImm h d a imm) s = execFmaxImm h d a imm s := rfl
@[simp] theorem exec_fcvt {h d a src dst rm sat s} : exec (.fcvt h d a src dst rm sat) s = execFcvt h d a src dst rm sat s := rfl
@[simp] theorem exec_fcmp {h c d a b s} : exec (.fcmp h c d a b) s = execFcmp h c d a b s := rfl
@[simp] theorem exec_fcmpImm {h c d a imm s} : exec (.fcmpImm h c d a imm) s = execFcmpImm h c d a imm s := rfl
@[simp] theorem exec_pand {h d a b s} : exec (.pand h d a b) s = execPand h d a b s := rfl
@[simp] theorem exec_por {h d a b s} : exec (.por h d a b) s = execPor h d a b s := rfl
@[simp] theorem exec_pxor {h d a b s} : exec (.pxor h d a b) s = execPxor h d a b s := rfl
@[simp] theorem exec_pandn {h d a b s} : exec (.pandn h d a b) s = execPandn h d a b s := rfl
@[simp] theorem exec_pmov {h d a s} : exec (.pmov h d a) s = execPmov h d a s := rfl
@[simp] theorem exec_pset {h w d a s} : exec (.pset h w d a) s = execPset h w d a s := rfl
@[simp] theorem exec_pcnt {h w d a s} : exec (.pcnt h w d a) s = execPcnt h w d a s := rfl
@[simp] theorem exec_pfirst {h w d a s} : exec (.pfirst h w d a) s = execPfirst h w d a s := rfl
@[simp] theorem exec_br {h off s} : exec (.br h off) s = execBr h off s := rfl
@[simp] theorem exec_brExt {h off s} : exec (.brExt h off) s = execBrExt h off s := rfl
@[simp] theorem exec_call {h off s} : exec (.call h off) s = execCall h off s := rfl
@[simp] theorem exec_callExt {h off s} : exec (.callExt h off) s = execCallExt h off s := rfl
@[simp] theorem exec_brq {h pol off s} : exec (.brq h pol off) s = execBrq h pol off s := rfl
@[simp] theorem exec_brqExt {h pol off s} : exec (.brqExt h pol off) s = execBrqExt h pol off s := rfl
@[simp] theorem exec_loop {h xc off s} : exec (.loop h xc off) s = execLoop h xc off s := rfl
@[simp] theorem exec_loopExt {h xc off s} : exec (.loopExt h xc off) s = execLoopExt h xc off s := rfl
@[simp] theorem exec_jr {h xa s} : exec (.jr h xa) s = execJr h xa s := rfl
@[simp] theorem exec_ret {h s} : exec (.ret h) s = execRet h s := rfl
@[simp] theorem exec_nop {h s} : exec (.nop h) s = execNop h s := rfl
@[simp] theorem exec_pool {h n s} : exec (.pool h n) s = execPool h n s := rfl
@[simp] theorem exec_tkwB {h n s} : exec (.tkwB h n) s = execTkwB h n s := rfl
@[simp] theorem exec_tkwA {h n s} : exec (.tkwA h n) s = execTkwA h n s := rfl
@[simp] theorem exec_tksB {h n s} : exec (.tksB h n) s = execTksB h n s := rfl
@[simp] theorem exec_tksA {h n s} : exec (.tksA h n) s = execTksA h n s := rfl
@[simp] theorem exec_qpush {h xa s} : exec (.qpush h xa) s = execQpush h xa s := rfl
@[simp] theorem exec_qpop {h xd s} : exec (.qpop h xd) s = execQpop h xd s := rfl
@[simp] theorem exec_kwait {h k n s} : exec (.kwait h k n) s = execKwait h k n s := rfl
@[simp] theorem exec_rnext {h xd pa j s} : exec (.rnext h xd pa j) s = execRnext h xd pa j s := rfl
@[simp] theorem exec_lvlBase {h xd j s} : exec (.lvlBase h xd j) s = execLvlBase h xd j s := rfl
@[simp] theorem exec_lvlLimit {h xd j s} : exec (.lvlLimit h xd j) s = execLvlLimit h xd j s := rfl
@[simp] theorem exec_lvlTrip {h xd j s} : exec (.lvlTrip h xd j) s = execLvlTrip h xd j s := rfl
@[simp] theorem exec_lvlCoord {h xd j s} : exec (.lvlCoord h xd j) s = execLvlCoord h xd j s := rfl
@[simp] theorem exec_ldlW {h xd off s} : exec (.ldlW h xd off) s = execLdlW h xd off s := rfl
@[simp] theorem exec_ldlWExt {h xd off s} : exec (.ldlWExt h xd off) s = execLdlWExt h xd off s := rfl
@[simp] theorem exec_ldlD {h xd off s} : exec (.ldlD h xd off) s = execLdlD h xd off s := rfl
@[simp] theorem exec_ldlDExt {h xd off s} : exec (.ldlDExt h xd off) s = execLdlDExt h xd off s := rfl
@[simp] theorem exec_ld {h xd a sz fe k s} : exec (.ld h xd a sz fe k) s = execLd h xd a sz fe k s := rfl
@[simp] theorem exec_ldOffset {h xd a sz fe k off s} : exec (.ldOffset h xd a sz fe k off) s = execLdOffset h xd a sz fe k off s := rfl
@[simp] theorem exec_st {h xs a sz k s} : exec (.st h xs a sz k) s = execSt h xs a sz k s := rfl
@[simp] theorem exec_stOffset {h xs a sz k off s} : exec (.stOffset h xs a sz k off) s = execStOffset h xs a sz k off s := rfl
@[simp] theorem exec_dqpush {h et pr tag vals n s} : exec (.dqpush h et pr tag vals n) s = execDqpush h et pr tag vals n s := rfl
@[simp] theorem exec_dqdrain {h et t row force pm n s} : exec (.dqdrain h et t row force pm n) s = execDqdrain h et t row force pm n s := rfl
@[simp] theorem exec_dqcnt {h xd s} : exec (.dqcnt h xd) s = execDqcnt h xd s := rfl
@[simp] theorem exec_ldt {h t row nr a off fe k s} : exec (.ldt h t row nr a off fe k) s = execLdt h t row nr a off fe k s := rfl
@[simp] theorem exec_stt {h t row nr a off k s} : exec (.stt h t row nr a off k) s = execStt h t row nr a off k s := rfl
@[simp] theorem exec_copy {h a b c acq rel k cnt fill s} : exec (.copy h a b c acq rel k cnt fill) s = execCopy h a b c acq rel k cnt fill s := rfl
@[simp] theorem exec_gath {h a b c esz acq rel k cnt fill s} : exec (.gath h a b c esz acq rel k cnt fill) s = execGath h a b c esz acq rel k cnt fill s := rfl
@[simp] theorem exec_scat {h a b c esz acq rel k cnt fill s} : exec (.scat h a b c esz acq rel k cnt fill) s = execScat h a b c esz acq rel k cnt fill s := rfl
@[simp] theorem exec_pref {h a c k s} : exec (.pref h a c k) s = execPref h a c k s := rfl
@[simp] theorem exec_invr {h a c k s} : exec (.invr h a c k) s = execInvr h a c k s := rfl
@[simp] theorem exec_sppin {h pc xa xb s} : exec (.sppin h pc xa xb) s = execSppin h pc xa xb s := rfl
@[simp] theorem exec_spunp {h xa xb s} : exec (.spunp h xa xb) s = execSpunp h xa xb s := rfl
@[simp] theorem exec_feclr {h xa xb s} : exec (.feclr h xa xb) s = execFeclr h xa xb s := rfl
@[simp] theorem exec_feset {h xa xb s} : exec (.feset h xa xb) s = execFeset h xa xb s := rfl
@[simp] theorem exec_racq {h b a s} : exec (.racq h b a) s = execRacq h b a s := rfl
@[simp] theorem exec_rrel {h b s} : exec (.rrel h b) s = execRrel h b s := rfl
@[simp] theorem exec_rwait {h b a n s} : exec (.rwait h b a n) s = execRwait h b a n s := rfl
@[simp] theorem exec_radv {h b n s} : exec (.radv h b n) s = execRadv h b n s := rfl
@[simp] theorem exec_rcfg {h b base lines slots s} : exec (.rcfg h b base lines slots) s = execRcfg h b base lines slots s := rfl
@[simp] theorem exec_amoAdd {h dword a b c acq rel k off s} : exec (.amoAdd h dword a b c acq rel k off) s = execAmoAdd h dword a b c acq rel k off s := rfl
@[simp] theorem exec_amoMin {h dword a b c acq rel k off s} : exec (.amoMin h dword a b c acq rel k off) s = execAmoMin h dword a b c acq rel k off s := rfl
@[simp] theorem exec_amoMax {h dword a b c acq rel k off s} : exec (.amoMax h dword a b c acq rel k off) s = execAmoMax h dword a b c acq rel k off s := rfl
@[simp] theorem exec_amoAnd {h dword a b c acq rel k off s} : exec (.amoAnd h dword a b c acq rel k off) s = execAmoAnd h dword a b c acq rel k off s := rfl
@[simp] theorem exec_amoOr {h dword a b c acq rel k off s} : exec (.amoOr h dword a b c acq rel k off) s = execAmoOr h dword a b c acq rel k off s := rfl
@[simp] theorem exec_amoXor {h dword a b c acq rel k off s} : exec (.amoXor h dword a b c acq rel k off) s = execAmoXor h dword a b c acq rel k off s := rfl
@[simp] theorem exec_amoXchg {h dword a b c acq rel k off s} : exec (.amoXchg h dword a b c acq rel k off) s = execAmoXchg h dword a b c acq rel k off s := rfl
@[simp] theorem exec_amoCas {h dword a b c acq rel k off s} : exec (.amoCas h dword a b c acq rel k off) s = execAmoCas h dword a b c acq rel k off s := rfl
@[simp] theorem exec_vamoAdd {h dword a acq rel k tv rv ti ri s} : exec (.vamoAdd h dword a acq rel k tv rv ti ri) s = execVamoAdd h dword a acq rel k tv rv ti ri s := rfl
@[simp] theorem exec_vamoMin {h dword a acq rel k tv rv ti ri s} : exec (.vamoMin h dword a acq rel k tv rv ti ri) s = execVamoMin h dword a acq rel k tv rv ti ri s := rfl
@[simp] theorem exec_vamoMax {h dword a acq rel k tv rv ti ri s} : exec (.vamoMax h dword a acq rel k tv rv ti ri) s = execVamoMax h dword a acq rel k tv rv ti ri s := rfl
@[simp] theorem exec_vamoAnd {h dword a acq rel k tv rv ti ri s} : exec (.vamoAnd h dword a acq rel k tv rv ti ri) s = execVamoAnd h dword a acq rel k tv rv ti ri s := rfl
@[simp] theorem exec_vamoOr {h dword a acq rel k tv rv ti ri s} : exec (.vamoOr h dword a acq rel k tv rv ti ri) s = execVamoOr h dword a acq rel k tv rv ti ri s := rfl
@[simp] theorem exec_vamoXor {h dword a acq rel k tv rv ti ri s} : exec (.vamoXor h dword a acq rel k tv rv ti ri) s = execVamoXor h dword a acq rel k tv rv ti ri s := rfl
@[simp] theorem exec_vamoXchg {h dword a acq rel k tv rv ti ri s} : exec (.vamoXchg h dword a acq rel k tv rv ti ri) s = execVamoXchg h dword a acq rel k tv rv ti ri s := rfl
@[simp] theorem exec_vamoCas {h dword a acq rel k tv rv ti ri s} : exec (.vamoCas h dword a acq rel k tv rv ti ri) s = execVamoCas h dword a acq rel k tv rv ti ri s := rfl
@[simp] theorem exec_fence {h sc k cv s} : exec (.fence h sc k cv) s = execFence h sc k cv s := rfl
@[simp] theorem exec_fwait {h s} : exec (.fwait h) s = execFwait h s := rfl
@[simp] theorem exec_wait4 {h xa n s} : exec (.wait4 h xa n) s = execWait4 h xa n s := rfl
@[simp] theorem exec_bexp {h xa s} : exec (.bexp h xa) s = execBexp h xa s := rfl
@[simp] theorem exec_bwait {h sc xa s} : exec (.bwait h sc xa) s = execBwait h sc xa s := rfl
@[simp] theorem exec_vadd {h et sat d a b s} : exec (.vadd h et sat d a b) s = execVadd h et sat d a b s := rfl
@[simp] theorem exec_vsub {h et sat d a b s} : exec (.vsub h et sat d a b) s = execVsub h et sat d a b s := rfl
@[simp] theorem exec_vmul {h et sat d a b s} : exec (.vmul h et sat d a b) s = execVmul h et sat d a b s := rfl
@[simp] theorem exec_vfma {h et sat d a b s} : exec (.vfma h et sat d a b) s = execVfma h et sat d a b s := rfl
@[simp] theorem exec_vmin {h et d a b s} : exec (.vmin h et d a b) s = execVmin h et d a b s := rfl
@[simp] theorem exec_vmax {h et d a b s} : exec (.vmax h et d a b) s = execVmax h et d a b s := rfl
@[simp] theorem exec_vabs {h et sat d a s} : exec (.vabs h et sat d a) s = execVabs h et sat d a s := rfl
@[simp] theorem exec_vneg {h et sat d a s} : exec (.vneg h et sat d a) s = execVneg h et sat d a s := rfl
@[simp] theorem exec_vcmp {h c et d a b s} : exec (.vcmp h c et d a b) s = execVcmp h c et d a b s := rfl
@[simp] theorem exec_vsel {h et d a b p s} : exec (.vsel h et d a b p) s = execVsel h et d a b p s := rfl
@[simp] theorem exec_vmov {h et d a s} : exec (.vmov h et d a) s = execVmov h et d a s := rfl
@[simp] theorem exec_vand {h et d a b s} : exec (.vand h et d a b) s = execVand h et d a b s := rfl
@[simp] theorem exec_vor {h et d a b s} : exec (.vor h et d a b) s = execVor h et d a b s := rfl
@[simp] theorem exec_vxor {h et d a b s} : exec (.vxor h et d a b) s = execVxor h et d a b s := rfl
@[simp] theorem exec_vlop3 {h table d a b s} : exec (.vlop3 h table d a b) s = execVlop3 h table d a b s := rfl
@[simp] theorem exec_vshl {h et d a b s} : exec (.vshl h et d a b) s = execVshl h et d a b s := rfl
@[simp] theorem exec_vshr {h et d a b s} : exec (.vshr h et d a b) s = execVshr h et d a b s := rfl
@[simp] theorem exec_vsra {h et d a b s} : exec (.vsra h et d a b) s = execVsra h et d a b s := rfl
@[simp] theorem exec_vfunl {h et d a b s} : exec (.vfunl h et d a b) s = execVfunl h et d a b s := rfl
@[simp] theorem exec_vfunr {h et d a b s} : exec (.vfunr h et d a b) s = execVfunr h et d a b s := rfl
@[simp] theorem exec_vrot {h et d a b s} : exec (.vrot h et d a b) s = execVrot h et d a b s := rfl
@[simp] theorem exec_vperm {h et d a b s} : exec (.vperm h et d a b) s = execVperm h et d a b s := rfl
@[simp] theorem exec_vbcast {h et d a b s} : exec (.vbcast h et d a b) s = execVbcast h et d a b s := rfl
@[simp] theorem exec_vcvt {h dst src sat rm d a s} : exec (.vcvt h dst src sat rm d a) s = execVcvt h dst src sat rm d a s := rfl
@[simp] theorem exec_vpack {h rm d a g s} : exec (.vpack h rm d a g) s = execVpack h rm d a g s := rfl
@[simp] theorem exec_vunpk {h d a g s} : exec (.vunpk h d a g) s = execVunpk h d a g s := rfl
@[simp] theorem exec_vred {h op et sat d a s} : exec (.vred h op et sat d a) s = execVred h op et sat d a s := rfl
@[simp] theorem exec_vexp {h et d a s} : exec (.vexp h et d a) s = execVexp h et d a s := rfl
@[simp] theorem exec_vlog {h et d a s} : exec (.vlog h et d a) s = execVlog h et d a s := rfl
@[simp] theorem exec_vrcp {h et d a s} : exec (.vrcp h et d a) s = execVrcp h et d a s := rfl
@[simp] theorem exec_vrsq {h et d a s} : exec (.vrsq h et d a) s = execVrsq h et d a s := rfl
@[simp] theorem exec_vrng {h et d s} : exec (.vrng h et d) s = execVrng h et d s := rfl
@[simp] theorem exec_vbern {h d a s} : exec (.vbern h d a) s = execVbern h d a s := rfl
@[simp] theorem exec_rlcfg {h t row xa xb s} : exec (.rlcfg h t row xa xb) s = execRlcfg h t row xa xb s := rfl
@[simp] theorem exec_rlins {h t n a xb s} : exec (.rlins h t n a xb) s = execRlins h t n a xb s := rfl
@[simp] theorem exec_rlmrg {h t n xb s} : exec (.rlmrg h t n xb) s = execRlmrg h t n xb s := rfl
@[simp] theorem exec_rlthr {h t n xb s} : exec (.rlthr h t n xb) s = execRlthr h t n xb s := rfl
@[simp] theorem exec_rlrd {h d t n s} : exec (.rlrd h d t n) s = execRlrd h d t n s := rfl
@[simp] theorem exec_vsfc {h hilbert dims d t r s} : exec (.vsfc h hilbert dims d t r) s = execVsfc h hilbert dims d t r s := rfl
@[simp] theorem exec_gset {h g a off s} : exec (.gset h g a off) s = execGset h g a off s := rfl
@[simp] theorem exec_gadv {h g xb xc s} : exec (.gadv h g xb xc) s = execGadv h g xb xc s := rfl
@[simp] theorem exec_mlease {h lvl k s} : exec (.mlease h lvl k) s = execMlease h lvl k s := rfl
@[simp] theorem exec_mfree {h s} : exec (.mfree h) s = execMfree h s := rfl
@[simp] theorem exec_mloadb {h g arr nfold f acq k s} : exec (.mloadb h g arr nfold f acq k) s = execMloadb h g arr nfold f acq k s := rfl
@[simp] theorem exec_mmul {h ga arr init ragged fe list bound acq k s} : exec (.mmul h ga arr init ragged fe list bound acq k) s = execMmul h ga arr init ragged fe list bound acq k s := rfl
@[simp] theorem exec_mattn {h gq gk gv xd fe acq k s} : exec (.mattn h gq gk gv xd fe acq k) s = execMattn h gq gk gv xd fe acq k s := rfl
@[simp] theorem exec_mdrainTile {h arr alt mode t row nr xa acq k s} : exec (.mdrainTile h arr alt mode t row nr xa acq k) s = execMdrainTile h arr alt mode t row nr xa acq k s := rfl
@[simp] theorem exec_mdrainMemory {h arr alt mode cnt xa b xc acq rel k s} : exec (.mdrainMemory h arr alt mode cnt xa b xc acq rel k) s = execMdrainMemory h arr alt mode cnt xa b xc acq rel k s := rfl
@[simp] theorem exec_mswap {h arr s} : exec (.mswap h arr) s = execMswap h arr s := rfl
@[simp] theorem exec_mchain {h n s} : exec (.mchain h n) s = execMchain h n s := rfl
@[simp] theorem exec_mshape {h xa pc s} : exec (.mshape h xa pc) s = execMshape h xa pc s := rfl
@[simp] theorem exec_sample {h xa xb acq rel k s} : exec (.sample h xa xb acq rel k) s = execSample h xa xb acq rel k s := rfl
@[simp] theorem exec_beamsel {h xa xb acq rel k s} : exec (.beamsel h xa xb acq rel k) s = execBeamsel h xa xb acq rel k s := rfl
@[simp] theorem exec_kvapp {h xc xa b acq rel k s} : exec (.kvapp h xc xa b acq rel k) s = execKvapp h xc xa b acq rel k s := rfl
@[simp] theorem exec_kvappNew {h xc a acq rel k s} : exec (.kvappNew h xc a acq rel k) s = execKvappNew h xc a acq rel k s := rfl
@[simp] theorem exec_kvappDrop {h xa acq rel k s} : exec (.kvappDrop h xa acq rel k) s = execKvappDrop h xa acq rel k s := rfl
@[simp] theorem exec_kvmap {h xc xa xb pd acq rel k s} : exec (.kvmap h xc xa xb pd acq rel k) s = execKvmap h xc xa xb pd acq rel k s := rfl
@[simp] theorem exec_tspawn {h xc xa pd die rel s} : exec (.tspawn h xc xa pd die rel) s = execTspawn h xc xa pd die rel s := rfl
@[simp] theorem exec_tpop {h xc xa pd acq s} : exec (.tpop h xc xa pd acq) s = execTpop h xc xa pd acq s := rfl
@[simp] theorem exec_trepri {h xa xb pd s} : exec (.trepri h xa xb pd) s = execTrepri h xa xb pd s := rfl
@[simp] theorem exec_tcancel {h xa pd module k s} : exec (.tcancel h xa pd module k) s = execTcancel h xa pd module k s := rfl
@[simp] theorem exec_tcont {h xc xa xb pd rel s} : exec (.tcont h xc xa xb pd rel) s = execTcont h xc xa xb pd rel s := rfl
@[simp] theorem exec_tdone {h pd row rel s} : exec (.tdone h pd row rel) s = execTdone h pd row rel s := rfl
@[simp] theorem exec_cpoint {h pd s} : exec (.cpoint h pd) s = execCpoint h pd s := rfl
@[simp] theorem exec_gnewPlain {h xc xa pd s} : exec (.gnewPlain h xc xa pd) s = execGnewPlain h xc xa pd s := rfl
@[simp] theorem exec_gnewRope {h xc xa pd xb s} : exec (.gnewRope h xc xa pd xb) s = execGnewRope h xc xa pd xb s := rfl
@[simp] theorem exec_gnewSib {h xc xa pd s} : exec (.gnewSib h xc xa pd) s = execGnewSib h xc xa pd s := rfl
@[simp] theorem exec_gnewQ {h xc xa pd s} : exec (.gnewQ h xc xa pd) s = execGnewQ h xc xa pd s := rfl
@[simp] theorem exec_nalloc {h xc xa pd die s} : exec (.nalloc h xc xa pd die) s = execNalloc h xc xa pd die s := rfl
@[simp] theorem exec_nallocFree {h xa xb pd s} : exec (.nallocFree h xa xb pd) s = execNallocFree h xa xb pd s := rfl
@[simp] theorem exec_nrd {h xc xa off dword acq s} : exec (.nrd h xc xa off dword acq) s = execNrd h xc xa off dword acq s := rfl
@[simp] theorem exec_nwr {h xa xb off dword rel k s} : exec (.nwr h xa xb off dword rel k) s = execNwr h xa xb off dword rel k s := rfl
@[simp] theorem exec_nvloss {h xa xb acq k s} : exec (.nvloss h xa xb acq k) s = execNvloss h xa xb acq k s := rfl
@[simp] theorem exec_nbackup {h neg xa xb xc acq k s} : exec (.nbackup h neg xa xb xc acq k) s = execNbackup h neg xa xb xc acq k s := rfl
@[simp] theorem exec_nsel {h xc xa xb pd s} : exec (.nsel h xc xa xb pd) s = execNsel h xc xa xb pd s := rfl
@[simp] theorem exec_ballot {h abst xc xa rel s} : exec (.ballot h abst xc xa rel) s = execBallot h abst xc xa rel s := rfl
@[simp] theorem exec_collAr {h xa acq rel k s} : exec (.collAr h xa acq rel k) s = execCollAr h xa acq rel k s := rfl
@[simp] theorem exec_collAg {h xa acq rel k s} : exec (.collAg h xa acq rel k) s = execCollAg h xa acq rel k s := rfl
@[simp] theorem exec_collRs {h xa acq rel k s} : exec (.collRs h xa acq rel k) s = execCollRs h xa acq rel k s := rfl
@[simp] theorem exec_collA2a {h xa acq rel k s} : exec (.collA2a h xa acq rel k) s = execCollA2a h xa acq rel k s := rfl
@[simp] theorem exec_repart {h xa acq rel k s} : exec (.repart h xa acq rel k) s = execRepart h xa acq rel k s := rfl
@[simp] theorem exec_disp {h xc xa xb pd t s} : exec (.disp h xc xa xb pd t) s = execDisp h xc xa xb pd t s := rfl
@[simp] theorem exec_dispMb {h t k s} : exec (.dispMb h t k) s = execDispMb h t k s := rfl
@[simp] theorem exec_gparm {h xa xb n rel s} : exec (.gparm h xa xb n rel) s = execGparm h xa xb n rel s := rfl
@[simp] theorem exec_gparmReplay {h xb rel s} : exec (.gparmReplay h xb rel) s = execGparmReplay h xb rel s := rfl
@[simp] theorem exec_hring {h flush drop xa xb rel k s} : exec (.hring h flush drop xa xb rel k) s = execHring h flush drop xa xb rel k s := rfl
@[simp] theorem exec_time {h xc s} : exec (.time h xc) s = execTime h xc s := rfl
@[simp] theorem exec_trap {h n s} : exec (.trap h n) s = execTrap h n s := rfl
@[simp] theorem exec_eret {h s} : exec (.eret h) s = execEret h s := rfl
@[simp] theorem exec_sysrd {h xd reg s} : exec (.sysrd h xd reg) s = execSysrd h xd reg s := rfl
@[simp] theorem exec_syswr {h reg xs s} : exec (.syswr h reg xs) s = execSyswr h reg xs s := rfl
@[simp] theorem exec_yield {h s} : exec (.yield h) s = execYield h s := rfl
@[simp] theorem exec_idle {h xa s} : exec (.idle h xa) s = execIdle h xa s := rfl
@[simp] theorem exec_bkpt {h n s} : exec (.bkpt h n) s = execBkpt h n s := rfl
@[simp] theorem exec_spbeg {h xa xb s} : exec (.spbeg h xa xb) s = execSpbeg h xa xb s := rfl
@[simp] theorem exec_spcom {h s} : exec (.spcom h) s = execSpcom h s := rfl
@[simp] theorem exec_spabt {h s} : exec (.spabt h) s = execSpabt h s := rfl
@[simp] theorem exec_uncorrTrap {core q s} : exec (.uncorrTrap core q) s = execUncorrTrap core q s := rfl
@[simp] theorem exec_engineTrap {core s} : exec (.engineTrap core) s = execEngineTrap core s := rfl
@[simp] theorem exec_timer {core q s} : exec (.timer core q) s = execTimer core q s := rfl
@[simp] theorem exec_loadReturn {core op s} : exec (.loadReturn core op) s = execLoadReturn core op s := rfl
@[simp] theorem exec_storePerform {core op s} : exec (.storePerform core op) s = execStorePerform core op s := rfl
@[simp] theorem exec_atomicPerform {core op s} : exec (.atomicPerform core op) s = execAtomicPerform core op s := rfl
@[simp] theorem exec_fenceComplete {core op s} : exec (.fenceComplete core op) s = execFenceComplete core op s := rfl
@[simp] theorem exec_xferComplete {core op s} : exec (.xferComplete core op) s = execXferComplete core op s := rfl
@[simp] theorem exec_wait4Check {core q s} : exec (.wait4Check core q) s = execWait4Check core q s := rfl
@[simp] theorem exec_bivouacCopyDone {core s} : exec (.bivouacCopyDone core) s = execBivouacCopyDone core s := rfl
@[simp] theorem exec_admission {die s} : exec (.admission die) s = execAdmission die s := rfl
@[simp] theorem exec_startHoldEnd {die launch s} : exec (.startHoldEnd die launch) s = execStartHoldEnd die launch s := rfl
@[simp] theorem exec_instanceEnd {core s} : exec (.instanceEnd core) s = execInstanceEnd core s := rfl
@[simp] theorem exec_launchAbort {die launch code s} : exec (.launchAbort die launch code) s = execLaunchAbort die launch code s := rfl
@[simp] theorem exec_stealRequest {core level s} : exec (.stealRequest core level) s = execStealRequest core level s := rfl
@[simp] theorem exec_stealGrant {core level s} : exec (.stealGrant core level) s = execStealGrant core level s := rfl
@[simp] theorem exec_belayGrant {cluster s} : exec (.belayGrant cluster) s = execBelayGrant cluster s := rfl
@[simp] theorem exec_belayRunEnd {cluster s} : exec (.belayRunEnd cluster) s = execBelayRunEnd cluster s := rfl
@[simp] theorem exec_tileTaskIssue {cluster arr s} : exec (.tileTaskIssue cluster arr) s = execTileTaskIssue cluster arr s := rfl
@[simp] theorem exec_tileTaskComplete {cluster arr s} : exec (.tileTaskComplete cluster arr) s = execTileTaskComplete cluster arr s := rfl
@[simp] theorem exec_samplerRequest {die s} : exec (.samplerRequest die) s = execSamplerRequest die s := rfl
@[simp] theorem exec_beamRequest {die s} : exec (.beamRequest die) s = execBeamRequest die s := rfl
@[simp] theorem exec_evalHandoff {die s} : exec (.evalHandoff die) s = execEvalHandoff die s := rfl
@[simp] theorem exec_binWindowExpiry {die bin s} : exec (.binWindowExpiry die bin) s = execBinWindowExpiry die bin s := rfl
@[simp] theorem exec_binLaunch {die s} : exec (.binLaunch die) s = execBinLaunch die s := rfl
@[simp] theorem exec_sweep {die s} : exec (.sweep die) s = execSweep die s := rfl
@[simp] theorem exec_remoteTref {raise handle s} : exec (.remoteTref raise handle) s = execRemoteTref raise handle s := rfl
@[simp] theorem exec_remoteTcancel {group s} : exec (.remoteTcancel group) s = execRemoteTcancel group s := rfl
@[simp] theorem exec_tcancelComplete {core op s} : exec (.tcancelComplete core op) s = execTcancelComplete core op s := rfl
@[simp] theorem exec_groupFree {group s} : exec (.groupFree group) s = execGroupFree group s := rfl
@[simp] theorem exec_walkComplete {core op s} : exec (.walkComplete core op) s = execWalkComplete core op s := rfl
@[simp] theorem exec_remoteWalk {issuer backup neg handle v togo s} :
    exec (.remoteWalk issuer backup neg handle v togo) s = execRemoteWalk issuer backup neg handle v togo s := rfl
@[simp] theorem exec_kvBroadcast {sid blk entry epoch s} : exec (.kvBroadcast sid blk entry epoch) s = execKvBroadcast sid blk entry epoch s := rfl
@[simp] theorem exec_sbtFetch {sid blk entry epoch s} : exec (.sbtFetch sid blk entry epoch) s = execSbtFetch sid blk entry epoch s := rfl
@[simp] theorem exec_sstLookup {core op addr tier valid s} : exec (.sstLookup core op addr tier valid) s = execSstLookup core op addr tier valid s := rfl
@[simp] theorem exec_kvPlace {core op block s} : exec (.kvPlace core op block) s = execKvPlace core op block s := rfl
@[simp] theorem exec_collectiveComplete {setId n others s} : exec (.collectiveComplete setId n others) s = execCollectiveComplete setId n others s := rfl
@[simp] theorem exec_repartComplete {setId n others s} : exec (.repartComplete setId n others) s = execRepartComplete setId n others s := rfl
@[simp] theorem exec_remoteAccess {asid off sup req s} : exec (.remoteAccess asid off sup req) s = execRemoteAccess asid off sup req s := rfl
@[simp] theorem exec_remoteResponse {ans s} : exec (.remoteResponse ans) s = execRemoteResponse ans s := rfl
@[simp] theorem exec_graphNodeStart {die slot s} : exec (.graphNodeStart die slot) s = execGraphNodeStart die slot s := rfl
@[simp] theorem exec_graphNodeComplete {die slot s} : exec (.graphNodeComplete die slot) s = execGraphNodeComplete die slot s := rfl
@[simp] theorem exec_nowaitWorkEnd {die slot idx s} : exec (.nowaitWorkEnd die slot idx) s = execNowaitWorkEnd die slot idx s := rfl
@[simp] theorem exec_waitNodeTimeout {die slot s} : exec (.waitNodeTimeout die slot) s = execWaitNodeTimeout die slot s := rfl
@[simp] theorem exec_hostRingTimer {die ring s} : exec (.hostRingTimer die ring) s = execHostRingTimer die ring s := rfl
@[simp] theorem exec_preemptTimeout {die s} : exec (.preemptTimeout die) s = execPreemptTimeout die s := rfl
@[simp] theorem exec_preemptSave {die s} : exec (.preemptSave die) s = execPreemptSave die s := rfl
@[simp] theorem exec_hlaunch {die value s} : exec (.hlaunch die value) s = execHlaunch die value s := rfl
@[simp] theorem exec_labort {die value s} : exec (.labort die value) s = execLabort die value s := rfl
@[simp] theorem exec_preq {die value s} : exec (.preq die value) s = execPreq die value s := rfl
@[simp] theorem exec_resume {die value s} : exec (.resume die value) s = execResume die value s := rfl
@[simp] theorem exec_greplay {die slot s} : exec (.greplay die slot) s = execGreplay die slot s := rfl
@[simp] theorem exec_gabort {die slot s} : exec (.gabort die slot) s = execGabort die slot s := rfl
@[simp] theorem exec_hrccntWrite {die ring value s} : exec (.hrccntWrite die ring value) s = execHrccntWrite die ring value s := rfl
@[simp] theorem exec_hrcfgWrite {die ring value s} : exec (.hrcfgWrite die ring value) s = execHrcfgWrite die ring value s := rfl
@[simp] theorem exec_tlbiOnePage {asid s} : exec (.tlbiOnePage asid) s = execTlbiOnePage asid s := rfl
@[simp] theorem exec_tlbiOneSpace {asid s} : exec (.tlbiOneSpace asid) s = execTlbiOneSpace asid s := rfl
@[simp] theorem exec_tlbiAll {s} : exec (.tlbiAll) s = execTlbiAll s := rfl
@[simp] theorem exec_tlbiDone {s} : exec (.tlbiDone) s = execTlbiDone s := rfl
@[simp] theorem exec_keyLoad {slot s} : exec (.keyLoad slot) s = execKeyLoad slot s := rfl
@[simp] theorem exec_keyRetire {slot s} : exec (.keyRetire slot) s = execKeyRetire slot s := rfl
@[simp] theorem exec_keyErase {slot s} : exec (.keyErase slot) s = execKeyErase slot s := rfl
@[simp] theorem exec_keyBind {slot group s} : exec (.keyBind slot group) s = execKeyBind slot group s := rfl
@[simp] theorem exec_keyUnbind {slot s} : exec (.keyUnbind slot) s = execKeyUnbind slot s := rfl
@[simp] theorem exec_dispatchTableWrite {die t off value s} : exec (.dispatchTableWrite die t off value) s = execDispatchTableWrite die t off value s := rfl
@[simp] theorem exec_hostApertureAccess {req s} : exec (.hostApertureAccess req) s = execHostApertureAccess req s := rfl
@[simp] theorem exec_registerWrite {off value s} : exec (.registerWrite off value) s = execRegisterWrite off value s := rfl
@[simp] theorem exec_resetctlModule {s} : exec (.resetctlModule) s = execResetctlModule s := rfl
@[simp] theorem exec_resetctlFunction {s} : exec (.resetctlFunction) s = execResetctlFunction s := rfl
@[simp] theorem exec_pcieFlr {s} : exec (.pcieFlr) s = execPcieFlr s := rfl
@[simp] theorem exec_powerOn {s} : exec (.powerOn) s = execPowerOn s := rfl
@[simp] theorem exec_modidTimeout {s} : exec (.modidTimeout) s = execModidTimeout s := rfl
@[simp] theorem exec_mctpRead {hostBinding off s} : exec (.mctpRead hostBinding off) s = execMctpRead hostBinding off s := rfl
@[simp] theorem exec_mctpWrite {hostBinding off value s} : exec (.mctpWrite hostBinding off value) s = execMctpWrite hostBinding off value s := rfl
@[simp] theorem exec_attest {nonce s} : exec (.attest nonce) s = execAttest nonce s := rfl
@[simp] theorem exec_cntclr {value s} : exec (.cntclr value) s = execCntclr value s := rfl
@[simp] theorem exec_pcapWrite {value s} : exec (.pcapWrite value) s = execPcapWrite value s := rfl
@[simp] theorem exec_pfloorWrite {value s} : exec (.pfloorWrite value) s = execPfloorWrite value s := rfl
@[simp] theorem exec_modidWrite {value s} : exec (.modidWrite value) s = execModidWrite value s := rfl
@[simp] theorem exec_failedClear {die t expert s} : exec (.failedClear die t expert) s = execFailedClear die t expert s := rfl
@[simp] theorem exec_requestUpdate {hostBinding s} : exec (.requestUpdate hostBinding) s = execRequestUpdate hostBinding s := rfl
@[simp] theorem exec_firmwareImageTransfer {off bytes s} : exec (.firmwareImageTransfer off bytes) s = execFirmwareImageTransfer off bytes s := rfl
@[simp] theorem exec_verifyComplete {s} : exec (.verifyComplete) s = execVerifyComplete s := rfl
@[simp] theorem exec_activateFirmware {svnRaise s} : exec (.activateFirmware svnRaise) s = execActivateFirmware svnRaise s := rfl
@[simp] theorem exec_platformEventMessage {s} : exec (.platformEventMessage) s = execPlatformEventMessage s := rfl
@[simp] theorem exec_arbiterPeriod {sram hbm links vector arrays s} : exec (.arbiterPeriod sram hbm links vector arrays) s = execArbiterPeriod sram hbm links vector arrays s := rfl
@[simp] theorem exec_thermalTrip {die s} : exec (.thermalTrip die) s = execThermalTrip die s := rfl
@[simp] theorem exec_thermalClear {die s} : exec (.thermalClear die) s = execThermalClear die s := rfl
@[simp] theorem exec_ageRefresh {die value s} : exec (.ageRefresh die value) s = execAgeRefresh die value s := rfl
@[simp] theorem exec_eolRecompute {months s} : exec (.eolRecompute months) s = execEolRecompute months s := rfl
@[simp] theorem exec_heartbeat {die s} : exec (.heartbeat die) s = execHeartbeat die s := rfl
@[simp] theorem exec_heartbeatAnswer {die module s} : exec (.heartbeatAnswer die module) s = execHeartbeatAnswer die module s := rfl
@[simp] theorem exec_timeLock {s} : exec (.timeLock) s = execTimeLock s := rfl
@[simp] theorem exec_timeUnlock {s} : exec (.timeUnlock) s = execTimeUnlock s := rfl
@[simp] theorem exec_portDown {port s} : exec (.portDown port) s = execPortDown port s := rfl
@[simp] theorem exec_portRetrain {port lanes nport nmod s} : exec (.portRetrain port lanes nport nmod) s = execPortRetrain port lanes nport nmod s := rfl
@[simp] theorem exec_routeRecompute {reachable s} : exec (.routeRecompute reachable) s = execRouteRecompute reachable s := rfl
@[simp] theorem exec_idleTimeout {core q s} : exec (.idleTimeout core q) s = execIdleTimeout core q s := rfl
@[simp] theorem exec_mdrainComplete {core op s} : exec (.mdrainComplete core op) s = execMdrainComplete core op s := rfl
@[simp] theorem exec_managementModuleReset {s} : exec (.managementModuleReset) s = execManagementModuleReset s := rfl
@[simp] theorem exec_setEventReceiver {receiver s} : exec (.setEventReceiver receiver) s = execSetEventReceiver receiver s := rfl
@[simp] theorem exec_farTierHostWrite {ha bytes s} : exec (.farTierHostWrite ha bytes) s = execFarTierHostWrite ha bytes s := rfl
@[simp] theorem exec_launchForward {die packet place origin s} :
    exec (.launchForward die packet place origin) s = execLaunchForward die packet place origin s := rfl

end Sys2Proof.Machine
end

