-- ==== Sys2Proof/Laws/State.lean ====
section
/-! SUPPORT. What each update of the state changes: one lemma for each field it leaves, and how the parts of the state read
back after it. -/

namespace Sys2Proof

/-! ## Tables by number -/

@[simp] theorem Tbl.get?_set_self {α : Type} (t : Tbl α) (n : Nat) (v : α) : Tbl.get? (Tbl.set t n v) n = some v := by
  induction t with
  | nil => simp [Tbl.set, Tbl.get?]
  | cons e rest ih =>
    obtain ⟨k, u⟩ := e
    by_cases h : n = k
    · simp [Tbl.set, Tbl.get?, h]
    · by_cases h' : n < k <;> simp [Tbl.set, Tbl.get?, h, h', ih]

theorem Tbl.get?_set_ne {α : Type} (t : Tbl α) {n m : Nat} (v : α) (hm : m ≠ n) :
    Tbl.get? (Tbl.set t n v) m = Tbl.get? t m := by
  induction t with
  | nil => simp [Tbl.set, Tbl.get?, hm]
  | cons e rest ih =>
    obtain ⟨k, u⟩ := e
    by_cases h : n = k
    · subst h
      simp [Tbl.set, Tbl.get?, hm]
    · by_cases h' : n < k
      · by_cases h1 : m < n
        · simp [Tbl.set, Tbl.get?, h, h', hm, h1, show ¬m = k by omega, show m < k by omega]
        · simp [Tbl.set, Tbl.get?, h, h', hm, h1]
      · by_cases h1 : m = k <;> simp [Tbl.set, Tbl.get?, h, h', ih, h1]

@[simp] theorem Tbl.getD_set_self {α : Type} (t : Tbl α) (n : Nat) (v d : α) : Tbl.getD (Tbl.set t n v) n d = v := by
  simp [Tbl.getD]

theorem Tbl.getD_set_ne {α : Type} (t : Tbl α) {n m : Nat} (v d : α) (hm : m ≠ n) :
    Tbl.getD (Tbl.set t n v) m d = Tbl.getD t m d := by
  simp [Tbl.getD, Tbl.get?_set_ne t v hm]

end Sys2Proof

namespace Sys2Proof.Machine

open Sys2Proof

/-! ## Fields that an update leaves -/

@[simp] theorem State.setCore_turns (s : State) (n : Nat) (c : Core) : (s.setCore n c).turns = s.turns := rfl
@[simp] theorem State.setCore_core (s : State) (n : Nat) (c : Core) : (s.setCore n c).core = s.core := rfl
@[simp] theorem State.setCore_seq (s : State) (n : Nat) (c : Core) : (s.setCore n c).seq = s.seq := rfl
@[simp] theorem State.setCore_fresh (s : State) (n : Nat) (c : Core) : (s.setCore n c).fresh = s.fresh := rfl
@[simp] theorem State.setCore_time (s : State) (n : Nat) (c : Core) : (s.setCore n c).time = s.time := rfl
@[simp] theorem State.setCore_clusters (s : State) (n : Nat) (c : Core) : (s.setCore n c).clusters = s.clusters := rfl
@[simp] theorem State.setCore_dies (s : State) (n : Nat) (c : Core) : (s.setCore n c).dies = s.dies := rfl
@[simp] theorem State.setCore_mem (s : State) (n : Nat) (c : Core) : (s.setCore n c).mem = s.mem := rfl
@[simp] theorem State.setCore_host (s : State) (n : Nat) (c : Core) : (s.setCore n c).host = s.host := rfl
@[simp] theorem State.setCore_stamps (s : State) (n : Nat) (c : Core) : (s.setCore n c).stamps = s.stamps := rfl
@[simp] theorem State.setCore_bad (s : State) (n : Nat) (c : Core) : (s.setCore n c).bad = s.bad := rfl
@[simp] theorem State.setCore_tlb (s : State) (n : Nat) (c : Core) : (s.setCore n c).tlb = s.tlb := rfl
@[simp] theorem State.setCore_waiters (s : State) (n : Nat) (c : Core) : (s.setCore n c).waiters = s.waiters := rfl
@[simp] theorem State.setCore_remotePages (s : State) (n : Nat) (c : Core) : (s.setCore n c).remotePages = s.remotePages := rfl
@[simp] theorem State.setCore_groups (s : State) (n : Nat) (c : Core) : (s.setCore n c).groups = s.groups := rfl
@[simp] theorem State.setCore_launches (s : State) (n : Nat) (c : Core) : (s.setCore n c).launches = s.launches := rfl
@[simp] theorem State.setCore_nextLaunch (s : State) (n : Nat) (c : Core) : (s.setCore n c).nextLaunch = s.nextLaunch := rfl
@[simp] theorem State.setCore_arriving (s : State) (n : Nat) (c : Core) : (s.setCore n c).arriving = s.arriving := rfl
@[simp] theorem State.setCore_images (s : State) (n : Nat) (c : Core) : (s.setCore n c).images = s.images := rfl
@[simp] theorem State.setCore_spaces (s : State) (n : Nat) (c : Core) : (s.setCore n c).spaces = s.spaces := rfl
@[simp] theorem State.setCore_keys (s : State) (n : Nat) (c : Core) : (s.setCore n c).keys = s.keys := rfl
@[simp] theorem State.setCore_owed (s : State) (n : Nat) (c : Core) : (s.setCore n c).owed = s.owed := rfl
@[simp] theorem State.setCore_keydata (s : State) (n : Nat) (c : Core) : (s.setCore n c).keydata = s.keydata := rfl
@[simp] theorem State.setCore_keyErr (s : State) (n : Nat) (c : Core) : (s.setCore n c).keyErr = s.keyErr := rfl
@[simp] theorem State.setCore_keyLast (s : State) (n : Nat) (c : Core) : (s.setCore n c).keyLast = s.keyLast := rfl
@[simp] theorem State.setCore_tlbiva (s : State) (n : Nat) (c : Core) : (s.setCore n c).tlbiva = s.tlbiva := rfl
@[simp] theorem State.setCore_tlbictl (s : State) (n : Nat) (c : Core) : (s.setCore n c).tlbictl = s.tlbictl := rfl
@[simp] theorem State.setCore_tlbiGo (s : State) (n : Nat) (c : Core) : (s.setCore n c).tlbiGo = s.tlbiGo := rfl
@[simp] theorem State.setCore_tlbiRun (s : State) (n : Nat) (c : Core) : (s.setCore n c).tlbiRun = s.tlbiRun := rfl
@[simp] theorem State.setCore_tlbiOps (s : State) (n : Nat) (c : Core) : (s.setCore n c).tlbiOps = s.tlbiOps := rfl
@[simp] theorem State.setCore_tlbiOld (s : State) (n : Nat) (c : Core) : (s.setCore n c).tlbiOld = s.tlbiOld := rfl
@[simp] theorem State.setCore_aperbase (s : State) (n : Nat) (c : Core) : (s.setCore n c).aperbase = s.aperbase := rfl
@[simp] theorem State.setCore_farbase (s : State) (n : Nat) (c : Core) : (s.setCore n c).farbase = s.farbase := rfl
@[simp] theorem State.setCore_boot (s : State) (n : Nat) (c : Core) : (s.setCore n c).boot = s.boot := rfl
@[simp] theorem State.setCore_booterr (s : State) (n : Nat) (c : Core) : (s.setCore n c).booterr = s.booterr := rfl
@[simp] theorem State.setCore_svn (s : State) (n : Nat) (c : Core) : (s.setCore n c).svn = s.svn := rfl
@[simp] theorem State.setCore_meas (s : State) (n : Nat) (c : Core) : (s.setCore n c).meas = s.meas := rfl
@[simp] theorem State.setCore_modId (s : State) (n : Nat) (c : Core) : (s.setCore n c).modId = s.modId := rfl
@[simp] theorem State.setCore_roots (s : State) (n : Nat) (c : Core) : (s.setCore n c).roots = s.roots := rfl
@[simp] theorem State.setCore_sbt (s : State) (n : Nat) (c : Core) : (s.setCore n c).sbt = s.sbt := rfl
@[simp] theorem State.setCore_mgmt (s : State) (n : Nat) (c : Core) : (s.setCore n c).mgmt = s.mgmt := rfl
@[simp] theorem State.setCore_out (s : State) (n : Nat) (c : Core) : (s.setCore n c).out = s.out := rfl

@[simp] theorem State.setCluster_turns (s : State) (n : Nat) (c : Cluster) : (s.setCluster n c).turns = s.turns := rfl
@[simp] theorem State.setCluster_core (s : State) (n : Nat) (c : Cluster) : (s.setCluster n c).core = s.core := rfl
@[simp] theorem State.setCluster_seq (s : State) (n : Nat) (c : Cluster) : (s.setCluster n c).seq = s.seq := rfl
@[simp] theorem State.setCluster_fresh (s : State) (n : Nat) (c : Cluster) : (s.setCluster n c).fresh = s.fresh := rfl
@[simp] theorem State.setCluster_time (s : State) (n : Nat) (c : Cluster) : (s.setCluster n c).time = s.time := rfl
@[simp] theorem State.setCluster_cores (s : State) (n : Nat) (c : Cluster) : (s.setCluster n c).cores = s.cores := rfl
@[simp] theorem State.setCluster_dies (s : State) (n : Nat) (c : Cluster) : (s.setCluster n c).dies = s.dies := rfl
@[simp] theorem State.setCluster_mem (s : State) (n : Nat) (c : Cluster) : (s.setCluster n c).mem = s.mem := rfl
@[simp] theorem State.setCluster_host (s : State) (n : Nat) (c : Cluster) : (s.setCluster n c).host = s.host := rfl
@[simp] theorem State.setCluster_stamps (s : State) (n : Nat) (c : Cluster) : (s.setCluster n c).stamps = s.stamps := rfl
@[simp] theorem State.setCluster_bad (s : State) (n : Nat) (c : Cluster) : (s.setCluster n c).bad = s.bad := rfl
@[simp] theorem State.setCluster_tlb (s : State) (n : Nat) (c : Cluster) : (s.setCluster n c).tlb = s.tlb := rfl
@[simp] theorem State.setCluster_waiters (s : State) (n : Nat) (c : Cluster) : (s.setCluster n c).waiters = s.waiters := rfl
@[simp] theorem State.setCluster_remotePages (s : State) (n : Nat) (c : Cluster) : (s.setCluster n c).remotePages = s.remotePages := rfl
@[simp] theorem State.setCluster_groups (s : State) (n : Nat) (c : Cluster) : (s.setCluster n c).groups = s.groups := rfl
@[simp] theorem State.setCluster_launches (s : State) (n : Nat) (c : Cluster) : (s.setCluster n c).launches = s.launches := rfl
@[simp] theorem State.setCluster_nextLaunch (s : State) (n : Nat) (c : Cluster) : (s.setCluster n c).nextLaunch = s.nextLaunch := rfl
@[simp] theorem State.setCluster_arriving (s : State) (n : Nat) (c : Cluster) : (s.setCluster n c).arriving = s.arriving := rfl
@[simp] theorem State.setCluster_images (s : State) (n : Nat) (c : Cluster) : (s.setCluster n c).images = s.images := rfl
@[simp] theorem State.setCluster_spaces (s : State) (n : Nat) (c : Cluster) : (s.setCluster n c).spaces = s.spaces := rfl
@[simp] theorem State.setCluster_keys (s : State) (n : Nat) (c : Cluster) : (s.setCluster n c).keys = s.keys := rfl
@[simp] theorem State.setCluster_owed (s : State) (n : Nat) (c : Cluster) : (s.setCluster n c).owed = s.owed := rfl
@[simp] theorem State.setCluster_keydata (s : State) (n : Nat) (c : Cluster) : (s.setCluster n c).keydata = s.keydata := rfl
@[simp] theorem State.setCluster_keyErr (s : State) (n : Nat) (c : Cluster) : (s.setCluster n c).keyErr = s.keyErr := rfl
@[simp] theorem State.setCluster_keyLast (s : State) (n : Nat) (c : Cluster) : (s.setCluster n c).keyLast = s.keyLast := rfl
@[simp] theorem State.setCluster_tlbiva (s : State) (n : Nat) (c : Cluster) : (s.setCluster n c).tlbiva = s.tlbiva := rfl
@[simp] theorem State.setCluster_tlbictl (s : State) (n : Nat) (c : Cluster) : (s.setCluster n c).tlbictl = s.tlbictl := rfl
@[simp] theorem State.setCluster_tlbiGo (s : State) (n : Nat) (c : Cluster) : (s.setCluster n c).tlbiGo = s.tlbiGo := rfl
@[simp] theorem State.setCluster_tlbiRun (s : State) (n : Nat) (c : Cluster) : (s.setCluster n c).tlbiRun = s.tlbiRun := rfl
@[simp] theorem State.setCluster_tlbiOps (s : State) (n : Nat) (c : Cluster) : (s.setCluster n c).tlbiOps = s.tlbiOps := rfl
@[simp] theorem State.setCluster_tlbiOld (s : State) (n : Nat) (c : Cluster) : (s.setCluster n c).tlbiOld = s.tlbiOld := rfl
@[simp] theorem State.setCluster_aperbase (s : State) (n : Nat) (c : Cluster) : (s.setCluster n c).aperbase = s.aperbase := rfl
@[simp] theorem State.setCluster_farbase (s : State) (n : Nat) (c : Cluster) : (s.setCluster n c).farbase = s.farbase := rfl
@[simp] theorem State.setCluster_boot (s : State) (n : Nat) (c : Cluster) : (s.setCluster n c).boot = s.boot := rfl
@[simp] theorem State.setCluster_booterr (s : State) (n : Nat) (c : Cluster) : (s.setCluster n c).booterr = s.booterr := rfl
@[simp] theorem State.setCluster_svn (s : State) (n : Nat) (c : Cluster) : (s.setCluster n c).svn = s.svn := rfl
@[simp] theorem State.setCluster_meas (s : State) (n : Nat) (c : Cluster) : (s.setCluster n c).meas = s.meas := rfl
@[simp] theorem State.setCluster_modId (s : State) (n : Nat) (c : Cluster) : (s.setCluster n c).modId = s.modId := rfl
@[simp] theorem State.setCluster_roots (s : State) (n : Nat) (c : Cluster) : (s.setCluster n c).roots = s.roots := rfl
@[simp] theorem State.setCluster_sbt (s : State) (n : Nat) (c : Cluster) : (s.setCluster n c).sbt = s.sbt := rfl
@[simp] theorem State.setCluster_mgmt (s : State) (n : Nat) (c : Cluster) : (s.setCluster n c).mgmt = s.mgmt := rfl
@[simp] theorem State.setCluster_out (s : State) (n : Nat) (c : Cluster) : (s.setCluster n c).out = s.out := rfl

@[simp] theorem State.setDie_turns (s : State) (n : Nat) (d : Die) : (s.setDie n d).turns = s.turns := rfl
@[simp] theorem State.setDie_core (s : State) (n : Nat) (d : Die) : (s.setDie n d).core = s.core := rfl
@[simp] theorem State.setDie_seq (s : State) (n : Nat) (d : Die) : (s.setDie n d).seq = s.seq := rfl
@[simp] theorem State.setDie_fresh (s : State) (n : Nat) (d : Die) : (s.setDie n d).fresh = s.fresh := rfl
@[simp] theorem State.setDie_time (s : State) (n : Nat) (d : Die) : (s.setDie n d).time = s.time := rfl
@[simp] theorem State.setDie_cores (s : State) (n : Nat) (d : Die) : (s.setDie n d).cores = s.cores := rfl
@[simp] theorem State.setDie_clusters (s : State) (n : Nat) (d : Die) : (s.setDie n d).clusters = s.clusters := rfl
@[simp] theorem State.setDie_mem (s : State) (n : Nat) (d : Die) : (s.setDie n d).mem = s.mem := rfl
@[simp] theorem State.setDie_host (s : State) (n : Nat) (d : Die) : (s.setDie n d).host = s.host := rfl
@[simp] theorem State.setDie_stamps (s : State) (n : Nat) (d : Die) : (s.setDie n d).stamps = s.stamps := rfl
@[simp] theorem State.setDie_bad (s : State) (n : Nat) (d : Die) : (s.setDie n d).bad = s.bad := rfl
@[simp] theorem State.setDie_tlb (s : State) (n : Nat) (d : Die) : (s.setDie n d).tlb = s.tlb := rfl
@[simp] theorem State.setDie_waiters (s : State) (n : Nat) (d : Die) : (s.setDie n d).waiters = s.waiters := rfl
@[simp] theorem State.setDie_remotePages (s : State) (n : Nat) (d : Die) : (s.setDie n d).remotePages = s.remotePages := rfl
@[simp] theorem State.setDie_groups (s : State) (n : Nat) (d : Die) : (s.setDie n d).groups = s.groups := rfl
@[simp] theorem State.setDie_launches (s : State) (n : Nat) (d : Die) : (s.setDie n d).launches = s.launches := rfl
@[simp] theorem State.setDie_nextLaunch (s : State) (n : Nat) (d : Die) : (s.setDie n d).nextLaunch = s.nextLaunch := rfl
@[simp] theorem State.setDie_arriving (s : State) (n : Nat) (d : Die) : (s.setDie n d).arriving = s.arriving := rfl
@[simp] theorem State.setDie_images (s : State) (n : Nat) (d : Die) : (s.setDie n d).images = s.images := rfl
@[simp] theorem State.setDie_spaces (s : State) (n : Nat) (d : Die) : (s.setDie n d).spaces = s.spaces := rfl
@[simp] theorem State.setDie_keys (s : State) (n : Nat) (d : Die) : (s.setDie n d).keys = s.keys := rfl
@[simp] theorem State.setDie_owed (s : State) (n : Nat) (d : Die) : (s.setDie n d).owed = s.owed := rfl
@[simp] theorem State.setDie_keydata (s : State) (n : Nat) (d : Die) : (s.setDie n d).keydata = s.keydata := rfl
@[simp] theorem State.setDie_keyErr (s : State) (n : Nat) (d : Die) : (s.setDie n d).keyErr = s.keyErr := rfl
@[simp] theorem State.setDie_keyLast (s : State) (n : Nat) (d : Die) : (s.setDie n d).keyLast = s.keyLast := rfl
@[simp] theorem State.setDie_tlbiva (s : State) (n : Nat) (d : Die) : (s.setDie n d).tlbiva = s.tlbiva := rfl
@[simp] theorem State.setDie_tlbictl (s : State) (n : Nat) (d : Die) : (s.setDie n d).tlbictl = s.tlbictl := rfl
@[simp] theorem State.setDie_tlbiGo (s : State) (n : Nat) (d : Die) : (s.setDie n d).tlbiGo = s.tlbiGo := rfl
@[simp] theorem State.setDie_tlbiRun (s : State) (n : Nat) (d : Die) : (s.setDie n d).tlbiRun = s.tlbiRun := rfl
@[simp] theorem State.setDie_tlbiOps (s : State) (n : Nat) (d : Die) : (s.setDie n d).tlbiOps = s.tlbiOps := rfl
@[simp] theorem State.setDie_tlbiOld (s : State) (n : Nat) (d : Die) : (s.setDie n d).tlbiOld = s.tlbiOld := rfl
@[simp] theorem State.setDie_aperbase (s : State) (n : Nat) (d : Die) : (s.setDie n d).aperbase = s.aperbase := rfl
@[simp] theorem State.setDie_farbase (s : State) (n : Nat) (d : Die) : (s.setDie n d).farbase = s.farbase := rfl
@[simp] theorem State.setDie_boot (s : State) (n : Nat) (d : Die) : (s.setDie n d).boot = s.boot := rfl
@[simp] theorem State.setDie_booterr (s : State) (n : Nat) (d : Die) : (s.setDie n d).booterr = s.booterr := rfl
@[simp] theorem State.setDie_svn (s : State) (n : Nat) (d : Die) : (s.setDie n d).svn = s.svn := rfl
@[simp] theorem State.setDie_meas (s : State) (n : Nat) (d : Die) : (s.setDie n d).meas = s.meas := rfl
@[simp] theorem State.setDie_modId (s : State) (n : Nat) (d : Die) : (s.setDie n d).modId = s.modId := rfl
@[simp] theorem State.setDie_roots (s : State) (n : Nat) (d : Die) : (s.setDie n d).roots = s.roots := rfl
@[simp] theorem State.setDie_sbt (s : State) (n : Nat) (d : Die) : (s.setDie n d).sbt = s.sbt := rfl
@[simp] theorem State.setDie_mgmt (s : State) (n : Nat) (d : Die) : (s.setDie n d).mgmt = s.mgmt := rfl
@[simp] theorem State.setDie_out (s : State) (n : Nat) (d : Die) : (s.setDie n d).out = s.out := rfl

@[simp] theorem State.setLaunch_turns (s : State) (n : Nat) (l : Launch) : (s.setLaunch n l).turns = s.turns := rfl
@[simp] theorem State.setLaunch_core (s : State) (n : Nat) (l : Launch) : (s.setLaunch n l).core = s.core := rfl
@[simp] theorem State.setLaunch_seq (s : State) (n : Nat) (l : Launch) : (s.setLaunch n l).seq = s.seq := rfl
@[simp] theorem State.setLaunch_fresh (s : State) (n : Nat) (l : Launch) : (s.setLaunch n l).fresh = s.fresh := rfl
@[simp] theorem State.setLaunch_time (s : State) (n : Nat) (l : Launch) : (s.setLaunch n l).time = s.time := rfl
@[simp] theorem State.setLaunch_cores (s : State) (n : Nat) (l : Launch) : (s.setLaunch n l).cores = s.cores := rfl
@[simp] theorem State.setLaunch_clusters (s : State) (n : Nat) (l : Launch) : (s.setLaunch n l).clusters = s.clusters := rfl
@[simp] theorem State.setLaunch_dies (s : State) (n : Nat) (l : Launch) : (s.setLaunch n l).dies = s.dies := rfl
@[simp] theorem State.setLaunch_mem (s : State) (n : Nat) (l : Launch) : (s.setLaunch n l).mem = s.mem := rfl
@[simp] theorem State.setLaunch_host (s : State) (n : Nat) (l : Launch) : (s.setLaunch n l).host = s.host := rfl
@[simp] theorem State.setLaunch_stamps (s : State) (n : Nat) (l : Launch) : (s.setLaunch n l).stamps = s.stamps := rfl
@[simp] theorem State.setLaunch_bad (s : State) (n : Nat) (l : Launch) : (s.setLaunch n l).bad = s.bad := rfl
@[simp] theorem State.setLaunch_tlb (s : State) (n : Nat) (l : Launch) : (s.setLaunch n l).tlb = s.tlb := rfl
@[simp] theorem State.setLaunch_waiters (s : State) (n : Nat) (l : Launch) : (s.setLaunch n l).waiters = s.waiters := rfl
@[simp] theorem State.setLaunch_remotePages (s : State) (n : Nat) (l : Launch) : (s.setLaunch n l).remotePages = s.remotePages := rfl
@[simp] theorem State.setLaunch_groups (s : State) (n : Nat) (l : Launch) : (s.setLaunch n l).groups = s.groups := rfl
@[simp] theorem State.setLaunch_nextLaunch (s : State) (n : Nat) (l : Launch) : (s.setLaunch n l).nextLaunch = s.nextLaunch := rfl
@[simp] theorem State.setLaunch_arriving (s : State) (n : Nat) (l : Launch) : (s.setLaunch n l).arriving = s.arriving := rfl
@[simp] theorem State.setLaunch_images (s : State) (n : Nat) (l : Launch) : (s.setLaunch n l).images = s.images := rfl
@[simp] theorem State.setLaunch_spaces (s : State) (n : Nat) (l : Launch) : (s.setLaunch n l).spaces = s.spaces := rfl
@[simp] theorem State.setLaunch_keys (s : State) (n : Nat) (l : Launch) : (s.setLaunch n l).keys = s.keys := rfl
@[simp] theorem State.setLaunch_owed (s : State) (n : Nat) (l : Launch) : (s.setLaunch n l).owed = s.owed := rfl
@[simp] theorem State.setLaunch_keydata (s : State) (n : Nat) (l : Launch) : (s.setLaunch n l).keydata = s.keydata := rfl
@[simp] theorem State.setLaunch_keyErr (s : State) (n : Nat) (l : Launch) : (s.setLaunch n l).keyErr = s.keyErr := rfl
@[simp] theorem State.setLaunch_keyLast (s : State) (n : Nat) (l : Launch) : (s.setLaunch n l).keyLast = s.keyLast := rfl
@[simp] theorem State.setLaunch_tlbiva (s : State) (n : Nat) (l : Launch) : (s.setLaunch n l).tlbiva = s.tlbiva := rfl
@[simp] theorem State.setLaunch_tlbictl (s : State) (n : Nat) (l : Launch) : (s.setLaunch n l).tlbictl = s.tlbictl := rfl
@[simp] theorem State.setLaunch_tlbiGo (s : State) (n : Nat) (l : Launch) : (s.setLaunch n l).tlbiGo = s.tlbiGo := rfl
@[simp] theorem State.setLaunch_tlbiRun (s : State) (n : Nat) (l : Launch) : (s.setLaunch n l).tlbiRun = s.tlbiRun := rfl
@[simp] theorem State.setLaunch_tlbiOps (s : State) (n : Nat) (l : Launch) : (s.setLaunch n l).tlbiOps = s.tlbiOps := rfl
@[simp] theorem State.setLaunch_tlbiOld (s : State) (n : Nat) (l : Launch) : (s.setLaunch n l).tlbiOld = s.tlbiOld := rfl
@[simp] theorem State.setLaunch_aperbase (s : State) (n : Nat) (l : Launch) : (s.setLaunch n l).aperbase = s.aperbase := rfl
@[simp] theorem State.setLaunch_farbase (s : State) (n : Nat) (l : Launch) : (s.setLaunch n l).farbase = s.farbase := rfl
@[simp] theorem State.setLaunch_boot (s : State) (n : Nat) (l : Launch) : (s.setLaunch n l).boot = s.boot := rfl
@[simp] theorem State.setLaunch_booterr (s : State) (n : Nat) (l : Launch) : (s.setLaunch n l).booterr = s.booterr := rfl
@[simp] theorem State.setLaunch_svn (s : State) (n : Nat) (l : Launch) : (s.setLaunch n l).svn = s.svn := rfl
@[simp] theorem State.setLaunch_meas (s : State) (n : Nat) (l : Launch) : (s.setLaunch n l).meas = s.meas := rfl
@[simp] theorem State.setLaunch_modId (s : State) (n : Nat) (l : Launch) : (s.setLaunch n l).modId = s.modId := rfl
@[simp] theorem State.setLaunch_roots (s : State) (n : Nat) (l : Launch) : (s.setLaunch n l).roots = s.roots := rfl
@[simp] theorem State.setLaunch_sbt (s : State) (n : Nat) (l : Launch) : (s.setLaunch n l).sbt = s.sbt := rfl
@[simp] theorem State.setLaunch_mgmt (s : State) (n : Nat) (l : Launch) : (s.setLaunch n l).mgmt = s.mgmt := rfl
@[simp] theorem State.setLaunch_out (s : State) (n : Nat) (l : Launch) : (s.setLaunch n l).out = s.out := rfl

@[simp] theorem State.emit_turns (s : State) (m : Msg) : (s.emit m).turns = s.turns := rfl
@[simp] theorem State.emit_core (s : State) (m : Msg) : (s.emit m).core = s.core := rfl
@[simp] theorem State.emit_seq (s : State) (m : Msg) : (s.emit m).seq = s.seq := rfl
@[simp] theorem State.emit_fresh (s : State) (m : Msg) : (s.emit m).fresh = s.fresh := rfl
@[simp] theorem State.emit_time (s : State) (m : Msg) : (s.emit m).time = s.time := rfl
@[simp] theorem State.emit_cores (s : State) (m : Msg) : (s.emit m).cores = s.cores := rfl
@[simp] theorem State.emit_clusters (s : State) (m : Msg) : (s.emit m).clusters = s.clusters := rfl
@[simp] theorem State.emit_dies (s : State) (m : Msg) : (s.emit m).dies = s.dies := rfl
@[simp] theorem State.emit_mem (s : State) (m : Msg) : (s.emit m).mem = s.mem := rfl
@[simp] theorem State.emit_host (s : State) (m : Msg) : (s.emit m).host = s.host := rfl
@[simp] theorem State.emit_stamps (s : State) (m : Msg) : (s.emit m).stamps = s.stamps := rfl
@[simp] theorem State.emit_bad (s : State) (m : Msg) : (s.emit m).bad = s.bad := rfl
@[simp] theorem State.emit_tlb (s : State) (m : Msg) : (s.emit m).tlb = s.tlb := rfl
@[simp] theorem State.emit_waiters (s : State) (m : Msg) : (s.emit m).waiters = s.waiters := rfl
@[simp] theorem State.emit_remotePages (s : State) (m : Msg) : (s.emit m).remotePages = s.remotePages := rfl
@[simp] theorem State.emit_groups (s : State) (m : Msg) : (s.emit m).groups = s.groups := rfl
@[simp] theorem State.emit_launches (s : State) (m : Msg) : (s.emit m).launches = s.launches := rfl
@[simp] theorem State.emit_nextLaunch (s : State) (m : Msg) : (s.emit m).nextLaunch = s.nextLaunch := rfl
@[simp] theorem State.emit_arriving (s : State) (m : Msg) : (s.emit m).arriving = s.arriving := rfl
@[simp] theorem State.emit_images (s : State) (m : Msg) : (s.emit m).images = s.images := rfl
@[simp] theorem State.emit_spaces (s : State) (m : Msg) : (s.emit m).spaces = s.spaces := rfl
@[simp] theorem State.emit_keys (s : State) (m : Msg) : (s.emit m).keys = s.keys := rfl
@[simp] theorem State.emit_owed (s : State) (m : Msg) : (s.emit m).owed = s.owed := rfl
@[simp] theorem State.emit_keydata (s : State) (m : Msg) : (s.emit m).keydata = s.keydata := rfl
@[simp] theorem State.emit_keyErr (s : State) (m : Msg) : (s.emit m).keyErr = s.keyErr := rfl
@[simp] theorem State.emit_keyLast (s : State) (m : Msg) : (s.emit m).keyLast = s.keyLast := rfl
@[simp] theorem State.emit_tlbiva (s : State) (m : Msg) : (s.emit m).tlbiva = s.tlbiva := rfl
@[simp] theorem State.emit_tlbictl (s : State) (m : Msg) : (s.emit m).tlbictl = s.tlbictl := rfl
@[simp] theorem State.emit_tlbiGo (s : State) (m : Msg) : (s.emit m).tlbiGo = s.tlbiGo := rfl
@[simp] theorem State.emit_tlbiRun (s : State) (m : Msg) : (s.emit m).tlbiRun = s.tlbiRun := rfl
@[simp] theorem State.emit_tlbiOps (s : State) (m : Msg) : (s.emit m).tlbiOps = s.tlbiOps := rfl
@[simp] theorem State.emit_tlbiOld (s : State) (m : Msg) : (s.emit m).tlbiOld = s.tlbiOld := rfl
@[simp] theorem State.emit_aperbase (s : State) (m : Msg) : (s.emit m).aperbase = s.aperbase := rfl
@[simp] theorem State.emit_farbase (s : State) (m : Msg) : (s.emit m).farbase = s.farbase := rfl
@[simp] theorem State.emit_boot (s : State) (m : Msg) : (s.emit m).boot = s.boot := rfl
@[simp] theorem State.emit_booterr (s : State) (m : Msg) : (s.emit m).booterr = s.booterr := rfl
@[simp] theorem State.emit_svn (s : State) (m : Msg) : (s.emit m).svn = s.svn := rfl
@[simp] theorem State.emit_meas (s : State) (m : Msg) : (s.emit m).meas = s.meas := rfl
@[simp] theorem State.emit_modId (s : State) (m : Msg) : (s.emit m).modId = s.modId := rfl
@[simp] theorem State.emit_roots (s : State) (m : Msg) : (s.emit m).roots = s.roots := rfl
@[simp] theorem State.emit_sbt (s : State) (m : Msg) : (s.emit m).sbt = s.sbt := rfl
@[simp] theorem State.emit_mgmt (s : State) (m : Msg) : (s.emit m).mgmt = s.mgmt := rfl

@[simp] theorem State.setCur_turns (s : State) (c : Core) : (s.setCur c).turns = s.turns := rfl
@[simp] theorem State.setCur_core (s : State) (c : Core) : (s.setCur c).core = s.core := rfl
@[simp] theorem State.setCur_seq (s : State) (c : Core) : (s.setCur c).seq = s.seq := rfl
@[simp] theorem State.setCur_fresh (s : State) (c : Core) : (s.setCur c).fresh = s.fresh := rfl
@[simp] theorem State.setCur_time (s : State) (c : Core) : (s.setCur c).time = s.time := rfl
@[simp] theorem State.setCur_clusters (s : State) (c : Core) : (s.setCur c).clusters = s.clusters := rfl
@[simp] theorem State.setCur_dies (s : State) (c : Core) : (s.setCur c).dies = s.dies := rfl
@[simp] theorem State.setCur_mem (s : State) (c : Core) : (s.setCur c).mem = s.mem := rfl
@[simp] theorem State.setCur_host (s : State) (c : Core) : (s.setCur c).host = s.host := rfl
@[simp] theorem State.setCur_stamps (s : State) (c : Core) : (s.setCur c).stamps = s.stamps := rfl
@[simp] theorem State.setCur_bad (s : State) (c : Core) : (s.setCur c).bad = s.bad := rfl
@[simp] theorem State.setCur_tlb (s : State) (c : Core) : (s.setCur c).tlb = s.tlb := rfl
@[simp] theorem State.setCur_waiters (s : State) (c : Core) : (s.setCur c).waiters = s.waiters := rfl
@[simp] theorem State.setCur_remotePages (s : State) (c : Core) : (s.setCur c).remotePages = s.remotePages := rfl
@[simp] theorem State.setCur_groups (s : State) (c : Core) : (s.setCur c).groups = s.groups := rfl
@[simp] theorem State.setCur_launches (s : State) (c : Core) : (s.setCur c).launches = s.launches := rfl
@[simp] theorem State.setCur_nextLaunch (s : State) (c : Core) : (s.setCur c).nextLaunch = s.nextLaunch := rfl
@[simp] theorem State.setCur_arriving (s : State) (c : Core) : (s.setCur c).arriving = s.arriving := rfl
@[simp] theorem State.setCur_images (s : State) (c : Core) : (s.setCur c).images = s.images := rfl
@[simp] theorem State.setCur_spaces (s : State) (c : Core) : (s.setCur c).spaces = s.spaces := rfl
@[simp] theorem State.setCur_keys (s : State) (c : Core) : (s.setCur c).keys = s.keys := rfl
@[simp] theorem State.setCur_owed (s : State) (c : Core) : (s.setCur c).owed = s.owed := rfl
@[simp] theorem State.setCur_keydata (s : State) (c : Core) : (s.setCur c).keydata = s.keydata := rfl
@[simp] theorem State.setCur_keyErr (s : State) (c : Core) : (s.setCur c).keyErr = s.keyErr := rfl
@[simp] theorem State.setCur_keyLast (s : State) (c : Core) : (s.setCur c).keyLast = s.keyLast := rfl
@[simp] theorem State.setCur_tlbiva (s : State) (c : Core) : (s.setCur c).tlbiva = s.tlbiva := rfl
@[simp] theorem State.setCur_tlbictl (s : State) (c : Core) : (s.setCur c).tlbictl = s.tlbictl := rfl
@[simp] theorem State.setCur_tlbiGo (s : State) (c : Core) : (s.setCur c).tlbiGo = s.tlbiGo := rfl
@[simp] theorem State.setCur_tlbiRun (s : State) (c : Core) : (s.setCur c).tlbiRun = s.tlbiRun := rfl
@[simp] theorem State.setCur_tlbiOps (s : State) (c : Core) : (s.setCur c).tlbiOps = s.tlbiOps := rfl
@[simp] theorem State.setCur_tlbiOld (s : State) (c : Core) : (s.setCur c).tlbiOld = s.tlbiOld := rfl
@[simp] theorem State.setCur_aperbase (s : State) (c : Core) : (s.setCur c).aperbase = s.aperbase := rfl
@[simp] theorem State.setCur_farbase (s : State) (c : Core) : (s.setCur c).farbase = s.farbase := rfl
@[simp] theorem State.setCur_boot (s : State) (c : Core) : (s.setCur c).boot = s.boot := rfl
@[simp] theorem State.setCur_booterr (s : State) (c : Core) : (s.setCur c).booterr = s.booterr := rfl
@[simp] theorem State.setCur_svn (s : State) (c : Core) : (s.setCur c).svn = s.svn := rfl
@[simp] theorem State.setCur_meas (s : State) (c : Core) : (s.setCur c).meas = s.meas := rfl
@[simp] theorem State.setCur_modId (s : State) (c : Core) : (s.setCur c).modId = s.modId := rfl
@[simp] theorem State.setCur_roots (s : State) (c : Core) : (s.setCur c).roots = s.roots := rfl
@[simp] theorem State.setCur_sbt (s : State) (c : Core) : (s.setCur c).sbt = s.sbt := rfl
@[simp] theorem State.setCur_mgmt (s : State) (c : Core) : (s.setCur c).mgmt = s.mgmt := rfl
@[simp] theorem State.setCur_out (s : State) (c : Core) : (s.setCur c).out = s.out := rfl

@[simp] theorem State.setSq_turns (s : State) (r : Seqr) : (s.setSq r).turns = s.turns := rfl
@[simp] theorem State.setSq_core (s : State) (r : Seqr) : (s.setSq r).core = s.core := rfl
@[simp] theorem State.setSq_seq (s : State) (r : Seqr) : (s.setSq r).seq = s.seq := rfl
@[simp] theorem State.setSq_fresh (s : State) (r : Seqr) : (s.setSq r).fresh = s.fresh := rfl
@[simp] theorem State.setSq_time (s : State) (r : Seqr) : (s.setSq r).time = s.time := rfl
@[simp] theorem State.setSq_clusters (s : State) (r : Seqr) : (s.setSq r).clusters = s.clusters := rfl
@[simp] theorem State.setSq_dies (s : State) (r : Seqr) : (s.setSq r).dies = s.dies := rfl
@[simp] theorem State.setSq_mem (s : State) (r : Seqr) : (s.setSq r).mem = s.mem := rfl
@[simp] theorem State.setSq_host (s : State) (r : Seqr) : (s.setSq r).host = s.host := rfl
@[simp] theorem State.setSq_stamps (s : State) (r : Seqr) : (s.setSq r).stamps = s.stamps := rfl
@[simp] theorem State.setSq_bad (s : State) (r : Seqr) : (s.setSq r).bad = s.bad := rfl
@[simp] theorem State.setSq_tlb (s : State) (r : Seqr) : (s.setSq r).tlb = s.tlb := rfl
@[simp] theorem State.setSq_waiters (s : State) (r : Seqr) : (s.setSq r).waiters = s.waiters := rfl
@[simp] theorem State.setSq_remotePages (s : State) (r : Seqr) : (s.setSq r).remotePages = s.remotePages := rfl
@[simp] theorem State.setSq_groups (s : State) (r : Seqr) : (s.setSq r).groups = s.groups := rfl
@[simp] theorem State.setSq_launches (s : State) (r : Seqr) : (s.setSq r).launches = s.launches := rfl
@[simp] theorem State.setSq_nextLaunch (s : State) (r : Seqr) : (s.setSq r).nextLaunch = s.nextLaunch := rfl
@[simp] theorem State.setSq_arriving (s : State) (r : Seqr) : (s.setSq r).arriving = s.arriving := rfl
@[simp] theorem State.setSq_images (s : State) (r : Seqr) : (s.setSq r).images = s.images := rfl
@[simp] theorem State.setSq_spaces (s : State) (r : Seqr) : (s.setSq r).spaces = s.spaces := rfl
@[simp] theorem State.setSq_keys (s : State) (r : Seqr) : (s.setSq r).keys = s.keys := rfl
@[simp] theorem State.setSq_owed (s : State) (r : Seqr) : (s.setSq r).owed = s.owed := rfl
@[simp] theorem State.setSq_keydata (s : State) (r : Seqr) : (s.setSq r).keydata = s.keydata := rfl
@[simp] theorem State.setSq_keyErr (s : State) (r : Seqr) : (s.setSq r).keyErr = s.keyErr := rfl
@[simp] theorem State.setSq_keyLast (s : State) (r : Seqr) : (s.setSq r).keyLast = s.keyLast := rfl
@[simp] theorem State.setSq_tlbiva (s : State) (r : Seqr) : (s.setSq r).tlbiva = s.tlbiva := rfl
@[simp] theorem State.setSq_tlbictl (s : State) (r : Seqr) : (s.setSq r).tlbictl = s.tlbictl := rfl
@[simp] theorem State.setSq_tlbiGo (s : State) (r : Seqr) : (s.setSq r).tlbiGo = s.tlbiGo := rfl
@[simp] theorem State.setSq_tlbiRun (s : State) (r : Seqr) : (s.setSq r).tlbiRun = s.tlbiRun := rfl
@[simp] theorem State.setSq_tlbiOps (s : State) (r : Seqr) : (s.setSq r).tlbiOps = s.tlbiOps := rfl
@[simp] theorem State.setSq_tlbiOld (s : State) (r : Seqr) : (s.setSq r).tlbiOld = s.tlbiOld := rfl
@[simp] theorem State.setSq_aperbase (s : State) (r : Seqr) : (s.setSq r).aperbase = s.aperbase := rfl
@[simp] theorem State.setSq_farbase (s : State) (r : Seqr) : (s.setSq r).farbase = s.farbase := rfl
@[simp] theorem State.setSq_boot (s : State) (r : Seqr) : (s.setSq r).boot = s.boot := rfl
@[simp] theorem State.setSq_booterr (s : State) (r : Seqr) : (s.setSq r).booterr = s.booterr := rfl
@[simp] theorem State.setSq_svn (s : State) (r : Seqr) : (s.setSq r).svn = s.svn := rfl
@[simp] theorem State.setSq_meas (s : State) (r : Seqr) : (s.setSq r).meas = s.meas := rfl
@[simp] theorem State.setSq_modId (s : State) (r : Seqr) : (s.setSq r).modId = s.modId := rfl
@[simp] theorem State.setSq_roots (s : State) (r : Seqr) : (s.setSq r).roots = s.roots := rfl
@[simp] theorem State.setSq_sbt (s : State) (r : Seqr) : (s.setSq r).sbt = s.sbt := rfl
@[simp] theorem State.setSq_mgmt (s : State) (r : Seqr) : (s.setSq r).mgmt = s.mgmt := rfl
@[simp] theorem State.setSq_out (s : State) (r : Seqr) : (s.setSq r).out = s.out := rfl

@[simp] theorem State.setX_turns (s : State) (r : XReg) (v : Word64) : (s.setX r v).turns = s.turns := rfl
@[simp] theorem State.setX_core (s : State) (r : XReg) (v : Word64) : (s.setX r v).core = s.core := rfl
@[simp] theorem State.setX_seq (s : State) (r : XReg) (v : Word64) : (s.setX r v).seq = s.seq := rfl
@[simp] theorem State.setX_fresh (s : State) (r : XReg) (v : Word64) : (s.setX r v).fresh = s.fresh := rfl
@[simp] theorem State.setX_time (s : State) (r : XReg) (v : Word64) : (s.setX r v).time = s.time := rfl
@[simp] theorem State.setX_clusters (s : State) (r : XReg) (v : Word64) : (s.setX r v).clusters = s.clusters := rfl
@[simp] theorem State.setX_dies (s : State) (r : XReg) (v : Word64) : (s.setX r v).dies = s.dies := rfl
@[simp] theorem State.setX_mem (s : State) (r : XReg) (v : Word64) : (s.setX r v).mem = s.mem := rfl
@[simp] theorem State.setX_host (s : State) (r : XReg) (v : Word64) : (s.setX r v).host = s.host := rfl
@[simp] theorem State.setX_stamps (s : State) (r : XReg) (v : Word64) : (s.setX r v).stamps = s.stamps := rfl
@[simp] theorem State.setX_bad (s : State) (r : XReg) (v : Word64) : (s.setX r v).bad = s.bad := rfl
@[simp] theorem State.setX_tlb (s : State) (r : XReg) (v : Word64) : (s.setX r v).tlb = s.tlb := rfl
@[simp] theorem State.setX_waiters (s : State) (r : XReg) (v : Word64) : (s.setX r v).waiters = s.waiters := rfl
@[simp] theorem State.setX_remotePages (s : State) (r : XReg) (v : Word64) : (s.setX r v).remotePages = s.remotePages := rfl
@[simp] theorem State.setX_groups (s : State) (r : XReg) (v : Word64) : (s.setX r v).groups = s.groups := rfl
@[simp] theorem State.setX_launches (s : State) (r : XReg) (v : Word64) : (s.setX r v).launches = s.launches := rfl
@[simp] theorem State.setX_nextLaunch (s : State) (r : XReg) (v : Word64) : (s.setX r v).nextLaunch = s.nextLaunch := rfl
@[simp] theorem State.setX_arriving (s : State) (r : XReg) (v : Word64) : (s.setX r v).arriving = s.arriving := rfl
@[simp] theorem State.setX_images (s : State) (r : XReg) (v : Word64) : (s.setX r v).images = s.images := rfl
@[simp] theorem State.setX_spaces (s : State) (r : XReg) (v : Word64) : (s.setX r v).spaces = s.spaces := rfl
@[simp] theorem State.setX_keys (s : State) (r : XReg) (v : Word64) : (s.setX r v).keys = s.keys := rfl
@[simp] theorem State.setX_owed (s : State) (r : XReg) (v : Word64) : (s.setX r v).owed = s.owed := rfl
@[simp] theorem State.setX_keydata (s : State) (r : XReg) (v : Word64) : (s.setX r v).keydata = s.keydata := rfl
@[simp] theorem State.setX_keyErr (s : State) (r : XReg) (v : Word64) : (s.setX r v).keyErr = s.keyErr := rfl
@[simp] theorem State.setX_keyLast (s : State) (r : XReg) (v : Word64) : (s.setX r v).keyLast = s.keyLast := rfl
@[simp] theorem State.setX_tlbiva (s : State) (r : XReg) (v : Word64) : (s.setX r v).tlbiva = s.tlbiva := rfl
@[simp] theorem State.setX_tlbictl (s : State) (r : XReg) (v : Word64) : (s.setX r v).tlbictl = s.tlbictl := rfl
@[simp] theorem State.setX_tlbiGo (s : State) (r : XReg) (v : Word64) : (s.setX r v).tlbiGo = s.tlbiGo := rfl
@[simp] theorem State.setX_tlbiRun (s : State) (r : XReg) (v : Word64) : (s.setX r v).tlbiRun = s.tlbiRun := rfl
@[simp] theorem State.setX_tlbiOps (s : State) (r : XReg) (v : Word64) : (s.setX r v).tlbiOps = s.tlbiOps := rfl
@[simp] theorem State.setX_tlbiOld (s : State) (r : XReg) (v : Word64) : (s.setX r v).tlbiOld = s.tlbiOld := rfl
@[simp] theorem State.setX_aperbase (s : State) (r : XReg) (v : Word64) : (s.setX r v).aperbase = s.aperbase := rfl
@[simp] theorem State.setX_farbase (s : State) (r : XReg) (v : Word64) : (s.setX r v).farbase = s.farbase := rfl
@[simp] theorem State.setX_boot (s : State) (r : XReg) (v : Word64) : (s.setX r v).boot = s.boot := rfl
@[simp] theorem State.setX_booterr (s : State) (r : XReg) (v : Word64) : (s.setX r v).booterr = s.booterr := rfl
@[simp] theorem State.setX_svn (s : State) (r : XReg) (v : Word64) : (s.setX r v).svn = s.svn := rfl
@[simp] theorem State.setX_meas (s : State) (r : XReg) (v : Word64) : (s.setX r v).meas = s.meas := rfl
@[simp] theorem State.setX_modId (s : State) (r : XReg) (v : Word64) : (s.setX r v).modId = s.modId := rfl
@[simp] theorem State.setX_roots (s : State) (r : XReg) (v : Word64) : (s.setX r v).roots = s.roots := rfl
@[simp] theorem State.setX_sbt (s : State) (r : XReg) (v : Word64) : (s.setX r v).sbt = s.sbt := rfl
@[simp] theorem State.setX_mgmt (s : State) (r : XReg) (v : Word64) : (s.setX r v).mgmt = s.mgmt := rfl
@[simp] theorem State.setX_out (s : State) (r : XReg) (v : Word64) : (s.setX r v).out = s.out := rfl

@[simp] theorem State.setA_turns (s : State) (r : AReg) (v : Word64) : (s.setA r v).turns = s.turns := rfl
@[simp] theorem State.setA_core (s : State) (r : AReg) (v : Word64) : (s.setA r v).core = s.core := rfl
@[simp] theorem State.setA_seq (s : State) (r : AReg) (v : Word64) : (s.setA r v).seq = s.seq := rfl
@[simp] theorem State.setA_fresh (s : State) (r : AReg) (v : Word64) : (s.setA r v).fresh = s.fresh := rfl
@[simp] theorem State.setA_time (s : State) (r : AReg) (v : Word64) : (s.setA r v).time = s.time := rfl
@[simp] theorem State.setA_clusters (s : State) (r : AReg) (v : Word64) : (s.setA r v).clusters = s.clusters := rfl
@[simp] theorem State.setA_dies (s : State) (r : AReg) (v : Word64) : (s.setA r v).dies = s.dies := rfl
@[simp] theorem State.setA_mem (s : State) (r : AReg) (v : Word64) : (s.setA r v).mem = s.mem := rfl
@[simp] theorem State.setA_host (s : State) (r : AReg) (v : Word64) : (s.setA r v).host = s.host := rfl
@[simp] theorem State.setA_stamps (s : State) (r : AReg) (v : Word64) : (s.setA r v).stamps = s.stamps := rfl
@[simp] theorem State.setA_bad (s : State) (r : AReg) (v : Word64) : (s.setA r v).bad = s.bad := rfl
@[simp] theorem State.setA_tlb (s : State) (r : AReg) (v : Word64) : (s.setA r v).tlb = s.tlb := rfl
@[simp] theorem State.setA_waiters (s : State) (r : AReg) (v : Word64) : (s.setA r v).waiters = s.waiters := rfl
@[simp] theorem State.setA_remotePages (s : State) (r : AReg) (v : Word64) : (s.setA r v).remotePages = s.remotePages := rfl
@[simp] theorem State.setA_groups (s : State) (r : AReg) (v : Word64) : (s.setA r v).groups = s.groups := rfl
@[simp] theorem State.setA_launches (s : State) (r : AReg) (v : Word64) : (s.setA r v).launches = s.launches := rfl
@[simp] theorem State.setA_nextLaunch (s : State) (r : AReg) (v : Word64) : (s.setA r v).nextLaunch = s.nextLaunch := rfl
@[simp] theorem State.setA_arriving (s : State) (r : AReg) (v : Word64) : (s.setA r v).arriving = s.arriving := rfl
@[simp] theorem State.setA_images (s : State) (r : AReg) (v : Word64) : (s.setA r v).images = s.images := rfl
@[simp] theorem State.setA_spaces (s : State) (r : AReg) (v : Word64) : (s.setA r v).spaces = s.spaces := rfl
@[simp] theorem State.setA_keys (s : State) (r : AReg) (v : Word64) : (s.setA r v).keys = s.keys := rfl
@[simp] theorem State.setA_owed (s : State) (r : AReg) (v : Word64) : (s.setA r v).owed = s.owed := rfl
@[simp] theorem State.setA_keydata (s : State) (r : AReg) (v : Word64) : (s.setA r v).keydata = s.keydata := rfl
@[simp] theorem State.setA_keyErr (s : State) (r : AReg) (v : Word64) : (s.setA r v).keyErr = s.keyErr := rfl
@[simp] theorem State.setA_keyLast (s : State) (r : AReg) (v : Word64) : (s.setA r v).keyLast = s.keyLast := rfl
@[simp] theorem State.setA_tlbiva (s : State) (r : AReg) (v : Word64) : (s.setA r v).tlbiva = s.tlbiva := rfl
@[simp] theorem State.setA_tlbictl (s : State) (r : AReg) (v : Word64) : (s.setA r v).tlbictl = s.tlbictl := rfl
@[simp] theorem State.setA_tlbiGo (s : State) (r : AReg) (v : Word64) : (s.setA r v).tlbiGo = s.tlbiGo := rfl
@[simp] theorem State.setA_tlbiRun (s : State) (r : AReg) (v : Word64) : (s.setA r v).tlbiRun = s.tlbiRun := rfl
@[simp] theorem State.setA_tlbiOps (s : State) (r : AReg) (v : Word64) : (s.setA r v).tlbiOps = s.tlbiOps := rfl
@[simp] theorem State.setA_tlbiOld (s : State) (r : AReg) (v : Word64) : (s.setA r v).tlbiOld = s.tlbiOld := rfl
@[simp] theorem State.setA_aperbase (s : State) (r : AReg) (v : Word64) : (s.setA r v).aperbase = s.aperbase := rfl
@[simp] theorem State.setA_farbase (s : State) (r : AReg) (v : Word64) : (s.setA r v).farbase = s.farbase := rfl
@[simp] theorem State.setA_boot (s : State) (r : AReg) (v : Word64) : (s.setA r v).boot = s.boot := rfl
@[simp] theorem State.setA_booterr (s : State) (r : AReg) (v : Word64) : (s.setA r v).booterr = s.booterr := rfl
@[simp] theorem State.setA_svn (s : State) (r : AReg) (v : Word64) : (s.setA r v).svn = s.svn := rfl
@[simp] theorem State.setA_meas (s : State) (r : AReg) (v : Word64) : (s.setA r v).meas = s.meas := rfl
@[simp] theorem State.setA_modId (s : State) (r : AReg) (v : Word64) : (s.setA r v).modId = s.modId := rfl
@[simp] theorem State.setA_roots (s : State) (r : AReg) (v : Word64) : (s.setA r v).roots = s.roots := rfl
@[simp] theorem State.setA_sbt (s : State) (r : AReg) (v : Word64) : (s.setA r v).sbt = s.sbt := rfl
@[simp] theorem State.setA_mgmt (s : State) (r : AReg) (v : Word64) : (s.setA r v).mgmt = s.mgmt := rfl
@[simp] theorem State.setA_out (s : State) (r : AReg) (v : Word64) : (s.setA r v).out = s.out := rfl

@[simp] theorem State.setP_turns (s : State) (r : PReg) (v : Pred) : (s.setP r v).turns = s.turns := rfl
@[simp] theorem State.setP_core (s : State) (r : PReg) (v : Pred) : (s.setP r v).core = s.core := rfl
@[simp] theorem State.setP_seq (s : State) (r : PReg) (v : Pred) : (s.setP r v).seq = s.seq := rfl
@[simp] theorem State.setP_fresh (s : State) (r : PReg) (v : Pred) : (s.setP r v).fresh = s.fresh := rfl
@[simp] theorem State.setP_time (s : State) (r : PReg) (v : Pred) : (s.setP r v).time = s.time := rfl
@[simp] theorem State.setP_clusters (s : State) (r : PReg) (v : Pred) : (s.setP r v).clusters = s.clusters := rfl
@[simp] theorem State.setP_dies (s : State) (r : PReg) (v : Pred) : (s.setP r v).dies = s.dies := rfl
@[simp] theorem State.setP_mem (s : State) (r : PReg) (v : Pred) : (s.setP r v).mem = s.mem := rfl
@[simp] theorem State.setP_host (s : State) (r : PReg) (v : Pred) : (s.setP r v).host = s.host := rfl
@[simp] theorem State.setP_stamps (s : State) (r : PReg) (v : Pred) : (s.setP r v).stamps = s.stamps := rfl
@[simp] theorem State.setP_bad (s : State) (r : PReg) (v : Pred) : (s.setP r v).bad = s.bad := rfl
@[simp] theorem State.setP_tlb (s : State) (r : PReg) (v : Pred) : (s.setP r v).tlb = s.tlb := rfl
@[simp] theorem State.setP_waiters (s : State) (r : PReg) (v : Pred) : (s.setP r v).waiters = s.waiters := rfl
@[simp] theorem State.setP_remotePages (s : State) (r : PReg) (v : Pred) : (s.setP r v).remotePages = s.remotePages := rfl
@[simp] theorem State.setP_groups (s : State) (r : PReg) (v : Pred) : (s.setP r v).groups = s.groups := rfl
@[simp] theorem State.setP_launches (s : State) (r : PReg) (v : Pred) : (s.setP r v).launches = s.launches := rfl
@[simp] theorem State.setP_nextLaunch (s : State) (r : PReg) (v : Pred) : (s.setP r v).nextLaunch = s.nextLaunch := rfl
@[simp] theorem State.setP_arriving (s : State) (r : PReg) (v : Pred) : (s.setP r v).arriving = s.arriving := rfl
@[simp] theorem State.setP_images (s : State) (r : PReg) (v : Pred) : (s.setP r v).images = s.images := rfl
@[simp] theorem State.setP_spaces (s : State) (r : PReg) (v : Pred) : (s.setP r v).spaces = s.spaces := rfl
@[simp] theorem State.setP_keys (s : State) (r : PReg) (v : Pred) : (s.setP r v).keys = s.keys := rfl
@[simp] theorem State.setP_owed (s : State) (r : PReg) (v : Pred) : (s.setP r v).owed = s.owed := rfl
@[simp] theorem State.setP_keydata (s : State) (r : PReg) (v : Pred) : (s.setP r v).keydata = s.keydata := rfl
@[simp] theorem State.setP_keyErr (s : State) (r : PReg) (v : Pred) : (s.setP r v).keyErr = s.keyErr := rfl
@[simp] theorem State.setP_keyLast (s : State) (r : PReg) (v : Pred) : (s.setP r v).keyLast = s.keyLast := rfl
@[simp] theorem State.setP_tlbiva (s : State) (r : PReg) (v : Pred) : (s.setP r v).tlbiva = s.tlbiva := rfl
@[simp] theorem State.setP_tlbictl (s : State) (r : PReg) (v : Pred) : (s.setP r v).tlbictl = s.tlbictl := rfl
@[simp] theorem State.setP_tlbiGo (s : State) (r : PReg) (v : Pred) : (s.setP r v).tlbiGo = s.tlbiGo := rfl
@[simp] theorem State.setP_tlbiRun (s : State) (r : PReg) (v : Pred) : (s.setP r v).tlbiRun = s.tlbiRun := rfl
@[simp] theorem State.setP_tlbiOps (s : State) (r : PReg) (v : Pred) : (s.setP r v).tlbiOps = s.tlbiOps := rfl
@[simp] theorem State.setP_tlbiOld (s : State) (r : PReg) (v : Pred) : (s.setP r v).tlbiOld = s.tlbiOld := rfl
@[simp] theorem State.setP_aperbase (s : State) (r : PReg) (v : Pred) : (s.setP r v).aperbase = s.aperbase := rfl
@[simp] theorem State.setP_farbase (s : State) (r : PReg) (v : Pred) : (s.setP r v).farbase = s.farbase := rfl
@[simp] theorem State.setP_boot (s : State) (r : PReg) (v : Pred) : (s.setP r v).boot = s.boot := rfl
@[simp] theorem State.setP_booterr (s : State) (r : PReg) (v : Pred) : (s.setP r v).booterr = s.booterr := rfl
@[simp] theorem State.setP_svn (s : State) (r : PReg) (v : Pred) : (s.setP r v).svn = s.svn := rfl
@[simp] theorem State.setP_meas (s : State) (r : PReg) (v : Pred) : (s.setP r v).meas = s.meas := rfl
@[simp] theorem State.setP_modId (s : State) (r : PReg) (v : Pred) : (s.setP r v).modId = s.modId := rfl
@[simp] theorem State.setP_roots (s : State) (r : PReg) (v : Pred) : (s.setP r v).roots = s.roots := rfl
@[simp] theorem State.setP_sbt (s : State) (r : PReg) (v : Pred) : (s.setP r v).sbt = s.sbt := rfl
@[simp] theorem State.setP_mgmt (s : State) (r : PReg) (v : Pred) : (s.setP r v).mgmt = s.mgmt := rfl
@[simp] theorem State.setP_out (s : State) (r : PReg) (v : Pred) : (s.setP r v).out = s.out := rfl

@[simp] theorem State.orSticky_turns (s : State) (b : BitVec 5) : (s.orSticky b).turns = s.turns := rfl
@[simp] theorem State.orSticky_core (s : State) (b : BitVec 5) : (s.orSticky b).core = s.core := rfl
@[simp] theorem State.orSticky_seq (s : State) (b : BitVec 5) : (s.orSticky b).seq = s.seq := rfl
@[simp] theorem State.orSticky_fresh (s : State) (b : BitVec 5) : (s.orSticky b).fresh = s.fresh := rfl
@[simp] theorem State.orSticky_time (s : State) (b : BitVec 5) : (s.orSticky b).time = s.time := rfl
@[simp] theorem State.orSticky_clusters (s : State) (b : BitVec 5) : (s.orSticky b).clusters = s.clusters := rfl
@[simp] theorem State.orSticky_dies (s : State) (b : BitVec 5) : (s.orSticky b).dies = s.dies := rfl
@[simp] theorem State.orSticky_mem (s : State) (b : BitVec 5) : (s.orSticky b).mem = s.mem := rfl
@[simp] theorem State.orSticky_host (s : State) (b : BitVec 5) : (s.orSticky b).host = s.host := rfl
@[simp] theorem State.orSticky_stamps (s : State) (b : BitVec 5) : (s.orSticky b).stamps = s.stamps := rfl
@[simp] theorem State.orSticky_bad (s : State) (b : BitVec 5) : (s.orSticky b).bad = s.bad := rfl
@[simp] theorem State.orSticky_tlb (s : State) (b : BitVec 5) : (s.orSticky b).tlb = s.tlb := rfl
@[simp] theorem State.orSticky_waiters (s : State) (b : BitVec 5) : (s.orSticky b).waiters = s.waiters := rfl
@[simp] theorem State.orSticky_remotePages (s : State) (b : BitVec 5) : (s.orSticky b).remotePages = s.remotePages := rfl
@[simp] theorem State.orSticky_groups (s : State) (b : BitVec 5) : (s.orSticky b).groups = s.groups := rfl
@[simp] theorem State.orSticky_launches (s : State) (b : BitVec 5) : (s.orSticky b).launches = s.launches := rfl
@[simp] theorem State.orSticky_nextLaunch (s : State) (b : BitVec 5) : (s.orSticky b).nextLaunch = s.nextLaunch := rfl
@[simp] theorem State.orSticky_arriving (s : State) (b : BitVec 5) : (s.orSticky b).arriving = s.arriving := rfl
@[simp] theorem State.orSticky_images (s : State) (b : BitVec 5) : (s.orSticky b).images = s.images := rfl
@[simp] theorem State.orSticky_spaces (s : State) (b : BitVec 5) : (s.orSticky b).spaces = s.spaces := rfl
@[simp] theorem State.orSticky_keys (s : State) (b : BitVec 5) : (s.orSticky b).keys = s.keys := rfl
@[simp] theorem State.orSticky_owed (s : State) (b : BitVec 5) : (s.orSticky b).owed = s.owed := rfl
@[simp] theorem State.orSticky_keydata (s : State) (b : BitVec 5) : (s.orSticky b).keydata = s.keydata := rfl
@[simp] theorem State.orSticky_keyErr (s : State) (b : BitVec 5) : (s.orSticky b).keyErr = s.keyErr := rfl
@[simp] theorem State.orSticky_keyLast (s : State) (b : BitVec 5) : (s.orSticky b).keyLast = s.keyLast := rfl
@[simp] theorem State.orSticky_tlbiva (s : State) (b : BitVec 5) : (s.orSticky b).tlbiva = s.tlbiva := rfl
@[simp] theorem State.orSticky_tlbictl (s : State) (b : BitVec 5) : (s.orSticky b).tlbictl = s.tlbictl := rfl
@[simp] theorem State.orSticky_tlbiGo (s : State) (b : BitVec 5) : (s.orSticky b).tlbiGo = s.tlbiGo := rfl
@[simp] theorem State.orSticky_tlbiRun (s : State) (b : BitVec 5) : (s.orSticky b).tlbiRun = s.tlbiRun := rfl
@[simp] theorem State.orSticky_tlbiOps (s : State) (b : BitVec 5) : (s.orSticky b).tlbiOps = s.tlbiOps := rfl
@[simp] theorem State.orSticky_tlbiOld (s : State) (b : BitVec 5) : (s.orSticky b).tlbiOld = s.tlbiOld := rfl
@[simp] theorem State.orSticky_aperbase (s : State) (b : BitVec 5) : (s.orSticky b).aperbase = s.aperbase := rfl
@[simp] theorem State.orSticky_farbase (s : State) (b : BitVec 5) : (s.orSticky b).farbase = s.farbase := rfl
@[simp] theorem State.orSticky_boot (s : State) (b : BitVec 5) : (s.orSticky b).boot = s.boot := rfl
@[simp] theorem State.orSticky_booterr (s : State) (b : BitVec 5) : (s.orSticky b).booterr = s.booterr := rfl
@[simp] theorem State.orSticky_svn (s : State) (b : BitVec 5) : (s.orSticky b).svn = s.svn := rfl
@[simp] theorem State.orSticky_meas (s : State) (b : BitVec 5) : (s.orSticky b).meas = s.meas := rfl
@[simp] theorem State.orSticky_modId (s : State) (b : BitVec 5) : (s.orSticky b).modId = s.modId := rfl
@[simp] theorem State.orSticky_roots (s : State) (b : BitVec 5) : (s.orSticky b).roots = s.roots := rfl
@[simp] theorem State.orSticky_sbt (s : State) (b : BitVec 5) : (s.orSticky b).sbt = s.sbt := rfl
@[simp] theorem State.orSticky_mgmt (s : State) (b : BitVec 5) : (s.orSticky b).mgmt = s.mgmt := rfl
@[simp] theorem State.orSticky_out (s : State) (b : BitVec 5) : (s.orSticky b).out = s.out := rfl

@[simp] theorem State.begin_turns (s : State) (f : Form) : (s.begin f).turns = s.turns := rfl
@[simp] theorem State.begin_core (s : State) (f : Form) : (s.begin f).core = s.core := rfl
@[simp] theorem State.begin_seq (s : State) (f : Form) : (s.begin f).seq = s.seq := rfl
@[simp] theorem State.begin_fresh (s : State) (f : Form) : (s.begin f).fresh = s.fresh := rfl
@[simp] theorem State.begin_time (s : State) (f : Form) : (s.begin f).time = s.time := rfl
@[simp] theorem State.begin_clusters (s : State) (f : Form) : (s.begin f).clusters = s.clusters := rfl
@[simp] theorem State.begin_dies (s : State) (f : Form) : (s.begin f).dies = s.dies := rfl
@[simp] theorem State.begin_mem (s : State) (f : Form) : (s.begin f).mem = s.mem := rfl
@[simp] theorem State.begin_host (s : State) (f : Form) : (s.begin f).host = s.host := rfl
@[simp] theorem State.begin_stamps (s : State) (f : Form) : (s.begin f).stamps = s.stamps := rfl
@[simp] theorem State.begin_bad (s : State) (f : Form) : (s.begin f).bad = s.bad := rfl
@[simp] theorem State.begin_tlb (s : State) (f : Form) : (s.begin f).tlb = s.tlb := rfl
@[simp] theorem State.begin_waiters (s : State) (f : Form) : (s.begin f).waiters = s.waiters := rfl
@[simp] theorem State.begin_remotePages (s : State) (f : Form) : (s.begin f).remotePages = s.remotePages := rfl
@[simp] theorem State.begin_groups (s : State) (f : Form) : (s.begin f).groups = s.groups := rfl
@[simp] theorem State.begin_launches (s : State) (f : Form) : (s.begin f).launches = s.launches := rfl
@[simp] theorem State.begin_nextLaunch (s : State) (f : Form) : (s.begin f).nextLaunch = s.nextLaunch := rfl
@[simp] theorem State.begin_arriving (s : State) (f : Form) : (s.begin f).arriving = s.arriving := rfl
@[simp] theorem State.begin_images (s : State) (f : Form) : (s.begin f).images = s.images := rfl
@[simp] theorem State.begin_spaces (s : State) (f : Form) : (s.begin f).spaces = s.spaces := rfl
@[simp] theorem State.begin_keys (s : State) (f : Form) : (s.begin f).keys = s.keys := rfl
@[simp] theorem State.begin_owed (s : State) (f : Form) : (s.begin f).owed = s.owed := rfl
@[simp] theorem State.begin_keydata (s : State) (f : Form) : (s.begin f).keydata = s.keydata := rfl
@[simp] theorem State.begin_keyErr (s : State) (f : Form) : (s.begin f).keyErr = s.keyErr := rfl
@[simp] theorem State.begin_keyLast (s : State) (f : Form) : (s.begin f).keyLast = s.keyLast := rfl
@[simp] theorem State.begin_tlbiva (s : State) (f : Form) : (s.begin f).tlbiva = s.tlbiva := rfl
@[simp] theorem State.begin_tlbictl (s : State) (f : Form) : (s.begin f).tlbictl = s.tlbictl := rfl
@[simp] theorem State.begin_tlbiGo (s : State) (f : Form) : (s.begin f).tlbiGo = s.tlbiGo := rfl
@[simp] theorem State.begin_tlbiRun (s : State) (f : Form) : (s.begin f).tlbiRun = s.tlbiRun := rfl
@[simp] theorem State.begin_tlbiOps (s : State) (f : Form) : (s.begin f).tlbiOps = s.tlbiOps := rfl
@[simp] theorem State.begin_tlbiOld (s : State) (f : Form) : (s.begin f).tlbiOld = s.tlbiOld := rfl
@[simp] theorem State.begin_aperbase (s : State) (f : Form) : (s.begin f).aperbase = s.aperbase := rfl
@[simp] theorem State.begin_farbase (s : State) (f : Form) : (s.begin f).farbase = s.farbase := rfl
@[simp] theorem State.begin_boot (s : State) (f : Form) : (s.begin f).boot = s.boot := rfl
@[simp] theorem State.begin_booterr (s : State) (f : Form) : (s.begin f).booterr = s.booterr := rfl
@[simp] theorem State.begin_svn (s : State) (f : Form) : (s.begin f).svn = s.svn := rfl
@[simp] theorem State.begin_meas (s : State) (f : Form) : (s.begin f).meas = s.meas := rfl
@[simp] theorem State.begin_modId (s : State) (f : Form) : (s.begin f).modId = s.modId := rfl
@[simp] theorem State.begin_roots (s : State) (f : Form) : (s.begin f).roots = s.roots := rfl
@[simp] theorem State.begin_sbt (s : State) (f : Form) : (s.begin f).sbt = s.sbt := rfl
@[simp] theorem State.begin_mgmt (s : State) (f : Form) : (s.begin f).mgmt = s.mgmt := rfl
@[simp] theorem State.begin_out (s : State) (f : Form) : (s.begin f).out = s.out := rfl

@[simp] theorem State.signal_turns (s : State) (f : Form) : (s.signal f).turns = s.turns := rfl
@[simp] theorem State.signal_core (s : State) (f : Form) : (s.signal f).core = s.core := rfl
@[simp] theorem State.signal_seq (s : State) (f : Form) : (s.signal f).seq = s.seq := rfl
@[simp] theorem State.signal_fresh (s : State) (f : Form) : (s.signal f).fresh = s.fresh := rfl
@[simp] theorem State.signal_time (s : State) (f : Form) : (s.signal f).time = s.time := rfl
@[simp] theorem State.signal_clusters (s : State) (f : Form) : (s.signal f).clusters = s.clusters := rfl
@[simp] theorem State.signal_dies (s : State) (f : Form) : (s.signal f).dies = s.dies := rfl
@[simp] theorem State.signal_mem (s : State) (f : Form) : (s.signal f).mem = s.mem := rfl
@[simp] theorem State.signal_host (s : State) (f : Form) : (s.signal f).host = s.host := rfl
@[simp] theorem State.signal_stamps (s : State) (f : Form) : (s.signal f).stamps = s.stamps := rfl
@[simp] theorem State.signal_bad (s : State) (f : Form) : (s.signal f).bad = s.bad := rfl
@[simp] theorem State.signal_tlb (s : State) (f : Form) : (s.signal f).tlb = s.tlb := rfl
@[simp] theorem State.signal_waiters (s : State) (f : Form) : (s.signal f).waiters = s.waiters := rfl
@[simp] theorem State.signal_remotePages (s : State) (f : Form) : (s.signal f).remotePages = s.remotePages := rfl
@[simp] theorem State.signal_groups (s : State) (f : Form) : (s.signal f).groups = s.groups := rfl
@[simp] theorem State.signal_launches (s : State) (f : Form) : (s.signal f).launches = s.launches := rfl
@[simp] theorem State.signal_nextLaunch (s : State) (f : Form) : (s.signal f).nextLaunch = s.nextLaunch := rfl
@[simp] theorem State.signal_arriving (s : State) (f : Form) : (s.signal f).arriving = s.arriving := rfl
@[simp] theorem State.signal_images (s : State) (f : Form) : (s.signal f).images = s.images := rfl
@[simp] theorem State.signal_spaces (s : State) (f : Form) : (s.signal f).spaces = s.spaces := rfl
@[simp] theorem State.signal_keys (s : State) (f : Form) : (s.signal f).keys = s.keys := rfl
@[simp] theorem State.signal_owed (s : State) (f : Form) : (s.signal f).owed = s.owed := rfl
@[simp] theorem State.signal_keydata (s : State) (f : Form) : (s.signal f).keydata = s.keydata := rfl
@[simp] theorem State.signal_keyErr (s : State) (f : Form) : (s.signal f).keyErr = s.keyErr := rfl
@[simp] theorem State.signal_keyLast (s : State) (f : Form) : (s.signal f).keyLast = s.keyLast := rfl
@[simp] theorem State.signal_tlbiva (s : State) (f : Form) : (s.signal f).tlbiva = s.tlbiva := rfl
@[simp] theorem State.signal_tlbictl (s : State) (f : Form) : (s.signal f).tlbictl = s.tlbictl := rfl
@[simp] theorem State.signal_tlbiGo (s : State) (f : Form) : (s.signal f).tlbiGo = s.tlbiGo := rfl
@[simp] theorem State.signal_tlbiRun (s : State) (f : Form) : (s.signal f).tlbiRun = s.tlbiRun := rfl
@[simp] theorem State.signal_tlbiOps (s : State) (f : Form) : (s.signal f).tlbiOps = s.tlbiOps := rfl
@[simp] theorem State.signal_tlbiOld (s : State) (f : Form) : (s.signal f).tlbiOld = s.tlbiOld := rfl
@[simp] theorem State.signal_aperbase (s : State) (f : Form) : (s.signal f).aperbase = s.aperbase := rfl
@[simp] theorem State.signal_farbase (s : State) (f : Form) : (s.signal f).farbase = s.farbase := rfl
@[simp] theorem State.signal_boot (s : State) (f : Form) : (s.signal f).boot = s.boot := rfl
@[simp] theorem State.signal_booterr (s : State) (f : Form) : (s.signal f).booterr = s.booterr := rfl
@[simp] theorem State.signal_svn (s : State) (f : Form) : (s.signal f).svn = s.svn := rfl
@[simp] theorem State.signal_meas (s : State) (f : Form) : (s.signal f).meas = s.meas := rfl
@[simp] theorem State.signal_modId (s : State) (f : Form) : (s.signal f).modId = s.modId := rfl
@[simp] theorem State.signal_roots (s : State) (f : Form) : (s.signal f).roots = s.roots := rfl
@[simp] theorem State.signal_sbt (s : State) (f : Form) : (s.signal f).sbt = s.sbt := rfl
@[simp] theorem State.signal_mgmt (s : State) (f : Form) : (s.signal f).mgmt = s.mgmt := rfl
@[simp] theorem State.signal_out (s : State) (f : Form) : (s.signal f).out = s.out := rfl

/-! ## Parts that read back -/

@[simp] theorem State.getCore_setCore_self (s : State) (n : Nat) (c : Core) : (s.setCore n c).getCore n = c := by
  simp [State.getCore, State.setCore]

theorem State.getCore_setCore_ne (s : State) {n m : Nat} (c : Core) (h : m ≠ n) : (s.setCore n c).getCore m = s.getCore m :=
  Tbl.getD_set_ne s.cores c Core.idle h

@[simp] theorem State.getDie_setDie_self (s : State) (n : Nat) (d : Die) : (s.setDie n d).getDie n = d := by
  simp [State.getDie, State.setDie]

@[simp] theorem State.getCluster_setCluster_self (s : State) (n : Nat) (c : Cluster) : (s.setCluster n c).getCluster n = c := by
  simp [State.getCluster, State.setCluster]

@[simp] theorem State.cur_setCur (s : State) (c : Core) : (s.setCur c).cur = c := State.getCore_setCore_self s s.core c

theorem State.getCore_setCur_ne (s : State) {n : Nat} (c : Core) (h : n ≠ s.core) : (s.setCur c).getCore n = s.getCore n :=
  State.getCore_setCore_ne s c h

@[simp] theorem Core.seqr_setSeqr_self (c : Core) (q : SeqId) (r : Seqr) : (c.setSeqr q r).seqr q = r := by cases q <;> rfl

theorem Core.seqr_setSeqr_ne (c : Core) {q p : SeqId} (r : Seqr) (h : p ≠ q) : (c.setSeqr q r).seqr p = c.seqr p := by
  cases q <;> cases p <;> first | rfl | exact absurd rfl h

@[simp] theorem Core.edge_setEdge_self (c : Core) (q : SeqId) (e : Edge) : (c.setEdge q e).edge q = e := by cases q <;> rfl

theorem Core.edge_setEdge_ne (c : Core) {q p : SeqId} (e : Edge) (h : p ≠ q) : (c.setEdge q e).edge p = c.edge p := by
  cases q <;> cases p <;> first | rfl | exact absurd rfl h

@[simp] theorem Core.seqr_setEdge (c : Core) (q p : SeqId) (e : Edge) : (c.setEdge q e).seqr p = c.seqr p := by
  cases q <;> cases p <;> rfl

@[simp] theorem Core.edge_setSeqr (c : Core) (q p : SeqId) (r : Seqr) : (c.setSeqr q r).edge p = c.edge p := by
  cases q <;> cases p <;> rfl

@[simp] theorem Core.setSeqr_inst (c : Core) (q : SeqId) (r : Seqr) : (c.setSeqr q r).inst = c.inst := by cases q <;> rfl
@[simp] theorem Core.setSeqr_edgeC (c : Core) (q : SeqId) (r : Seqr) : (c.setSeqr q r).edgeC = c.edgeC := by cases q <;> rfl
@[simp] theorem Core.setSeqr_edgeL (c : Core) (q : SeqId) (r : Seqr) : (c.setSeqr q r).edgeL = c.edgeL := by cases q <;> rfl
@[simp] theorem Core.setSeqr_edgeX (c : Core) (q : SeqId) (r : Seqr) : (c.setSeqr q r).edgeX = c.edgeX := by cases q <;> rfl
@[simp] theorem Core.setSeqr_edgeS (c : Core) (q : SeqId) (r : Seqr) : (c.setSeqr q r).edgeS = c.edgeS := by cases q <;> rfl
@[simp] theorem Core.setSeqr_tiles (c : Core) (q : SeqId) (r : Seqr) : (c.setSeqr q r).tiles = c.tiles := by cases q <;> rfl
@[simp] theorem Core.setSeqr_tstat (c : Core) (q : SeqId) (r : Seqr) : (c.setSeqr q r).tstat = c.tstat := by cases q <;> rfl
@[simp] theorem Core.setSeqr_lists (c : Core) (q : SeqId) (r : Seqr) : (c.setSeqr q r).lists = c.lists := by cases q <;> rfl
@[simp] theorem Core.setSeqr_o (c : Core) (q : SeqId) (r : Seqr) : (c.setSeqr q r).o = c.o := by cases q <;> rfl
@[simp] theorem Core.setSeqr_lr (c : Core) (q : SeqId) (r : Seqr) : (c.setSeqr q r).lr = c.lr := by cases q <;> rfl
@[simp] theorem Core.setSeqr_rings (c : Core) (q : SeqId) (r : Seqr) : (c.setSeqr q r).rings = c.rings := by cases q <;> rfl
@[simp] theorem Core.setSeqr_g (c : Core) (q : SeqId) (r : Seqr) : (c.setSeqr q r).g = c.g := by cases q <;> rfl
@[simp] theorem Core.setSeqr_banks (c : Core) (q : SeqId) (r : Seqr) : (c.setSeqr q r).banks = c.banks := by cases q <;> rfl
@[simp] theorem Core.setSeqr_curS (c : Core) (q : SeqId) (r : Seqr) : (c.setSeqr q r).curS = c.curS := by cases q <;> rfl
@[simp] theorem Core.setSeqr_curV (c : Core) (q : SeqId) (r : Seqr) : (c.setSeqr q r).curV = c.curV := by cases q <;> rfl
@[simp] theorem Core.setSeqr_planes (c : Core) (q : SeqId) (r : Seqr) : (c.setSeqr q r).planes = c.planes := by cases q <;> rfl
@[simp] theorem Core.setSeqr_lastS (c : Core) (q : SeqId) (r : Seqr) : (c.setSeqr q r).lastS = c.lastS := by cases q <;> rfl
@[simp] theorem Core.setSeqr_lastV (c : Core) (q : SeqId) (r : Seqr) : (c.setSeqr q r).lastV = c.lastV := by cases q <;> rfl
@[simp] theorem Core.setSeqr_pins (c : Core) (q : SeqId) (r : Seqr) : (c.setSeqr q r).pins = c.pins := by cases q <;> rfl
@[simp] theorem Core.setSeqr_lm (c : Core) (q : SeqId) (r : Seqr) : (c.setSeqr q r).lm = c.lm := by cases q <;> rfl
@[simp] theorem Core.setSeqr_asked (c : Core) (q : SeqId) (r : Seqr) : (c.setSeqr q r).asked = c.asked := by cases q <;> rfl
@[simp] theorem Core.setSeqr_wbs (c : Core) (q : SeqId) (r : Seqr) : (c.setSeqr q r).wbs = c.wbs := by cases q <;> rfl
@[simp] theorem Core.setSeqr_wbq (c : Core) (q : SeqId) (r : Seqr) : (c.setSeqr q r).wbq = c.wbq := by cases q <;> rfl
@[simp] theorem Core.setSeqr_sent (c : Core) (q : SeqId) (r : Seqr) : (c.setSeqr q r).sent = c.sent := by cases q <;> rfl
@[simp] theorem Core.setSeqr_l1 (c : Core) (q : SeqId) (r : Seqr) : (c.setSeqr q r).l1 = c.l1 := by cases q <;> rfl
@[simp] theorem Core.setSeqr_icache (c : Core) (q : SeqId) (r : Seqr) : (c.setSeqr q r).icache = c.icache := by cases q <;> rfl
@[simp] theorem Core.setSeqr_reel (c : Core) (q : SeqId) (r : Seqr) : (c.setSeqr q r).reel = c.reel := by cases q <;> rfl
@[simp] theorem Core.setSeqr_biv (c : Core) (q : SeqId) (r : Seqr) : (c.setSeqr q r).biv = c.biv := by cases q <;> rfl
@[simp] theorem Core.setSeqr_efq (c : Core) (q : SeqId) (r : Seqr) : (c.setSeqr q r).efq = c.efq := by cases q <;> rfl
@[simp] theorem Core.setSeqr_spilled (c : Core) (q : SeqId) (r : Seqr) : (c.setSeqr q r).spilled = c.spilled := by cases q <;> rfl
@[simp] theorem Core.setSeqr_engPend (c : Core) (q : SeqId) (r : Seqr) : (c.setSeqr q r).engPend = c.engPend := by cases q <;> rfl
@[simp] theorem Core.setSeqr_leased (c : Core) (q : SeqId) (r : Seqr) : (c.setSeqr q r).leased = c.leased := by cases q <;> rfl
@[simp] theorem Core.setSeqr_level (c : Core) (q : SeqId) (r : Seqr) : (c.setSeqr q r).level = c.level := by cases q <;> rfl
@[simp] theorem Core.setSeqr_mBadShape (c : Core) (q : SeqId) (r : Seqr) : (c.setSeqr q r).mBadShape = c.mBadShape := by cases q <;> rfl
@[simp] theorem Core.setSeqr_mCancelled (c : Core) (q : SeqId) (r : Seqr) : (c.setSeqr q r).mCancelled = c.mCancelled := by cases q <;> rfl
@[simp] theorem Core.setSeqr_chain (c : Core) (q : SeqId) (r : Seqr) : (c.setSeqr q r).chain = c.chain := by cases q <;> rfl
@[simp] theorem Core.setSeqr_shape (c : Core) (q : SeqId) (r : Seqr) : (c.setSeqr q r).shape = c.shape := by cases q <;> rfl
@[simp] theorem Core.setSeqr_ops (c : Core) (q : SeqId) (r : Seqr) : (c.setSeqr q r).ops = c.ops := by cases q <;> rfl
@[simp] theorem Core.setSeqr_nextOp (c : Core) (q : SeqId) (r : Seqr) : (c.setSeqr q r).nextOp = c.nextOp := by cases q <;> rfl
@[simp] theorem Core.setSeqr_bad (c : Core) (q : SeqId) (r : Seqr) : (c.setSeqr q r).bad = c.bad := by cases q <;> rfl
@[simp] theorem Core.setEdge_inst (c : Core) (q : SeqId) (e : Edge) : (c.setEdge q e).inst = c.inst := by cases q <;> rfl
@[simp] theorem Core.setEdge_seqC (c : Core) (q : SeqId) (e : Edge) : (c.setEdge q e).seqC = c.seqC := by cases q <;> rfl
@[simp] theorem Core.setEdge_seqL (c : Core) (q : SeqId) (e : Edge) : (c.setEdge q e).seqL = c.seqL := by cases q <;> rfl
@[simp] theorem Core.setEdge_seqX (c : Core) (q : SeqId) (e : Edge) : (c.setEdge q e).seqX = c.seqX := by cases q <;> rfl
@[simp] theorem Core.setEdge_seqS (c : Core) (q : SeqId) (e : Edge) : (c.setEdge q e).seqS = c.seqS := by cases q <;> rfl
@[simp] theorem Core.setEdge_tiles (c : Core) (q : SeqId) (e : Edge) : (c.setEdge q e).tiles = c.tiles := by cases q <;> rfl
@[simp] theorem Core.setEdge_tstat (c : Core) (q : SeqId) (e : Edge) : (c.setEdge q e).tstat = c.tstat := by cases q <;> rfl
@[simp] theorem Core.setEdge_lists (c : Core) (q : SeqId) (e : Edge) : (c.setEdge q e).lists = c.lists := by cases q <;> rfl
@[simp] theorem Core.setEdge_o (c : Core) (q : SeqId) (e : Edge) : (c.setEdge q e).o = c.o := by cases q <;> rfl
@[simp] theorem Core.setEdge_lr (c : Core) (q : SeqId) (e : Edge) : (c.setEdge q e).lr = c.lr := by cases q <;> rfl
@[simp] theorem Core.setEdge_rings (c : Core) (q : SeqId) (e : Edge) : (c.setEdge q e).rings = c.rings := by cases q <;> rfl
@[simp] theorem Core.setEdge_g (c : Core) (q : SeqId) (e : Edge) : (c.setEdge q e).g = c.g := by cases q <;> rfl
@[simp] theorem Core.setEdge_banks (c : Core) (q : SeqId) (e : Edge) : (c.setEdge q e).banks = c.banks := by cases q <;> rfl
@[simp] theorem Core.setEdge_curS (c : Core) (q : SeqId) (e : Edge) : (c.setEdge q e).curS = c.curS := by cases q <;> rfl
@[simp] theorem Core.setEdge_curV (c : Core) (q : SeqId) (e : Edge) : (c.setEdge q e).curV = c.curV := by cases q <;> rfl
@[simp] theorem Core.setEdge_planes (c : Core) (q : SeqId) (e : Edge) : (c.setEdge q e).planes = c.planes := by cases q <;> rfl
@[simp] theorem Core.setEdge_lastS (c : Core) (q : SeqId) (e : Edge) : (c.setEdge q e).lastS = c.lastS := by cases q <;> rfl
@[simp] theorem Core.setEdge_lastV (c : Core) (q : SeqId) (e : Edge) : (c.setEdge q e).lastV = c.lastV := by cases q <;> rfl
@[simp] theorem Core.setEdge_pins (c : Core) (q : SeqId) (e : Edge) : (c.setEdge q e).pins = c.pins := by cases q <;> rfl
@[simp] theorem Core.setEdge_lm (c : Core) (q : SeqId) (e : Edge) : (c.setEdge q e).lm = c.lm := by cases q <;> rfl
@[simp] theorem Core.setEdge_asked (c : Core) (q : SeqId) (e : Edge) : (c.setEdge q e).asked = c.asked := by cases q <;> rfl
@[simp] theorem Core.setEdge_wbs (c : Core) (q : SeqId) (e : Edge) : (c.setEdge q e).wbs = c.wbs := by cases q <;> rfl
@[simp] theorem Core.setEdge_wbq (c : Core) (q : SeqId) (e : Edge) : (c.setEdge q e).wbq = c.wbq := by cases q <;> rfl
@[simp] theorem Core.setEdge_sent (c : Core) (q : SeqId) (e : Edge) : (c.setEdge q e).sent = c.sent := by cases q <;> rfl
@[simp] theorem Core.setEdge_l1 (c : Core) (q : SeqId) (e : Edge) : (c.setEdge q e).l1 = c.l1 := by cases q <;> rfl
@[simp] theorem Core.setEdge_icache (c : Core) (q : SeqId) (e : Edge) : (c.setEdge q e).icache = c.icache := by cases q <;> rfl
@[simp] theorem Core.setEdge_reel (c : Core) (q : SeqId) (e : Edge) : (c.setEdge q e).reel = c.reel := by cases q <;> rfl
@[simp] theorem Core.setEdge_biv (c : Core) (q : SeqId) (e : Edge) : (c.setEdge q e).biv = c.biv := by cases q <;> rfl
@[simp] theorem Core.setEdge_efq (c : Core) (q : SeqId) (e : Edge) : (c.setEdge q e).efq = c.efq := by cases q <;> rfl
@[simp] theorem Core.setEdge_spilled (c : Core) (q : SeqId) (e : Edge) : (c.setEdge q e).spilled = c.spilled := by cases q <;> rfl
@[simp] theorem Core.setEdge_engPend (c : Core) (q : SeqId) (e : Edge) : (c.setEdge q e).engPend = c.engPend := by cases q <;> rfl
@[simp] theorem Core.setEdge_leased (c : Core) (q : SeqId) (e : Edge) : (c.setEdge q e).leased = c.leased := by cases q <;> rfl
@[simp] theorem Core.setEdge_level (c : Core) (q : SeqId) (e : Edge) : (c.setEdge q e).level = c.level := by cases q <;> rfl
@[simp] theorem Core.setEdge_mBadShape (c : Core) (q : SeqId) (e : Edge) : (c.setEdge q e).mBadShape = c.mBadShape := by cases q <;> rfl
@[simp] theorem Core.setEdge_mCancelled (c : Core) (q : SeqId) (e : Edge) : (c.setEdge q e).mCancelled = c.mCancelled := by cases q <;> rfl
@[simp] theorem Core.setEdge_chain (c : Core) (q : SeqId) (e : Edge) : (c.setEdge q e).chain = c.chain := by cases q <;> rfl
@[simp] theorem Core.setEdge_shape (c : Core) (q : SeqId) (e : Edge) : (c.setEdge q e).shape = c.shape := by cases q <;> rfl
@[simp] theorem Core.setEdge_ops (c : Core) (q : SeqId) (e : Edge) : (c.setEdge q e).ops = c.ops := by cases q <;> rfl
@[simp] theorem Core.setEdge_nextOp (c : Core) (q : SeqId) (e : Edge) : (c.setEdge q e).nextOp = c.nextOp := by cases q <;> rfl
@[simp] theorem Core.setEdge_bad (c : Core) (q : SeqId) (e : Edge) : (c.setEdge q e).bad = c.bad := by cases q <;> rfl

@[simp] theorem State.sq_setSq (s : State) (r : Seqr) : (s.setSq r).sq = r := by simp [State.sq, State.setSq]

@[simp] theorem State.sq_setCur (s : State) (c : Core) : (s.setCur c).sq = c.seqr s.seq := by simp [State.sq]

@[simp] theorem State.cur_setSq (s : State) (r : Seqr) : (s.setSq r).cur = s.cur.setSeqr s.seq r := by simp [State.setSq]

@[simp] theorem State.inst_setSq (s : State) (r : Seqr) : (s.setSq r).inst = s.inst := by simp [State.inst]

/-! ## Registers -/

@[simp] theorem State.getX_zero (s : State) : s.getX 0 = 0 := by simp [State.getX]

theorem State.getX_setX_self (s : State) (r : XReg) (v : Word64) (h : r ≠ 0) : (s.setX r v).getX r = v := by
  simp only [State.getX, State.setX, State.sq_setSq, Seqr.setX, if_neg h, Vector.getElem_set_self]

theorem State.getX_setX_ne (s : State) {r d : XReg} (v : Word64) (h : r ≠ d) : (s.setX d v).getX r = s.getX r := by
  have hn : d.toNat ≠ r.toNat := fun e => h (BitVec.eq_of_toNat_eq e.symm)
  by_cases hd : d = 0
  · simp only [State.getX, State.setX, State.sq_setSq, Seqr.setX, if_pos hd]
  · simp only [State.getX, State.setX, State.sq_setSq, Seqr.setX, if_neg hd, Vector.getElem_set, hn, if_false]

@[simp] theorem State.getA_setX (s : State) (d : XReg) (v : Word64) (r : AReg) : (s.setX d v).getA r = s.getA r := by
  by_cases hd : d = 0 <;> simp only [State.getA, State.setX, State.sq_setSq, Seqr.setX, hd, if_true, if_false]

@[simp] theorem State.getP_setX (s : State) (d : XReg) (v : Word64) (r : PReg) : (s.setX d v).getP r = s.getP r := by
  by_cases hd : d = 0 <;> simp only [State.getP, State.setX, State.sq_setSq, Seqr.setX, hd, if_true, if_false]

theorem State.getA_setA_self (s : State) (r : AReg) (v : Word64) : (s.setA r v).getA r = v := by
  simp [State.getA, State.setA]

theorem State.getA_setA_ne (s : State) {r d : AReg} (v : Word64) (h : r ≠ d) : (s.setA d v).getA r = s.getA r := by
  have hn : d.toNat ≠ r.toNat := fun e => h (BitVec.eq_of_toNat_eq e.symm)
  simp [State.getA, State.setA, hn]

@[simp] theorem State.getX_setA (s : State) (d : AReg) (v : Word64) (r : XReg) : (s.setA d v).getX r = s.getX r := by
  simp [State.getX, State.setA]

@[simp] theorem State.getP_setA (s : State) (d : AReg) (v : Word64) (r : PReg) : (s.setA d v).getP r = s.getP r := by
  simp [State.getP, State.setA]

@[simp] theorem State.getP_ones (s : State) : s.getP 15 = BitVec.allOnes 256 := by simp [State.getP]

theorem State.getP_setP_self (s : State) (r : PReg) (v : Pred) (h : r ≠ 15) : (s.setP r v).getP r = v := by
  simp only [State.getP, State.setP, State.sq_setSq, Seqr.setP, if_neg h, Vector.getElem_set_self]

theorem State.getP_setP_ne (s : State) {r d : PReg} (v : Pred) (h : r ≠ d) : (s.setP d v).getP r = s.getP r := by
  have hn : d.toNat ≠ r.toNat := fun e => h (BitVec.eq_of_toNat_eq e.symm)
  by_cases hd : d = 15
  · simp only [State.getP, State.setP, State.sq_setSq, Seqr.setP, if_pos hd]
  · simp only [State.getP, State.setP, State.sq_setSq, Seqr.setP, if_neg hd, Vector.getElem_set, hn, if_false]

@[simp] theorem State.getX_setP (s : State) (d : PReg) (v : Pred) (r : XReg) : (s.setP d v).getX r = s.getX r := by
  by_cases hd : d = 15 <;> simp only [State.getX, State.setP, State.sq_setSq, Seqr.setP, hd, if_true, if_false]

@[simp] theorem State.getA_setP (s : State) (d : PReg) (v : Pred) (r : AReg) : (s.setP d v).getA r = s.getA r := by
  by_cases hd : d = 15 <;> simp only [State.getA, State.setP, State.sq_setSq, Seqr.setP, hd, if_true, if_false]

/-! ## Issue and signals leave the registers -/

theorem State.sq_begin (s : State) (f : Form) : (s.begin f).sq = { s.sq with
    pc := f.nextPc s.sq.pc, afterEret := false, sleep := .none, waitsOn := .none,
    wdone := if s.sq.afterEret then false else s.sq.wdone,
    sdone := if s.sq.afterEret then false else s.sq.sdone,
    trapMask := if s.sq.afterEret then 0 else s.sq.trapMask } := by
  simp [State.begin]

@[simp] theorem State.getX_begin (s : State) (f : Form) (r : XReg) : (s.begin f).getX r = s.getX r := by
  simp [State.getX, State.sq_begin]

@[simp] theorem State.getA_begin (s : State) (f : Form) (r : AReg) : (s.begin f).getA r = s.getA r := by
  simp [State.getA, State.sq_begin]

@[simp] theorem State.getP_begin (s : State) (f : Form) (r : PReg) : (s.begin f).getP r = s.getP r := by
  simp [State.getP, State.sq_begin]

@[simp] theorem State.guard_begin (s : State) (f : Form) (h : Hdr) : (s.begin f).guard h = s.guard h := by
  simp [State.guard]

@[simp] theorem State.g0_begin (s : State) (f : Form) (h : Hdr) : (s.begin f).g0 h = s.g0 h := by
  simp [State.g0]

@[simp] theorem State.pcOf_begin (s : State) (f : Form) : (s.begin f).pcOf f = s.sq.pc := by
  simp [State.pcOf, State.sq_begin, Form.nextPc]

@[simp] theorem State.inst_begin (s : State) (f : Form) : (s.begin f).inst = s.inst := by
  simp only [State.inst, State.begin, State.cur_setCur, Core.setSeqr_inst]
  split <;> simp

@[simp] theorem State.begin_queue (s : State) (f : Form) (q : SeqId) :
    ((s.begin f).cur.edge q).queue = (s.cur.edge q).queue := by
  simp only [State.begin, State.cur_setCur, Core.edge_setSeqr]
  split
  · rfl
  · have h : ∀ (c : Core) (p : SeqId) (e : Edge), e.queue = (c.edge p).queue → ((c.setEdge p e).edge q).queue = (c.edge q).queue := by
      intro c p e he
      by_cases hq : q = p
      · subst hq
        simp [he]
      · rw [Core.edge_setEdge_ne c e hq]
    refine (h _ _ _ ?_).trans (h _ _ _ ?_) <;> rfl

@[simp] theorem State.begin_ended (s : State) (f : Form) (q : SeqId) :
    ((s.begin f).cur.seqr q).ended = (s.cur.seqr q).ended := by
  simp only [State.begin, State.cur_setCur]
  by_cases hq : q = s.seq
  · subst hq
    rw [Core.seqr_setSeqr_self]
    rfl
  · rw [Core.seqr_setSeqr_ne _ _ hq]
    split <;> simp

@[simp] theorem State.begin_seqr_ne (s : State) (f : Form) {q : SeqId} (hq : q ≠ s.seq) :
    (s.begin f).cur.seqr q = s.cur.seqr q := by
  simp only [State.begin, State.cur_setCur]
  rw [Core.seqr_setSeqr_ne _ _ hq]
  split <;> simp

@[simp] theorem Core.signalled_inst (c : Core) (q : SeqId) (b a : Nat) : (c.signalled q b a).inst = c.inst := by
  simp only [Core.signalled]
  split <;> split <;> simp

@[simp] theorem Core.signalled_tiles (c : Core) (q : SeqId) (b a : Nat) : (c.signalled q b a).tiles = c.tiles := by
  simp only [Core.signalled]
  split <;> split <;> simp

@[simp] theorem Core.signalled_tstat (c : Core) (q : SeqId) (b a : Nat) : (c.signalled q b a).tstat = c.tstat := by
  simp only [Core.signalled]
  split <;> split <;> simp

@[simp] theorem Core.signalled_lists (c : Core) (q : SeqId) (b a : Nat) : (c.signalled q b a).lists = c.lists := by
  simp only [Core.signalled]
  split <;> split <;> simp

@[simp] theorem Core.signalled_o (c : Core) (q : SeqId) (b a : Nat) : (c.signalled q b a).o = c.o := by
  simp only [Core.signalled]
  split <;> split <;> simp

@[simp] theorem Core.signalled_lr (c : Core) (q : SeqId) (b a : Nat) : (c.signalled q b a).lr = c.lr := by
  simp only [Core.signalled]
  split <;> split <;> simp

@[simp] theorem Core.signalled_rings (c : Core) (q : SeqId) (b a : Nat) : (c.signalled q b a).rings = c.rings := by
  simp only [Core.signalled]
  split <;> split <;> simp

@[simp] theorem Core.signalled_g (c : Core) (q : SeqId) (b a : Nat) : (c.signalled q b a).g = c.g := by
  simp only [Core.signalled]
  split <;> split <;> simp

@[simp] theorem Core.signalled_banks (c : Core) (q : SeqId) (b a : Nat) : (c.signalled q b a).banks = c.banks := by
  simp only [Core.signalled]
  split <;> split <;> simp

@[simp] theorem Core.signalled_curS (c : Core) (q : SeqId) (b a : Nat) : (c.signalled q b a).curS = c.curS := by
  simp only [Core.signalled]
  split <;> split <;> simp

@[simp] theorem Core.signalled_curV (c : Core) (q : SeqId) (b a : Nat) : (c.signalled q b a).curV = c.curV := by
  simp only [Core.signalled]
  split <;> split <;> simp

@[simp] theorem Core.signalled_planes (c : Core) (q : SeqId) (b a : Nat) : (c.signalled q b a).planes = c.planes := by
  simp only [Core.signalled]
  split <;> split <;> simp

@[simp] theorem Core.signalled_lastS (c : Core) (q : SeqId) (b a : Nat) : (c.signalled q b a).lastS = c.lastS := by
  simp only [Core.signalled]
  split <;> split <;> simp

@[simp] theorem Core.signalled_lastV (c : Core) (q : SeqId) (b a : Nat) : (c.signalled q b a).lastV = c.lastV := by
  simp only [Core.signalled]
  split <;> split <;> simp

@[simp] theorem Core.signalled_pins (c : Core) (q : SeqId) (b a : Nat) : (c.signalled q b a).pins = c.pins := by
  simp only [Core.signalled]
  split <;> split <;> simp

@[simp] theorem Core.signalled_lm (c : Core) (q : SeqId) (b a : Nat) : (c.signalled q b a).lm = c.lm := by
  simp only [Core.signalled]
  split <;> split <;> simp

@[simp] theorem Core.signalled_asked (c : Core) (q : SeqId) (b a : Nat) : (c.signalled q b a).asked = c.asked := by
  simp only [Core.signalled]
  split <;> split <;> simp

@[simp] theorem Core.signalled_wbs (c : Core) (q : SeqId) (b a : Nat) : (c.signalled q b a).wbs = c.wbs := by
  simp only [Core.signalled]
  split <;> split <;> simp

@[simp] theorem Core.signalled_wbq (c : Core) (q : SeqId) (b a : Nat) : (c.signalled q b a).wbq = c.wbq := by
  simp only [Core.signalled]
  split <;> split <;> simp

@[simp] theorem Core.signalled_sent (c : Core) (q : SeqId) (b a : Nat) : (c.signalled q b a).sent = c.sent := by
  simp only [Core.signalled]
  split <;> split <;> simp

@[simp] theorem Core.signalled_l1 (c : Core) (q : SeqId) (b a : Nat) : (c.signalled q b a).l1 = c.l1 := by
  simp only [Core.signalled]
  split <;> split <;> simp

@[simp] theorem Core.signalled_icache (c : Core) (q : SeqId) (b a : Nat) : (c.signalled q b a).icache = c.icache := by
  simp only [Core.signalled]
  split <;> split <;> simp

@[simp] theorem Core.signalled_reel (c : Core) (q : SeqId) (b a : Nat) : (c.signalled q b a).reel = c.reel := by
  simp only [Core.signalled]
  split <;> split <;> simp

@[simp] theorem Core.signalled_biv (c : Core) (q : SeqId) (b a : Nat) : (c.signalled q b a).biv = c.biv := by
  simp only [Core.signalled]
  split <;> split <;> simp

@[simp] theorem Core.signalled_efq (c : Core) (q : SeqId) (b a : Nat) : (c.signalled q b a).efq = c.efq := by
  simp only [Core.signalled]
  split <;> split <;> simp

@[simp] theorem Core.signalled_spilled (c : Core) (q : SeqId) (b a : Nat) : (c.signalled q b a).spilled = c.spilled := by
  simp only [Core.signalled]
  split <;> split <;> simp

@[simp] theorem Core.signalled_engPend (c : Core) (q : SeqId) (b a : Nat) : (c.signalled q b a).engPend = c.engPend := by
  simp only [Core.signalled]
  split <;> split <;> simp

@[simp] theorem Core.signalled_leased (c : Core) (q : SeqId) (b a : Nat) : (c.signalled q b a).leased = c.leased := by
  simp only [Core.signalled]
  split <;> split <;> simp

@[simp] theorem Core.signalled_level (c : Core) (q : SeqId) (b a : Nat) : (c.signalled q b a).level = c.level := by
  simp only [Core.signalled]
  split <;> split <;> simp

@[simp] theorem Core.signalled_mBadShape (c : Core) (q : SeqId) (b a : Nat) : (c.signalled q b a).mBadShape = c.mBadShape := by
  simp only [Core.signalled]
  split <;> split <;> simp

@[simp] theorem Core.signalled_mCancelled (c : Core) (q : SeqId) (b a : Nat) : (c.signalled q b a).mCancelled = c.mCancelled := by
  simp only [Core.signalled]
  split <;> split <;> simp

@[simp] theorem Core.signalled_chain (c : Core) (q : SeqId) (b a : Nat) : (c.signalled q b a).chain = c.chain := by
  simp only [Core.signalled]
  split <;> split <;> simp

@[simp] theorem Core.signalled_shape (c : Core) (q : SeqId) (b a : Nat) : (c.signalled q b a).shape = c.shape := by
  simp only [Core.signalled]
  split <;> split <;> simp

@[simp] theorem Core.signalled_ops (c : Core) (q : SeqId) (b a : Nat) : (c.signalled q b a).ops = c.ops := by
  simp only [Core.signalled]
  split <;> split <;> simp

@[simp] theorem Core.signalled_nextOp (c : Core) (q : SeqId) (b a : Nat) : (c.signalled q b a).nextOp = c.nextOp := by
  simp only [Core.signalled]
  split <;> split <;> simp

@[simp] theorem Core.signalled_bad (c : Core) (q : SeqId) (b a : Nat) : (c.signalled q b a).bad = c.bad := by
  simp only [Core.signalled]
  split <;> split <;> simp

@[simp] theorem Core.signalled_seqr (c : Core) (q p : SeqId) (b a : Nat) : (c.signalled q b a).seqr p = c.seqr p := by
  simp only [Core.signalled]
  split <;> split <;> simp

@[simp] theorem State.begin_cur_inst (s : State) (f : Form) : (s.begin f).cur.inst = s.cur.inst := by
  simp only [State.begin, State.cur_setCur, Core.setSeqr_inst]
  split <;> simp

@[simp] theorem State.signal_cur_inst (s : State) (f : Form) : (s.signal f).cur.inst = s.cur.inst := by
  simp [State.signal]

@[simp] theorem State.begin_cur_tiles (s : State) (f : Form) : (s.begin f).cur.tiles = s.cur.tiles := by
  simp only [State.begin, State.cur_setCur, Core.setSeqr_tiles]
  split <;> simp

@[simp] theorem State.signal_cur_tiles (s : State) (f : Form) : (s.signal f).cur.tiles = s.cur.tiles := by
  simp [State.signal]

@[simp] theorem State.begin_cur_tstat (s : State) (f : Form) : (s.begin f).cur.tstat = s.cur.tstat := by
  simp only [State.begin, State.cur_setCur, Core.setSeqr_tstat]
  split <;> simp

@[simp] theorem State.signal_cur_tstat (s : State) (f : Form) : (s.signal f).cur.tstat = s.cur.tstat := by
  simp [State.signal]

@[simp] theorem State.begin_cur_lists (s : State) (f : Form) : (s.begin f).cur.lists = s.cur.lists := by
  simp only [State.begin, State.cur_setCur, Core.setSeqr_lists]
  split <;> simp

@[simp] theorem State.signal_cur_lists (s : State) (f : Form) : (s.signal f).cur.lists = s.cur.lists := by
  simp [State.signal]

@[simp] theorem State.begin_cur_o (s : State) (f : Form) : (s.begin f).cur.o = s.cur.o := by
  simp only [State.begin, State.cur_setCur, Core.setSeqr_o]
  split <;> simp

@[simp] theorem State.signal_cur_o (s : State) (f : Form) : (s.signal f).cur.o = s.cur.o := by
  simp [State.signal]

@[simp] theorem State.begin_cur_lr (s : State) (f : Form) : (s.begin f).cur.lr = s.cur.lr := by
  simp only [State.begin, State.cur_setCur, Core.setSeqr_lr]
  split <;> simp

@[simp] theorem State.signal_cur_lr (s : State) (f : Form) : (s.signal f).cur.lr = s.cur.lr := by
  simp [State.signal]

@[simp] theorem State.begin_cur_rings (s : State) (f : Form) : (s.begin f).cur.rings = s.cur.rings := by
  simp only [State.begin, State.cur_setCur, Core.setSeqr_rings]
  split <;> simp

@[simp] theorem State.signal_cur_rings (s : State) (f : Form) : (s.signal f).cur.rings = s.cur.rings := by
  simp [State.signal]

@[simp] theorem State.begin_cur_g (s : State) (f : Form) : (s.begin f).cur.g = s.cur.g := by
  simp only [State.begin, State.cur_setCur, Core.setSeqr_g]
  split <;> simp

@[simp] theorem State.signal_cur_g (s : State) (f : Form) : (s.signal f).cur.g = s.cur.g := by
  simp [State.signal]

@[simp] theorem State.begin_cur_banks (s : State) (f : Form) : (s.begin f).cur.banks = s.cur.banks := by
  simp only [State.begin, State.cur_setCur, Core.setSeqr_banks]
  split <;> simp

@[simp] theorem State.signal_cur_banks (s : State) (f : Form) : (s.signal f).cur.banks = s.cur.banks := by
  simp [State.signal]

@[simp] theorem State.begin_cur_curS (s : State) (f : Form) : (s.begin f).cur.curS = s.cur.curS := by
  simp only [State.begin, State.cur_setCur, Core.setSeqr_curS]
  split <;> simp

@[simp] theorem State.signal_cur_curS (s : State) (f : Form) : (s.signal f).cur.curS = s.cur.curS := by
  simp [State.signal]

@[simp] theorem State.begin_cur_curV (s : State) (f : Form) : (s.begin f).cur.curV = s.cur.curV := by
  simp only [State.begin, State.cur_setCur, Core.setSeqr_curV]
  split <;> simp

@[simp] theorem State.signal_cur_curV (s : State) (f : Form) : (s.signal f).cur.curV = s.cur.curV := by
  simp [State.signal]

@[simp] theorem State.begin_cur_planes (s : State) (f : Form) : (s.begin f).cur.planes = s.cur.planes := by
  simp only [State.begin, State.cur_setCur, Core.setSeqr_planes]
  split <;> simp

@[simp] theorem State.signal_cur_planes (s : State) (f : Form) : (s.signal f).cur.planes = s.cur.planes := by
  simp [State.signal]

@[simp] theorem State.begin_cur_lastS (s : State) (f : Form) : (s.begin f).cur.lastS = s.cur.lastS := by
  simp only [State.begin, State.cur_setCur, Core.setSeqr_lastS]
  split <;> simp

@[simp] theorem State.signal_cur_lastS (s : State) (f : Form) : (s.signal f).cur.lastS = s.cur.lastS := by
  simp [State.signal]

@[simp] theorem State.begin_cur_lastV (s : State) (f : Form) : (s.begin f).cur.lastV = s.cur.lastV := by
  simp only [State.begin, State.cur_setCur, Core.setSeqr_lastV]
  split <;> simp

@[simp] theorem State.signal_cur_lastV (s : State) (f : Form) : (s.signal f).cur.lastV = s.cur.lastV := by
  simp [State.signal]

@[simp] theorem State.begin_cur_pins (s : State) (f : Form) : (s.begin f).cur.pins = s.cur.pins := by
  simp only [State.begin, State.cur_setCur, Core.setSeqr_pins]
  split <;> simp

@[simp] theorem State.signal_cur_pins (s : State) (f : Form) : (s.signal f).cur.pins = s.cur.pins := by
  simp [State.signal]

@[simp] theorem State.begin_cur_lm (s : State) (f : Form) : (s.begin f).cur.lm = s.cur.lm := by
  simp only [State.begin, State.cur_setCur, Core.setSeqr_lm]
  split <;> simp

@[simp] theorem State.signal_cur_lm (s : State) (f : Form) : (s.signal f).cur.lm = s.cur.lm := by
  simp [State.signal]

@[simp] theorem State.begin_cur_asked (s : State) (f : Form) : (s.begin f).cur.asked = s.cur.asked := by
  simp only [State.begin, State.cur_setCur, Core.setSeqr_asked]
  split <;> simp

@[simp] theorem State.signal_cur_asked (s : State) (f : Form) : (s.signal f).cur.asked = s.cur.asked := by
  simp [State.signal]

@[simp] theorem State.begin_cur_wbs (s : State) (f : Form) : (s.begin f).cur.wbs = s.cur.wbs := by
  simp only [State.begin, State.cur_setCur, Core.setSeqr_wbs]
  split <;> simp

@[simp] theorem State.signal_cur_wbs (s : State) (f : Form) : (s.signal f).cur.wbs = s.cur.wbs := by
  simp [State.signal]

@[simp] theorem State.begin_cur_wbq (s : State) (f : Form) : (s.begin f).cur.wbq = s.cur.wbq := by
  simp only [State.begin, State.cur_setCur, Core.setSeqr_wbq]
  split <;> simp

@[simp] theorem State.signal_cur_wbq (s : State) (f : Form) : (s.signal f).cur.wbq = s.cur.wbq := by
  simp [State.signal]

@[simp] theorem State.begin_cur_sent (s : State) (f : Form) : (s.begin f).cur.sent = s.cur.sent := by
  simp only [State.begin, State.cur_setCur, Core.setSeqr_sent]
  split <;> simp

@[simp] theorem State.signal_cur_sent (s : State) (f : Form) : (s.signal f).cur.sent = s.cur.sent := by
  simp [State.signal]

@[simp] theorem State.begin_cur_l1 (s : State) (f : Form) : (s.begin f).cur.l1 = s.cur.l1 := by
  simp only [State.begin, State.cur_setCur, Core.setSeqr_l1]
  split <;> simp

@[simp] theorem State.signal_cur_l1 (s : State) (f : Form) : (s.signal f).cur.l1 = s.cur.l1 := by
  simp [State.signal]

@[simp] theorem State.begin_cur_icache (s : State) (f : Form) : (s.begin f).cur.icache = s.cur.icache := by
  simp only [State.begin, State.cur_setCur, Core.setSeqr_icache]
  split <;> simp

@[simp] theorem State.signal_cur_icache (s : State) (f : Form) : (s.signal f).cur.icache = s.cur.icache := by
  simp [State.signal]

@[simp] theorem State.begin_cur_reel (s : State) (f : Form) : (s.begin f).cur.reel = s.cur.reel := by
  simp only [State.begin, State.cur_setCur, Core.setSeqr_reel]
  split <;> simp

@[simp] theorem State.signal_cur_reel (s : State) (f : Form) : (s.signal f).cur.reel = s.cur.reel := by
  simp [State.signal]

@[simp] theorem State.begin_cur_biv (s : State) (f : Form) : (s.begin f).cur.biv = s.cur.biv := by
  simp only [State.begin, State.cur_setCur, Core.setSeqr_biv]
  split <;> simp

@[simp] theorem State.signal_cur_biv (s : State) (f : Form) : (s.signal f).cur.biv = s.cur.biv := by
  simp [State.signal]

@[simp] theorem State.begin_cur_efq (s : State) (f : Form) : (s.begin f).cur.efq = s.cur.efq := by
  simp only [State.begin, State.cur_setCur, Core.setSeqr_efq]
  split <;> simp

@[simp] theorem State.signal_cur_efq (s : State) (f : Form) : (s.signal f).cur.efq = s.cur.efq := by
  simp [State.signal]

@[simp] theorem State.begin_cur_spilled (s : State) (f : Form) : (s.begin f).cur.spilled = s.cur.spilled := by
  simp only [State.begin, State.cur_setCur, Core.setSeqr_spilled]
  split <;> simp

@[simp] theorem State.signal_cur_spilled (s : State) (f : Form) : (s.signal f).cur.spilled = s.cur.spilled := by
  simp [State.signal]

@[simp] theorem State.begin_cur_engPend (s : State) (f : Form) : (s.begin f).cur.engPend = s.cur.engPend := by
  simp only [State.begin, State.cur_setCur, Core.setSeqr_engPend]
  split <;> simp

@[simp] theorem State.signal_cur_engPend (s : State) (f : Form) : (s.signal f).cur.engPend = s.cur.engPend := by
  simp [State.signal]

@[simp] theorem State.begin_cur_leased (s : State) (f : Form) : (s.begin f).cur.leased = s.cur.leased := by
  simp only [State.begin, State.cur_setCur, Core.setSeqr_leased]
  split <;> simp

@[simp] theorem State.signal_cur_leased (s : State) (f : Form) : (s.signal f).cur.leased = s.cur.leased := by
  simp [State.signal]

@[simp] theorem State.begin_cur_level (s : State) (f : Form) : (s.begin f).cur.level = s.cur.level := by
  simp only [State.begin, State.cur_setCur, Core.setSeqr_level]
  split <;> simp

@[simp] theorem State.signal_cur_level (s : State) (f : Form) : (s.signal f).cur.level = s.cur.level := by
  simp [State.signal]

@[simp] theorem State.begin_cur_mBadShape (s : State) (f : Form) : (s.begin f).cur.mBadShape = s.cur.mBadShape := by
  simp only [State.begin, State.cur_setCur, Core.setSeqr_mBadShape]
  split <;> simp

@[simp] theorem State.signal_cur_mBadShape (s : State) (f : Form) : (s.signal f).cur.mBadShape = s.cur.mBadShape := by
  simp [State.signal]

@[simp] theorem State.begin_cur_mCancelled (s : State) (f : Form) : (s.begin f).cur.mCancelled = s.cur.mCancelled := by
  simp only [State.begin, State.cur_setCur, Core.setSeqr_mCancelled]
  split <;> simp

@[simp] theorem State.signal_cur_mCancelled (s : State) (f : Form) : (s.signal f).cur.mCancelled = s.cur.mCancelled := by
  simp [State.signal]

@[simp] theorem State.begin_cur_chain (s : State) (f : Form) : (s.begin f).cur.chain = s.cur.chain := by
  simp only [State.begin, State.cur_setCur, Core.setSeqr_chain]
  split <;> simp

@[simp] theorem State.signal_cur_chain (s : State) (f : Form) : (s.signal f).cur.chain = s.cur.chain := by
  simp [State.signal]

@[simp] theorem State.begin_cur_shape (s : State) (f : Form) : (s.begin f).cur.shape = s.cur.shape := by
  simp only [State.begin, State.cur_setCur, Core.setSeqr_shape]
  split <;> simp

@[simp] theorem State.signal_cur_shape (s : State) (f : Form) : (s.signal f).cur.shape = s.cur.shape := by
  simp [State.signal]

@[simp] theorem State.begin_cur_ops (s : State) (f : Form) : (s.begin f).cur.ops = s.cur.ops := by
  simp only [State.begin, State.cur_setCur, Core.setSeqr_ops]
  split <;> simp

@[simp] theorem State.signal_cur_ops (s : State) (f : Form) : (s.signal f).cur.ops = s.cur.ops := by
  simp [State.signal]

@[simp] theorem State.begin_cur_nextOp (s : State) (f : Form) : (s.begin f).cur.nextOp = s.cur.nextOp := by
  simp only [State.begin, State.cur_setCur, Core.setSeqr_nextOp]
  split <;> simp

@[simp] theorem State.signal_cur_nextOp (s : State) (f : Form) : (s.signal f).cur.nextOp = s.cur.nextOp := by
  simp [State.signal]

@[simp] theorem State.begin_cur_bad (s : State) (f : Form) : (s.begin f).cur.bad = s.cur.bad := by
  simp only [State.begin, State.cur_setCur, Core.setSeqr_bad]
  split <;> simp

@[simp] theorem State.signal_cur_bad (s : State) (f : Form) : (s.signal f).cur.bad = s.cur.bad := by
  simp [State.signal]


@[simp] theorem State.sq_signal (s : State) (f : Form) : (s.signal f).sq = s.sq := by
  simp [State.signal, State.sq]

@[simp] theorem State.getX_signal (s : State) (f : Form) (r : XReg) : (s.signal f).getX r = s.getX r := by
  simp [State.getX]

@[simp] theorem State.getA_signal (s : State) (f : Form) (r : AReg) : (s.signal f).getA r = s.getA r := by
  simp [State.getA]

@[simp] theorem State.getP_signal (s : State) (f : Form) (r : PReg) : (s.signal f).getP r = s.getP r := by
  simp [State.getP]

end Sys2Proof.Machine
end

