-- ==== Sys2Proof/Laws/Issue.lean ====
section
/-! SUPPORT. Everything the issue of an instruction can do, once for each way it can go. -/

namespace Sys2Proof.Machine

open Sys2Proof

/-- A sequencer that does not run is a fault. -/
theorem State.issueWith_notRunning {s : State} {f : Form} {e : State → Res} {b : Pred → State → Res}
    (h : s.running = false) : s.issueWith f e b = .fault .notRunning := by
  simp [State.issueWith, h]

/-- A check that fails is its trap; a parity error met is counted. -/
theorem State.issueWith_early {s : State} {f : Form} {e : State → Res} {b : Pred → State → Res} {c : Cause} {v : Word64}
    (h : s.running = true) (he : s.early f = some (c, v)) : s.issueWith f e b = .next ((s.countRow f c).trapHere c v) := by
  simp [State.issueWith, h, he]

/-- An instruction that is not ready changes nothing. -/
theorem State.issueWith_notReady {s : State} {f : Form} {e : State → Res} {b : Pred → State → Res}
    (h : s.running = true) (he : s.early f = none) (hg : (f.stops && s.preempting && s.g0 f.h) = false)
    (hr : s.ready f = false) : s.issueWith f e b = .next s := by
  simp [State.issueWith, h, he, hg, hr]

/-- An instruction that issues answers as its body does. -/
theorem State.issueWith_body {s : State} {f : Form} {e : State → Res} {b : Pred → State → Res} (h : s.Issues f) :
    s.issueWith f e b = s.settle f (b s.sq.replayMask (s.begin f)) := by
  have hg : (f.guarded && !s.g0 f.h) = false := by
    rcases h.guard with g | g <;> simp [g]
  simp [State.issueWith, h.running, h.early, h.going, h.ready, hg]

/-- One with a false guard answers as its false-guarded effect does. -/
theorem State.issueWith_false {s : State} {f : Form} {e : State → Res} {b : Pred → State → Res} (h : s.IssuesFalse f) :
    s.issueWith f e b = s.settle f (e (s.begin f)) := by
  simp [State.issueWith, h.running, h.early, h.ready, h.tested, h.guard]

/-- Every issue of a running sequencer answers a next state. -/
theorem State.issueWith_next {s : State} {f : Form} {e : State → Res} {b : Pred → State → Res} (h : s.running = true) :
    ∃ t, s.issueWith f e b = .next t := by
  have hs : ∀ r, ∃ t, s.settle f r = .next t := fun r => by cases r <;> exact ⟨_, rfl⟩
  unfold State.issueWith
  rw [if_neg (by simp [h])]
  split
  · exact ⟨_, rfl⟩
  · split
    · exact ⟨_, rfl⟩
    · split
      · exact ⟨_, rfl⟩
      · split
        · exact hs _
        · exact hs _

theorem State.settle_done {s : State} {f : Form} {t : State} : s.settle f (.done t) = .next (s.retired f t) := rfl

/-- The body completes. -/
theorem State.issue_done {s : State} {f : Form} {b : State → Res} {t : State} (h : s.Issues f)
    (hb : b (s.begin f) = .done t) : s.issue f b = .next (s.retired f t) := by
  rw [State.issue, State.issueWith_body h, hb, State.settle_done]

/-- A body that always completes. -/
theorem State.issue_puts {s : State} {f : Form} {g : State → State} (h : s.Issues f) :
    (s.issue f fun t => .done (g t)) = .next (s.retired f (g (s.begin f))) := State.issue_done h rfl

/-- A cause other than UNCORR is not counted. -/
@[simp] theorem State.countTrap_of_ne {s : State} {c : Cause} {v : Word64} (h : c ≠ .uncorr) : s.countTrap c v = s := by
  simp [State.countTrap, h]

/-- The body raises a cause before issue; an uncorrectable error that it met is counted. -/
theorem State.issue_trap {s : State} {f : Form} {b : State → Res} {c : Cause} {v : Word64} (h : s.Issues f)
    (hb : b (s.begin f) = .trap c v) : s.issue f b = .next ((s.countTrap c v).trapHere c v) := by
  rw [State.issue, State.issueWith_body h, hb]
  rfl

/-- The body waits: nothing changes. -/
theorem State.issue_wait {s : State} {f : Form} {b : State → Res} (h : s.Issues f) (hb : b (s.begin f) = .wait) :
    s.issue f b = .next s := by
  rw [State.issue, State.issueWith_body h, hb]
  rfl

/-- A false guard leaves the token bits only. -/
theorem State.issue_false {s : State} {f : Form} {b : State → Res} (h : s.IssuesFalse f) :
    s.issue f b = .next (s.retired f (s.begin f)) := by
  rw [State.issue, State.issueWith_false h]
  rfl

theorem Core.ctr_of_ops {c d : Core} (h : c.ops = d.ops) (q : SeqId) (k : Nat) : c.ctr q k = d.ctr q k := by
  rw [Core.ctr, Core.ctr, h]

@[simp] theorem State.ctrRoom_begin (s : State) (f : Form) (k : Ctr) : (s.begin f).ctrRoom k = s.ctrRoom k := by
  cases k with
  | none => rfl
  | some k =>
    show Decidable.decide ((s.begin f).cur.ctr s.seq k.toNat < 255) = Decidable.decide (s.cur.ctr s.seq k.toNat < 255)
    rw [Core.ctr_of_ops (State.begin_cur_ops s f)]

/-- The body of an asynchronous instruction completes. -/
theorem State.issueAsync_done {s : State} {f : Form} {maj sub : Nat} {k : Ctr} {b : Pred → State → Res} {t : State}
    (h : s.Issues f) (hk : s.ctrRoom k = true) (hb : b s.sq.replayMask (s.begin f) = .done t) :
    s.issueAsync f maj sub k b = .next (s.retired f t) := by
  rw [State.issueAsync, State.issueWith_body h, State.ctrRoom_begin, if_pos hk, hb, State.settle_done]

/-- An asynchronous instruction raises a cause before issue. -/
theorem State.issueAsync_trap {s : State} {f : Form} {maj sub : Nat} {k : Ctr} {b : Pred → State → Res} {c : Cause}
    {v : Word64} (h : s.Issues f) (hk : s.ctrRoom k = true) (hb : b s.sq.replayMask (s.begin f) = .trap c v) :
    s.issueAsync f maj sub k b = .next ((s.countTrap c v).trapHere c v) := by
  rw [State.issueAsync, State.issueWith_body h, State.ctrRoom_begin, if_pos hk, hb]
  rfl

/-- A false guard takes the operation's place on the counter, with no other effect. -/
theorem State.issueAsync_false {s : State} {f : Form} {maj sub : Nat} {k : Ctr} {b : Pred → State → Res}
    (h : s.IssuesFalse f) (hk : s.ctrRoom k = true) :
    s.issueAsync f maj sub k b = .next (s.retired f ((s.begin f).addOp f maj sub k none none .null true)) := by
  rw [State.issueAsync, State.issueWith_false h, State.ctrRoom_begin, if_pos hk, State.settle_done]

/-- A full counter stalls the instruction. -/
theorem State.issueAsync_full {s : State} {f : Form} {maj sub : Nat} {k : Ctr} {b : Pred → State → Res}
    (h : s.Issues f) (hk : s.ctrRoom k = false) : s.issueAsync f maj sub k b = .next s := by
  rw [State.issueAsync, State.issueWith_body h, State.ctrRoom_begin, if_neg (by simp [hk])]
  rfl

end Sys2Proof.Machine
end

