-- ==== Sys2Proof/Laws/Memory.lean ====
section
/-! SUPPORT. Memory: every operation keeps the canonical form, and what a read gives after a write. -/

namespace Sys2Proof

/-- The canonical form below a first address: every address of m is at least lo. -/
theorem Memory.wf_cons {a : Nat} {b : Byte} {m : List Host.Cell} :
    Memory.wf ((a, b) :: m) = true ↔ b ≠ 0 ∧ (∀ c ∈ m, a < c.1) ∧ Memory.wf m = true := by
  induction m generalizing a b with
  | nil => simp [Memory.wf]
  | cons c rest ih =>
    obtain ⟨a', b'⟩ := c
    simp only [Memory.wf, Bool.and_eq_true, bne_iff_ne, decide_eq_true_eq, List.mem_cons, forall_eq_or_imp]
    constructor
    · rintro ⟨⟨hb, ha⟩, hw⟩
      exact ⟨hb, ⟨ha, fun c hc => Nat.lt_trans ha ((ih.mp hw).2.1 c hc)⟩, hw⟩
    · rintro ⟨hb, ⟨ha, _⟩, hw⟩
      exact ⟨⟨hb, ha⟩, hw⟩

theorem Tbl.mem_set {α : Type} {t : Tbl α} {n : Nat} {v : α} {c : Nat × α} (h : c ∈ Tbl.set t n v) : c = (n, v) ∨ c ∈ t := by
  induction t with
  | nil => simpa [Tbl.set] using h
  | cons e rest ih =>
    obtain ⟨k, u⟩ := e
    simp only [Tbl.set] at h
    split at h
    · rcases List.mem_cons.mp h with h | h
      · exact .inl h
      · exact .inr (List.mem_cons_of_mem _ h)
    · split at h
      · rcases List.mem_cons.mp h with h | h
        · exact .inl h
        · exact .inr h
      · rcases List.mem_cons.mp h with h | h
        · exact .inr (h ▸ List.mem_cons_self)
        · exact (ih h).imp id (List.mem_cons_of_mem _)

theorem Tbl.mem_erase {α : Type} {t : Tbl α} {n : Nat} {c : Nat × α} (h : c ∈ Tbl.erase t n) : c ∈ t := by
  induction t with
  | nil => simp [Tbl.erase] at h
  | cons e rest ih =>
    obtain ⟨k, u⟩ := e
    simp only [Tbl.erase] at h
    split at h
    · exact List.mem_cons_of_mem _ h
    · split at h
      · exact h
      · rcases List.mem_cons.mp h with h | h
        · exact h ▸ List.mem_cons_self
        · exact List.mem_cons_of_mem _ (ih h)

theorem Memory.wf_set {m : List Host.Cell} (a : Nat) {b : Byte} (hb : b ≠ 0) (hm : Memory.wf m = true) :
    Memory.wf (Tbl.set m a b) = true := by
  induction m with
  | nil => simpa [Tbl.set, Memory.wf] using hb
  | cons e rest ih =>
    obtain ⟨k, u⟩ := e
    obtain ⟨hu, hk, hr⟩ := Memory.wf_cons.mp hm
    simp only [Tbl.set]
    split
    · next h => exact Memory.wf_cons.mpr ⟨hb, h ▸ hk, hr⟩
    · split
      · next h =>
        refine Memory.wf_cons.mpr ⟨hb, fun c hc => ?_, hm⟩
        rcases List.mem_cons.mp hc with rfl | hc
        · exact h
        · exact Nat.lt_trans h (hk c hc)
      · next h h' =>
        refine Memory.wf_cons.mpr ⟨hu, fun c hc => ?_, ih hr⟩
        rcases Tbl.mem_set hc with rfl | hc
        · simp only
          omega
        · exact hk c hc

theorem Memory.wf_erase {m : List Host.Cell} (a : Nat) (hm : Memory.wf m = true) : Memory.wf (Tbl.erase m a) = true := by
  induction m with
  | nil => simp [Tbl.erase, Memory.wf]
  | cons e rest ih =>
    obtain ⟨k, u⟩ := e
    obtain ⟨hu, hk, hr⟩ := Memory.wf_cons.mp hm
    simp only [Tbl.erase]
    split
    · exact hr
    · split
      · exact hm
      · exact Memory.wf_cons.mpr ⟨hu, fun c hc => hk c (Tbl.mem_erase hc), ih hr⟩

/-- A byte written keeps the canonical form. -/
theorem Memory.wf_write {m : List Host.Cell} (a : Nat) (b : Byte) (hm : Memory.wf m = true) :
    Memory.wf (Mem.write m a b) = true := by
  unfold Mem.write
  split
  · exact Memory.wf_erase a hm
  · next h => exact Memory.wf_set a h hm

/-- Bytes written keep the canonical form. -/
theorem Memory.wf_writeL {m : List Host.Cell} (a : Nat) (bs : List Byte) (hm : Memory.wf m = true) :
    Memory.wf (Mem.writeL m a bs) = true := by
  induction bs generalizing m a with
  | nil => exact hm
  | cons b rest ih => exact ih (a + 1) (Memory.wf_write a b hm)

/-- Cells dropped by address keep the canonical form. -/
theorem Memory.wf_filter {m : List Host.Cell} (p : Host.Cell → Bool) (hm : Memory.wf m = true) :
    Memory.wf (m.filter p) = true := by
  induction m with
  | nil => rfl
  | cons e rest ih =>
    obtain ⟨k, u⟩ := e
    obtain ⟨hu, hk, hr⟩ := Memory.wf_cons.mp hm
    rw [List.filter_cons]
    split
    · exact Memory.wf_cons.mpr ⟨hu, fun c hc => hk c (List.mem_filter.mp hc).1, ih hr⟩
    · exact ih hr

/-! ## Reading back -/

theorem Tbl.get?_none {α : Type} {t : Tbl α} {n : Nat} (h : ∀ c ∈ t, n < c.1) : Tbl.get? t n = none := by
  cases t with
  | nil => rfl
  | cons e rest =>
    have := h e List.mem_cons_self
    simp [Tbl.get?, show ¬ n = e.1 by omega, this]

theorem Mem.get?_erase {m : List Host.Cell} (a x : Nat) (hm : Memory.wf m = true) :
    Tbl.get? (Tbl.erase m a) x = if x = a then none else Tbl.get? m x := by
  induction m with
  | nil => simp [Tbl.erase, Tbl.get?]
  | cons e rest ih =>
    obtain ⟨k, u⟩ := e
    obtain ⟨hu, hk, hr⟩ := Memory.wf_cons.mp hm
    have ih := ih hr
    simp only [Tbl.erase]
    split
    · next h =>
      subst h
      by_cases hx : x = a
      · subst hx
        rw [if_pos rfl]
        exact Tbl.get?_none hk
      · rw [if_neg hx]
        simp only [Tbl.get?, if_neg hx]
        split
        · next h' => exact Tbl.get?_none fun c hc => Nat.lt_trans h' (hk c hc)
        · rfl
    · split
      · next h h' =>
        by_cases hx : x = a
        · subst hx
          simp [Tbl.get?, h, h']
        · rw [if_neg hx]
      · next h h' =>
        simp only [Tbl.get?, ih]
        by_cases hx : x = a
        · subst hx
          simp [h, h']
        · simp [hx]

theorem Mem.get?_set {m : List Host.Cell} (a x : Nat) (b : Byte) :
    Tbl.get? (Tbl.set m a b) x = if x = a then some b else Tbl.get? m x := by
  induction m with
  | nil => simp [Tbl.set, Tbl.get?]
  | cons e rest ih =>
    obtain ⟨k, u⟩ := e
    simp only [Tbl.set]
    split
    · next h =>
      subst h
      by_cases hx : x = a <;> simp [Tbl.get?, hx]
    · split
      · next h h' =>
        by_cases hx : x = a
        · simp [Tbl.get?, hx]
        · simp only [Tbl.get?, if_neg hx]
          split
          · next h1 => simp [show ¬ x = k by omega, show x < k by omega]
          · rfl
      · next h h' =>
        simp only [Tbl.get?, ih]
        by_cases hx : x = a
        · subst hx
          simp [h, h']
        · simp [hx]

/-- A byte read after a byte is written. -/
theorem Mem.read_write {m : List Host.Cell} (a x : Nat) (b : Byte) (hm : Memory.wf m = true) :
    Mem.read (Mem.write m a b) x = if x = a then b else Mem.read m x := by
  unfold Mem.read Mem.write Tbl.getD
  split
  · next h =>
    rw [Mem.get?_erase a x hm]
    by_cases hx : x = a <;> simp [hx, h]
  · rw [Mem.get?_set]
    by_cases hx : x = a <;> simp [hx]

/-- A byte read after bytes are written. -/
theorem Mem.read_writeL {m : List Host.Cell} (a x : Nat) (bs : List Byte) (hm : Memory.wf m = true) :
    Mem.read (Mem.writeL m a bs) x = if a ≤ x ∧ x < a + bs.length then bs.getD (x - a) 0 else Mem.read m x := by
  induction bs generalizing m a with
  | nil => simp [Mem.writeL]
  | cons b rest ih =>
    rw [Mem.writeL, ih (a + 1) (Memory.wf_write a b hm), Mem.read_write a x b hm]
    by_cases h1 : a + 1 ≤ x ∧ x < a + 1 + rest.length
    · rw [if_pos h1, if_pos (by simp only [List.length_cons]; omega)]
      obtain ⟨k, hk⟩ : ∃ k, x - a = k + 1 := ⟨x - a - 1, by omega⟩
      rw [hk, show x - (a + 1) = k by omega]
      rfl
    · rw [if_neg h1]
      by_cases hx : x = a
      · subst hx
        simp
      · rw [if_neg hx, if_neg (by simp only [List.length_cons]; omega)]

end Sys2Proof
end

