-- ==== Sys2Proof/Laws/PerInstr.lean ====
section
/-! SUPPORT. Per instruction: the decoder reads back what the encoder writes. One lemma for each row of the opcode table. -/

set_option Elab.async false
set_option linter.unusedSimpArgs false

namespace Sys2Proof

/-- What the encoder writes for a well-formed instruction decodes to it, whatever word follows a one-word form; an event has
no words. -/
def Laws.RoundTrip.Statement (i : Instr) : Prop :=
  i.wf = true → ∀ q, Instr.fits q i → ∀ e,
    match encode i with
    | [] => True
    | w0 :: rest => decodeWords q w0 (rest.headD e) = .ok i

theorem Laws.roundTrip_none {i : Instr} (he : encode i = []) : Laws.RoundTrip.Statement i := by
  intro _ q _ e
  rw [he]
  trivial

theorem Laws.roundTrip_one {i : Instr} {h : Hdr} {maj : BitVec 6} {f : BitVec 16} (he : encode i = enc1 h maj f)
    (hd : i.wf = true → ∀ q, Instr.fits q i →
      decMajor q maj.toNat ⟨⟨h.t0, h.g, h.gn, Tok.dec (BitVec.ofNat 4 0)⟩, f, none⟩ = .ok i) : Laws.RoundTrip.Statement i := by
  intro w q hq e
  rw [he]
  exact (decode_one q h.t0 h.g h.gn maj f e).trans (hd w q hq)

theorem Laws.roundTrip_two {i : Instr} {h : Hdr} {maj : BitVec 6} {f : BitVec 16} {p : BitVec 28}
    (he : encode i = enc2 h maj f p)
    (hd : i.wf = true → ∀ q, Instr.fits q i → decMajor q maj.toNat ⟨h, f, some p⟩ = .ok i) :
    Laws.RoundTrip.Statement i := by
  intro w q hq e
  rw [he]
  exact (decode_two q h.t0 h.t1 h.g h.gn maj f p).trans (hd w q hq)

theorem Laws.RoundTrip.add (h d a b) : Laws.RoundTrip.Statement (.add h d a b) := Laws.roundTrip_one rfl fun w q _ => by
  have w : (h.oneWord) = true := w
  rw [major_decAlu]
  simp (disch := omega) only [decAlu, packReg_d, packReg_a, packReg_b, packReg_s, packReg_s3, packReg_sLow, ext, noExt, bind, Except.bind, pure, Except.pure, bits_low, bits_high, bits_all, bit_low, bit_high, bit_ofBool, Nat.reduceSub]
  simp [-BitVec.getLsbD_eq_getElem, Hdr.of_oneWord, *]

theorem Laws.RoundTrip.addImm (h d a imm) : Laws.RoundTrip.Statement (.addImm h d a imm) := Laws.roundTrip_two rfl fun _ q _ => by
  rw [major_decAlu]
  simp (disch := omega) only [decAlu, packReg_d, packReg_a, packReg_b, packReg_s, packReg_s3, packReg_sLow, ext, noExt, bind, Except.bind, pure, Except.pure, bits_low, bits_high, bits_all, bit_low, bit_high, bit_ofBool, Nat.reduceSub]
  simp [-BitVec.getLsbD_eq_getElem]

theorem Laws.RoundTrip.sub (h d a b) : Laws.RoundTrip.Statement (.sub h d a b) := Laws.roundTrip_one rfl fun w q _ => by
  have w : (h.oneWord) = true := w
  rw [major_decAlu]
  simp (disch := omega) only [decAlu, packReg_d, packReg_a, packReg_b, packReg_s, packReg_s3, packReg_sLow, ext, noExt, bind, Except.bind, pure, Except.pure, bits_low, bits_high, bits_all, bit_low, bit_high, bit_ofBool, Nat.reduceSub]
  simp [-BitVec.getLsbD_eq_getElem, Hdr.of_oneWord, *]

theorem Laws.RoundTrip.subImm (h d a imm) : Laws.RoundTrip.Statement (.subImm h d a imm) := Laws.roundTrip_two rfl fun _ q _ => by
  rw [major_decAlu]
  simp (disch := omega) only [decAlu, packReg_d, packReg_a, packReg_b, packReg_s, packReg_s3, packReg_sLow, ext, noExt, bind, Except.bind, pure, Except.pure, bits_low, bits_high, bits_all, bit_low, bit_high, bit_ofBool, Nat.reduceSub]
  simp [-BitVec.getLsbD_eq_getElem]

theorem Laws.RoundTrip.mul (h d a b) : Laws.RoundTrip.Statement (.mul h d a b) := Laws.roundTrip_one rfl fun w q _ => by
  have w : (h.oneWord) = true := w
  rw [major_decAlu]
  simp (disch := omega) only [decAlu, packReg_d, packReg_a, packReg_b, packReg_s, packReg_s3, packReg_sLow, ext, noExt, bind, Except.bind, pure, Except.pure, bits_low, bits_high, bits_all, bit_low, bit_high, bit_ofBool, Nat.reduceSub]
  simp [-BitVec.getLsbD_eq_getElem, Hdr.of_oneWord, *]

theorem Laws.RoundTrip.mulImm (h d a imm) : Laws.RoundTrip.Statement (.mulImm h d a imm) := Laws.roundTrip_two rfl fun _ q _ => by
  rw [major_decAlu]
  simp (disch := omega) only [decAlu, packReg_d, packReg_a, packReg_b, packReg_s, packReg_s3, packReg_sLow, ext, noExt, bind, Except.bind, pure, Except.pure, bits_low, bits_high, bits_all, bit_low, bit_high, bit_ofBool, Nat.reduceSub]
  simp [-BitVec.getLsbD_eq_getElem]

theorem Laws.RoundTrip.mulh (h d a b) : Laws.RoundTrip.Statement (.mulh h d a b) := Laws.roundTrip_one rfl fun w q _ => by
  have w : (h.oneWord) = true := w
  rw [major_decAlu]
  simp (disch := omega) only [decAlu, packReg_d, packReg_a, packReg_b, packReg_s, packReg_s3, packReg_sLow, ext, noExt, bind, Except.bind, pure, Except.pure, bits_low, bits_high, bits_all, bit_low, bit_high, bit_ofBool, Nat.reduceSub]
  simp [-BitVec.getLsbD_eq_getElem, Hdr.of_oneWord, *]

theorem Laws.RoundTrip.mulhImm (h d a imm) : Laws.RoundTrip.Statement (.mulhImm h d a imm) := Laws.roundTrip_two rfl fun _ q _ => by
  rw [major_decAlu]
  simp (disch := omega) only [decAlu, packReg_d, packReg_a, packReg_b, packReg_s, packReg_s3, packReg_sLow, ext, noExt, bind, Except.bind, pure, Except.pure, bits_low, bits_high, bits_all, bit_low, bit_high, bit_ofBool, Nat.reduceSub]
  simp [-BitVec.getLsbD_eq_getElem]

theorem Laws.RoundTrip.mulhu (h d a b) : Laws.RoundTrip.Statement (.mulhu h d a b) := Laws.roundTrip_one rfl fun w q _ => by
  have w : (h.oneWord) = true := w
  rw [major_decAlu]
  simp (disch := omega) only [decAlu, packReg_d, packReg_a, packReg_b, packReg_s, packReg_s3, packReg_sLow, ext, noExt, bind, Except.bind, pure, Except.pure, bits_low, bits_high, bits_all, bit_low, bit_high, bit_ofBool, Nat.reduceSub]
  simp [-BitVec.getLsbD_eq_getElem, Hdr.of_oneWord, *]

theorem Laws.RoundTrip.mulhuImm (h d a imm) : Laws.RoundTrip.Statement (.mulhuImm h d a imm) := Laws.roundTrip_two rfl fun _ q _ => by
  rw [major_decAlu]
  simp (disch := omega) only [decAlu, packReg_d, packReg_a, packReg_b, packReg_s, packReg_s3, packReg_sLow, ext, noExt, bind, Except.bind, pure, Except.pure, bits_low, bits_high, bits_all, bit_low, bit_high, bit_ofBool, Nat.reduceSub]
  simp [-BitVec.getLsbD_eq_getElem]

theorem Laws.RoundTrip.div (h d a b) : Laws.RoundTrip.Statement (.div h d a b) := Laws.roundTrip_one rfl fun w q _ => by
  have w : (h.oneWord) = true := w
  rw [major_decAlu]
  simp (disch := omega) only [decAlu, packReg_d, packReg_a, packReg_b, packReg_s, packReg_s3, packReg_sLow, ext, noExt, bind, Except.bind, pure, Except.pure, bits_low, bits_high, bits_all, bit_low, bit_high, bit_ofBool, Nat.reduceSub]
  simp [-BitVec.getLsbD_eq_getElem, Hdr.of_oneWord, *]

theorem Laws.RoundTrip.divImm (h d a imm) : Laws.RoundTrip.Statement (.divImm h d a imm) := Laws.roundTrip_two rfl fun _ q _ => by
  rw [major_decAlu]
  simp (disch := omega) only [decAlu, packReg_d, packReg_a, packReg_b, packReg_s, packReg_s3, packReg_sLow, ext, noExt, bind, Except.bind, pure, Except.pure, bits_low, bits_high, bits_all, bit_low, bit_high, bit_ofBool, Nat.reduceSub]
  simp [-BitVec.getLsbD_eq_getElem]

theorem Laws.RoundTrip.divu (h d a b) : Laws.RoundTrip.Statement (.divu h d a b) := Laws.roundTrip_one rfl fun w q _ => by
  have w : (h.oneWord) = true := w
  rw [major_decAlu]
  simp (disch := omega) only [decAlu, packReg_d, packReg_a, packReg_b, packReg_s, packReg_s3, packReg_sLow, ext, noExt, bind, Except.bind, pure, Except.pure, bits_low, bits_high, bits_all, bit_low, bit_high, bit_ofBool, Nat.reduceSub]
  simp [-BitVec.getLsbD_eq_getElem, Hdr.of_oneWord, *]

theorem Laws.RoundTrip.divuImm (h d a imm) : Laws.RoundTrip.Statement (.divuImm h d a imm) := Laws.roundTrip_two rfl fun _ q _ => by
  rw [major_decAlu]
  simp (disch := omega) only [decAlu, packReg_d, packReg_a, packReg_b, packReg_s, packReg_s3, packReg_sLow, ext, noExt, bind, Except.bind, pure, Except.pure, bits_low, bits_high, bits_all, bit_low, bit_high, bit_ofBool, Nat.reduceSub]
  simp [-BitVec.getLsbD_eq_getElem]

theorem Laws.RoundTrip.rem (h d a b) : Laws.RoundTrip.Statement (.rem h d a b) := Laws.roundTrip_one rfl fun w q _ => by
  have w : (h.oneWord) = true := w
  rw [major_decAlu]
  simp (disch := omega) only [decAlu, packReg_d, packReg_a, packReg_b, packReg_s, packReg_s3, packReg_sLow, ext, noExt, bind, Except.bind, pure, Except.pure, bits_low, bits_high, bits_all, bit_low, bit_high, bit_ofBool, Nat.reduceSub]
  simp [-BitVec.getLsbD_eq_getElem, Hdr.of_oneWord, *]

theorem Laws.RoundTrip.remImm (h d a imm) : Laws.RoundTrip.Statement (.remImm h d a imm) := Laws.roundTrip_two rfl fun _ q _ => by
  rw [major_decAlu]
  simp (disch := omega) only [decAlu, packReg_d, packReg_a, packReg_b, packReg_s, packReg_s3, packReg_sLow, ext, noExt, bind, Except.bind, pure, Except.pure, bits_low, bits_high, bits_all, bit_low, bit_high, bit_ofBool, Nat.reduceSub]
  simp [-BitVec.getLsbD_eq_getElem]

theorem Laws.RoundTrip.remu (h d a b) : Laws.RoundTrip.Statement (.remu h d a b) := Laws.roundTrip_one rfl fun w q _ => by
  have w : (h.oneWord) = true := w
  rw [major_decAlu]
  simp (disch := omega) only [decAlu, packReg_d, packReg_a, packReg_b, packReg_s, packReg_s3, packReg_sLow, ext, noExt, bind, Except.bind, pure, Except.pure, bits_low, bits_high, bits_all, bit_low, bit_high, bit_ofBool, Nat.reduceSub]
  simp [-BitVec.getLsbD_eq_getElem, Hdr.of_oneWord, *]

theorem Laws.RoundTrip.remuImm (h d a imm) : Laws.RoundTrip.Statement (.remuImm h d a imm) := Laws.roundTrip_two rfl fun _ q _ => by
  rw [major_decAlu]
  simp (disch := omega) only [decAlu, packReg_d, packReg_a, packReg_b, packReg_s, packReg_s3, packReg_sLow, ext, noExt, bind, Except.bind, pure, Except.pure, bits_low, bits_high, bits_all, bit_low, bit_high, bit_ofBool, Nat.reduceSub]
  simp [-BitVec.getLsbD_eq_getElem]

theorem Laws.RoundTrip.and (h d a b) : Laws.RoundTrip.Statement (.and h d a b) := Laws.roundTrip_one rfl fun w q _ => by
  have w : (h.oneWord) = true := w
  rw [major_decAlu]
  simp (disch := omega) only [decAlu, packReg_d, packReg_a, packReg_b, packReg_s, packReg_s3, packReg_sLow, ext, noExt, bind, Except.bind, pure, Except.pure, bits_low, bits_high, bits_all, bit_low, bit_high, bit_ofBool, Nat.reduceSub]
  simp [-BitVec.getLsbD_eq_getElem, Hdr.of_oneWord, *]

theorem Laws.RoundTrip.andImm (h d a imm) : Laws.RoundTrip.Statement (.andImm h d a imm) := Laws.roundTrip_two rfl fun _ q _ => by
  rw [major_decAlu]
  simp (disch := omega) only [decAlu, packReg_d, packReg_a, packReg_b, packReg_s, packReg_s3, packReg_sLow, ext, noExt, bind, Except.bind, pure, Except.pure, bits_low, bits_high, bits_all, bit_low, bit_high, bit_ofBool, Nat.reduceSub]
  simp [-BitVec.getLsbD_eq_getElem]

theorem Laws.RoundTrip.or (h d a b) : Laws.RoundTrip.Statement (.or h d a b) := Laws.roundTrip_one rfl fun w q _ => by
  have w : (h.oneWord) = true := w
  rw [major_decAlu]
  simp (disch := omega) only [decAlu, packReg_d, packReg_a, packReg_b, packReg_s, packReg_s3, packReg_sLow, ext, noExt, bind, Except.bind, pure, Except.pure, bits_low, bits_high, bits_all, bit_low, bit_high, bit_ofBool, Nat.reduceSub]
  simp [-BitVec.getLsbD_eq_getElem, Hdr.of_oneWord, *]

theorem Laws.RoundTrip.orImm (h d a imm) : Laws.RoundTrip.Statement (.orImm h d a imm) := Laws.roundTrip_two rfl fun _ q _ => by
  rw [major_decAlu]
  simp (disch := omega) only [decAlu, packReg_d, packReg_a, packReg_b, packReg_s, packReg_s3, packReg_sLow, ext, noExt, bind, Except.bind, pure, Except.pure, bits_low, bits_high, bits_all, bit_low, bit_high, bit_ofBool, Nat.reduceSub]
  simp [-BitVec.getLsbD_eq_getElem]

theorem Laws.RoundTrip.xor (h d a b) : Laws.RoundTrip.Statement (.xor h d a b) := Laws.roundTrip_one rfl fun w q _ => by
  have w : (h.oneWord) = true := w
  rw [major_decAlu]
  simp (disch := omega) only [decAlu, packReg_d, packReg_a, packReg_b, packReg_s, packReg_s3, packReg_sLow, ext, noExt, bind, Except.bind, pure, Except.pure, bits_low, bits_high, bits_all, bit_low, bit_high, bit_ofBool, Nat.reduceSub]
  simp [-BitVec.getLsbD_eq_getElem, Hdr.of_oneWord, *]

theorem Laws.RoundTrip.xorImm (h d a imm) : Laws.RoundTrip.Statement (.xorImm h d a imm) := Laws.roundTrip_two rfl fun _ q _ => by
  rw [major_decAlu]
  simp (disch := omega) only [decAlu, packReg_d, packReg_a, packReg_b, packReg_s, packReg_s3, packReg_sLow, ext, noExt, bind, Except.bind, pure, Except.pure, bits_low, bits_high, bits_all, bit_low, bit_high, bit_ofBool, Nat.reduceSub]
  simp [-BitVec.getLsbD_eq_getElem]

theorem Laws.RoundTrip.andn (h d a b) : Laws.RoundTrip.Statement (.andn h d a b) := Laws.roundTrip_one rfl fun w q _ => by
  have w : (h.oneWord) = true := w
  rw [major_decAlu]
  simp (disch := omega) only [decAlu, packReg_d, packReg_a, packReg_b, packReg_s, packReg_s3, packReg_sLow, ext, noExt, bind, Except.bind, pure, Except.pure, bits_low, bits_high, bits_all, bit_low, bit_high, bit_ofBool, Nat.reduceSub]
  simp [-BitVec.getLsbD_eq_getElem, Hdr.of_oneWord, *]

theorem Laws.RoundTrip.andnImm (h d a imm) : Laws.RoundTrip.Statement (.andnImm h d a imm) := Laws.roundTrip_two rfl fun _ q _ => by
  rw [major_decAlu]
  simp (disch := omega) only [decAlu, packReg_d, packReg_a, packReg_b, packReg_s, packReg_s3, packReg_sLow, ext, noExt, bind, Except.bind, pure, Except.pure, bits_low, bits_high, bits_all, bit_low, bit_high, bit_ofBool, Nat.reduceSub]
  simp [-BitVec.getLsbD_eq_getElem]

theorem Laws.RoundTrip.shl (h d a b) : Laws.RoundTrip.Statement (.shl h d a b) := Laws.roundTrip_one rfl fun w q _ => by
  have w : (h.oneWord) = true := w
  rw [major_decAlu]
  simp (disch := omega) only [decAlu, packReg_d, packReg_a, packReg_b, packReg_s, packReg_s3, packReg_sLow, ext, noExt, bind, Except.bind, pure, Except.pure, bits_low, bits_high, bits_all, bit_low, bit_high, bit_ofBool, Nat.reduceSub]
  simp [-BitVec.getLsbD_eq_getElem, Hdr.of_oneWord, *]

theorem Laws.RoundTrip.shlImm (h d a imm) : Laws.RoundTrip.Statement (.shlImm h d a imm) := Laws.roundTrip_two rfl fun _ q _ => by
  rw [major_decAlu]
  simp (disch := omega) only [decAlu, packReg_d, packReg_a, packReg_b, packReg_s, packReg_s3, packReg_sLow, ext, noExt, bind, Except.bind, pure, Except.pure, bits_low, bits_high, bits_all, bit_low, bit_high, bit_ofBool, Nat.reduceSub]
  simp [-BitVec.getLsbD_eq_getElem]

theorem Laws.RoundTrip.shr (h d a b) : Laws.RoundTrip.Statement (.shr h d a b) := Laws.roundTrip_one rfl fun w q _ => by
  have w : (h.oneWord) = true := w
  rw [major_decAlu]
  simp (disch := omega) only [decAlu, packReg_d, packReg_a, packReg_b, packReg_s, packReg_s3, packReg_sLow, ext, noExt, bind, Except.bind, pure, Except.pure, bits_low, bits_high, bits_all, bit_low, bit_high, bit_ofBool, Nat.reduceSub]
  simp [-BitVec.getLsbD_eq_getElem, Hdr.of_oneWord, *]

theorem Laws.RoundTrip.shrImm (h d a imm) : Laws.RoundTrip.Statement (.shrImm h d a imm) := Laws.roundTrip_two rfl fun _ q _ => by
  rw [major_decAlu]
  simp (disch := omega) only [decAlu, packReg_d, packReg_a, packReg_b, packReg_s, packReg_s3, packReg_sLow, ext, noExt, bind, Except.bind, pure, Except.pure, bits_low, bits_high, bits_all, bit_low, bit_high, bit_ofBool, Nat.reduceSub]
  simp [-BitVec.getLsbD_eq_getElem]

theorem Laws.RoundTrip.sra (h d a b) : Laws.RoundTrip.Statement (.sra h d a b) := Laws.roundTrip_one rfl fun w q _ => by
  have w : (h.oneWord) = true := w
  rw [major_decAlu]
  simp (disch := omega) only [decAlu, packReg_d, packReg_a, packReg_b, packReg_s, packReg_s3, packReg_sLow, ext, noExt, bind, Except.bind, pure, Except.pure, bits_low, bits_high, bits_all, bit_low, bit_high, bit_ofBool, Nat.reduceSub]
  simp [-BitVec.getLsbD_eq_getElem, Hdr.of_oneWord, *]

theorem Laws.RoundTrip.sraImm (h d a imm) : Laws.RoundTrip.Statement (.sraImm h d a imm) := Laws.roundTrip_two rfl fun _ q _ => by
  rw [major_decAlu]
  simp (disch := omega) only [decAlu, packReg_d, packReg_a, packReg_b, packReg_s, packReg_s3, packReg_sLow, ext, noExt, bind, Except.bind, pure, Except.pure, bits_low, bits_high, bits_all, bit_low, bit_high, bit_ofBool, Nat.reduceSub]
  simp [-BitVec.getLsbD_eq_getElem]

theorem Laws.RoundTrip.min (h d a b) : Laws.RoundTrip.Statement (.min h d a b) := Laws.roundTrip_one rfl fun w q _ => by
  have w : (h.oneWord) = true := w
  rw [major_decAlu2]
  simp (disch := omega) only [decAlu2, packReg_d, packReg_a, packReg_b, packReg_s, packReg_s3, packReg_sLow, ext, noExt, bind, Except.bind, pure, Except.pure, bits_low, bits_high, bits_all, bit_low, bit_high, bit_ofBool, Nat.reduceSub]
  simp [-BitVec.getLsbD_eq_getElem, Hdr.of_oneWord, *]

theorem Laws.RoundTrip.minImm (h d a imm) : Laws.RoundTrip.Statement (.minImm h d a imm) := Laws.roundTrip_two rfl fun _ q _ => by
  rw [major_decAlu2]
  simp (disch := omega) only [decAlu2, packReg_d, packReg_a, packReg_b, packReg_s, packReg_s3, packReg_sLow, ext, noExt, bind, Except.bind, pure, Except.pure, bits_low, bits_high, bits_all, bit_low, bit_high, bit_ofBool, Nat.reduceSub]
  simp [-BitVec.getLsbD_eq_getElem]

theorem Laws.RoundTrip.max (h d a b) : Laws.RoundTrip.Statement (.max h d a b) := Laws.roundTrip_one rfl fun w q _ => by
  have w : (h.oneWord) = true := w
  rw [major_decAlu2]
  simp (disch := omega) only [decAlu2, packReg_d, packReg_a, packReg_b, packReg_s, packReg_s3, packReg_sLow, ext, noExt, bind, Except.bind, pure, Except.pure, bits_low, bits_high, bits_all, bit_low, bit_high, bit_ofBool, Nat.reduceSub]
  simp [-BitVec.getLsbD_eq_getElem, Hdr.of_oneWord, *]

theorem Laws.RoundTrip.maxImm (h d a imm) : Laws.RoundTrip.Statement (.maxImm h d a imm) := Laws.roundTrip_two rfl fun _ q _ => by
  rw [major_decAlu2]
  simp (disch := omega) only [decAlu2, packReg_d, packReg_a, packReg_b, packReg_s, packReg_s3, packReg_sLow, ext, noExt, bind, Except.bind, pure, Except.pure, bits_low, bits_high, bits_all, bit_low, bit_high, bit_ofBool, Nat.reduceSub]
  simp [-BitVec.getLsbD_eq_getElem]

theorem Laws.RoundTrip.minu (h d a b) : Laws.RoundTrip.Statement (.minu h d a b) := Laws.roundTrip_one rfl fun w q _ => by
  have w : (h.oneWord) = true := w
  rw [major_decAlu2]
  simp (disch := omega) only [decAlu2, packReg_d, packReg_a, packReg_b, packReg_s, packReg_s3, packReg_sLow, ext, noExt, bind, Except.bind, pure, Except.pure, bits_low, bits_high, bits_all, bit_low, bit_high, bit_ofBool, Nat.reduceSub]
  simp [-BitVec.getLsbD_eq_getElem, Hdr.of_oneWord, *]

theorem Laws.RoundTrip.minuImm (h d a imm) : Laws.RoundTrip.Statement (.minuImm h d a imm) := Laws.roundTrip_two rfl fun _ q _ => by
  rw [major_decAlu2]
  simp (disch := omega) only [decAlu2, packReg_d, packReg_a, packReg_b, packReg_s, packReg_s3, packReg_sLow, ext, noExt, bind, Except.bind, pure, Except.pure, bits_low, bits_high, bits_all, bit_low, bit_high, bit_ofBool, Nat.reduceSub]
  simp [-BitVec.getLsbD_eq_getElem]

theorem Laws.RoundTrip.maxu (h d a b) : Laws.RoundTrip.Statement (.maxu h d a b) := Laws.roundTrip_one rfl fun w q _ => by
  have w : (h.oneWord) = true := w
  rw [major_decAlu2]
  simp (disch := omega) only [decAlu2, packReg_d, packReg_a, packReg_b, packReg_s, packReg_s3, packReg_sLow, ext, noExt, bind, Except.bind, pure, Except.pure, bits_low, bits_high, bits_all, bit_low, bit_high, bit_ofBool, Nat.reduceSub]
  simp [-BitVec.getLsbD_eq_getElem, Hdr.of_oneWord, *]

theorem Laws.RoundTrip.maxuImm (h d a imm) : Laws.RoundTrip.Statement (.maxuImm h d a imm) := Laws.roundTrip_two rfl fun _ q _ => by
  rw [major_decAlu2]
  simp (disch := omega) only [decAlu2, packReg_d, packReg_a, packReg_b, packReg_s, packReg_s3, packReg_sLow, ext, noExt, bind, Except.bind, pure, Except.pure, bits_low, bits_high, bits_all, bit_low, bit_high, bit_ofBool, Nat.reduceSub]
  simp [-BitVec.getLsbD_eq_getElem]

theorem Laws.RoundTrip.clz (h d a) : Laws.RoundTrip.Statement (.clz h d a) := Laws.roundTrip_one rfl fun w q _ => by
  have w : (h.oneWord) = true := w
  rw [major_decAlu2]
  simp (disch := omega) only [decAlu2, packReg_d, packReg_a, packReg_b, packReg_s, packReg_s3, packReg_sLow, ext, noExt, bind, Except.bind, pure, Except.pure, bits_low, bits_high, bits_all, bit_low, bit_high, bit_ofBool, Nat.reduceSub]
  simp [-BitVec.getLsbD_eq_getElem, Hdr.of_oneWord, *]

theorem Laws.RoundTrip.popc (h d a) : Laws.RoundTrip.Statement (.popc h d a) := Laws.roundTrip_one rfl fun w q _ => by
  have w : (h.oneWord) = true := w
  rw [major_decAlu2]
  simp (disch := omega) only [decAlu2, packReg_d, packReg_a, packReg_b, packReg_s, packReg_s3, packReg_sLow, ext, noExt, bind, Except.bind, pure, Except.pure, bits_low, bits_high, bits_all, bit_low, bit_high, bit_ofBool, Nat.reduceSub]
  simp [-BitVec.getLsbD_eq_getElem, Hdr.of_oneWord, *]

theorem Laws.RoundTrip.sext (h d a w) : Laws.RoundTrip.Statement (.sext h d a w) := Laws.roundTrip_one rfl fun w q _ => by
  have w : (h.oneWord) = true := w
  rw [major_decAlu2]
  simp (disch := omega) only [decAlu2, packReg_d, packReg_a, packReg_b, packReg_s, packReg_s3, packReg_sLow, ext, noExt, bind, Except.bind, pure, Except.pure, bits_low, bits_high, bits_all, bit_low, bit_high, bit_ofBool, Nat.reduceSub]
  simp [-BitVec.getLsbD_eq_getElem, Hdr.of_oneWord, *]

theorem Laws.RoundTrip.zext (h d a w) : Laws.RoundTrip.Statement (.zext h d a w) := Laws.roundTrip_one rfl fun w q _ => by
  have w : (h.oneWord) = true := w
  rw [major_decAlu2]
  simp (disch := omega) only [decAlu2, packReg_d, packReg_a, packReg_b, packReg_s, packReg_s3, packReg_sLow, ext, noExt, bind, Except.bind, pure, Except.pure, bits_low, bits_high, bits_all, bit_low, bit_high, bit_ofBool, Nat.reduceSub]
  simp [-BitVec.getLsbD_eq_getElem, Hdr.of_oneWord, *]

theorem Laws.RoundTrip.movXX (h d a) : Laws.RoundTrip.Statement (.movXX h d a) := Laws.roundTrip_one rfl fun w q _ => by
  have w : (h.oneWord) = true := w
  rw [major_decAlu2]
  simp (disch := omega) only [decAlu2, packReg_d, packReg_a, packReg_b, packReg_s, packReg_s3, packReg_sLow, ext, noExt, bind, Except.bind, pure, Except.pure, bits_low, bits_high, bits_all, bit_low, bit_high, bit_ofBool, Nat.reduceSub]
  simp [-BitVec.getLsbD_eq_getElem, Hdr.of_oneWord, *]

theorem Laws.RoundTrip.movXA (h d a) : Laws.RoundTrip.Statement (.movXA h d a) := Laws.roundTrip_one rfl fun w q _ => by
  have w : (h.oneWord) = true := w
  rw [major_decAlu2]
  simp (disch := omega) only [decAlu2, packReg_d, packReg_a, packReg_b, packReg_s, packReg_s3, packReg_sLow, ext, noExt, bind, Except.bind, pure, Except.pure, bits_low, bits_high, bits_all, bit_low, bit_high, bit_ofBool, Nat.reduceSub]
  simp [-BitVec.getLsbD_eq_getElem, Hdr.of_oneWord, *]

theorem Laws.RoundTrip.movAX (h d a) : Laws.RoundTrip.Statement (.movAX h d a) := Laws.roundTrip_one rfl fun w q _ => by
  have w : (h.oneWord) = true := w
  rw [major_decAlu2]
  simp (disch := omega) only [decAlu2, packReg_d, packReg_a, packReg_b, packReg_s, packReg_s3, packReg_sLow, ext, noExt, bind, Except.bind, pure, Except.pure, bits_low, bits_high, bits_all, bit_low, bit_high, bit_ofBool, Nat.reduceSub]
  simp [-BitVec.getLsbD_eq_getElem, Hdr.of_oneWord, *]

theorem Laws.RoundTrip.sel (h d a b p) : Laws.RoundTrip.Statement (.sel h d a b p) := Laws.roundTrip_two rfl fun _ q _ => by
  rw [major_decAlu2]
  simp (disch := omega) only [decAlu2, packReg_d, packReg_a, packReg_b, packReg_s, packReg_s3, packReg_sLow, ext, noExt, bind, Except.bind, pure, Except.pure, bits_low, bits_high, bits_all, bit_low, bit_high, bit_ofBool, Nat.reduceSub]
  simp [-BitVec.getLsbD_eq_getElem]

theorem Laws.RoundTrip.li (h d v) : Laws.RoundTrip.Statement (.li h d v) := Laws.roundTrip_one rfl fun w q _ => by
  have w : (h.oneWord) = true := w
  rw [major_decLi]
  simp (disch := omega) only [decLi, packImm_d, packImm_v, packImm_v11, packImm_vLow, ext, noExt, bind, Except.bind, pure, Except.pure, bits_low, bits_high, bits_all, bit_low, bit_high, bit_ofBool, Nat.reduceSub]
  simp [-BitVec.getLsbD_eq_getElem, Hdr.of_oneWord, *]

theorem Laws.RoundTrip.liExt (h d v) : Laws.RoundTrip.Statement (.liExt h d v) := Laws.roundTrip_two rfl fun _ q _ => by
  rw [major_decLi]
  simp (disch := omega) only [decLi, packImm_d, packImm_v, packImm_v11, packImm_vLow, ext, noExt, bind, Except.bind, pure, Except.pure, bits_low, bits_high, bits_all, bit_low, bit_high, bit_ofBool, Nat.reduceSub]
  simp [-BitVec.getLsbD_eq_getElem]

theorem Laws.RoundTrip.cmp (h c d a b) : Laws.RoundTrip.Statement (.cmp h c d a b) := Laws.roundTrip_one rfl fun w q _ => by
  have w : (h.oneWord) = true := w
  rw [major_decCmp]
  simp (disch := omega) only [decCmp, packReg_d, packReg_a, packReg_b, packReg_s, packReg_s3, packReg_sLow, ext, noExt, bind, Except.bind, pure, Except.pure, bits_low, bits_high, bits_all, bit_low, bit_high, bit_ofBool, Nat.reduceSub]
  simp [-BitVec.getLsbD_eq_getElem, Hdr.of_oneWord, *]

theorem Laws.RoundTrip.cmpImm (h c d a imm) : Laws.RoundTrip.Statement (.cmpImm h c d a imm) := Laws.roundTrip_two rfl fun _ q _ => by
  rw [major_decCmp]
  simp (disch := omega) only [decCmp, packReg_d, packReg_a, packReg_b, packReg_s, packReg_s3, packReg_sLow, ext, noExt, bind, Except.bind, pure, Except.pure, bits_low, bits_high, bits_all, bit_low, bit_high, bit_ofBool, Nat.reduceSub]
  simp [-BitVec.getLsbD_eq_getElem]

theorem Laws.RoundTrip.fadd (h d a b) : Laws.RoundTrip.Statement (.fadd h d a b) := Laws.roundTrip_one rfl fun w q _ => by
  have w : (h.oneWord) = true := w
  rw [major_decFpu]
  simp (disch := omega) only [decFpu, packReg_d, packReg_a, packReg_b, packReg_s, packReg_s3, packReg_sLow, ext, noExt, bind, Except.bind, pure, Except.pure, bits_low, bits_high, bits_all, bit_low, bit_high, bit_ofBool, Nat.reduceSub]
  simp [-BitVec.getLsbD_eq_getElem, Hdr.of_oneWord, *]

theorem Laws.RoundTrip.faddImm (h d a imm) : Laws.RoundTrip.Statement (.faddImm h d a imm) := Laws.roundTrip_two rfl fun _ q _ => by
  rw [major_decFpu]
  simp (disch := omega) only [decFpu, packReg_d, packReg_a, packReg_b, packReg_s, packReg_s3, packReg_sLow, ext, noExt, bind, Except.bind, pure, Except.pure, bits_low, bits_high, bits_all, bit_low, bit_high, bit_ofBool, Nat.reduceSub]
  simp [-BitVec.getLsbD_eq_getElem]

theorem Laws.RoundTrip.fsub (h d a b) : Laws.RoundTrip.Statement (.fsub h d a b) := Laws.roundTrip_one rfl fun w q _ => by
  have w : (h.oneWord) = true := w
  rw [major_decFpu]
  simp (disch := omega) only [decFpu, packReg_d, packReg_a, packReg_b, packReg_s, packReg_s3, packReg_sLow, ext, noExt, bind, Except.bind, pure, Except.pure, bits_low, bits_high, bits_all, bit_low, bit_high, bit_ofBool, Nat.reduceSub]
  simp [-BitVec.getLsbD_eq_getElem, Hdr.of_oneWord, *]

theorem Laws.RoundTrip.fsubImm (h d a imm) : Laws.RoundTrip.Statement (.fsubImm h d a imm) := Laws.roundTrip_two rfl fun _ q _ => by
  rw [major_decFpu]
  simp (disch := omega) only [decFpu, packReg_d, packReg_a, packReg_b, packReg_s, packReg_s3, packReg_sLow, ext, noExt, bind, Except.bind, pure, Except.pure, bits_low, bits_high, bits_all, bit_low, bit_high, bit_ofBool, Nat.reduceSub]
  simp [-BitVec.getLsbD_eq_getElem]

theorem Laws.RoundTrip.fmul (h d a b) : Laws.RoundTrip.Statement (.fmul h d a b) := Laws.roundTrip_one rfl fun w q _ => by
  have w : (h.oneWord) = true := w
  rw [major_decFpu]
  simp (disch := omega) only [decFpu, packReg_d, packReg_a, packReg_b, packReg_s, packReg_s3, packReg_sLow, ext, noExt, bind, Except.bind, pure, Except.pure, bits_low, bits_high, bits_all, bit_low, bit_high, bit_ofBool, Nat.reduceSub]
  simp [-BitVec.getLsbD_eq_getElem, Hdr.of_oneWord, *]

theorem Laws.RoundTrip.fmulImm (h d a imm) : Laws.RoundTrip.Statement (.fmulImm h d a imm) := Laws.roundTrip_two rfl fun _ q _ => by
  rw [major_decFpu]
  simp (disch := omega) only [decFpu, packReg_d, packReg_a, packReg_b, packReg_s, packReg_s3, packReg_sLow, ext, noExt, bind, Except.bind, pure, Except.pure, bits_low, bits_high, bits_all, bit_low, bit_high, bit_ofBool, Nat.reduceSub]
  simp [-BitVec.getLsbD_eq_getElem]

theorem Laws.RoundTrip.fma (h d a b) : Laws.RoundTrip.Statement (.fma h d a b) := Laws.roundTrip_one rfl fun w q _ => by
  have w : (h.oneWord) = true := w
  rw [major_decFpu]
  simp (disch := omega) only [decFpu, packReg_d, packReg_a, packReg_b, packReg_s, packReg_s3, packReg_sLow, ext, noExt, bind, Except.bind, pure, Except.pure, bits_low, bits_high, bits_all, bit_low, bit_high, bit_ofBool, Nat.reduceSub]
  simp [-BitVec.getLsbD_eq_getElem, Hdr.of_oneWord, *]

theorem Laws.RoundTrip.fmaImm (h d a imm) : Laws.RoundTrip.Statement (.fmaImm h d a imm) := Laws.roundTrip_two rfl fun _ q _ => by
  rw [major_decFpu]
  simp (disch := omega) only [decFpu, packReg_d, packReg_a, packReg_b, packReg_s, packReg_s3, packReg_sLow, ext, noExt, bind, Except.bind, pure, Except.pure, bits_low, bits_high, bits_all, bit_low, bit_high, bit_ofBool, Nat.reduceSub]
  simp [-BitVec.getLsbD_eq_getElem]

theorem Laws.RoundTrip.fmin (h d a b) : Laws.RoundTrip.Statement (.fmin h d a b) := Laws.roundTrip_one rfl fun w q _ => by
  have w : (h.oneWord) = true := w
  rw [major_decFpu]
  simp (disch := omega) only [decFpu, packReg_d, packReg_a, packReg_b, packReg_s, packReg_s3, packReg_sLow, ext, noExt, bind, Except.bind, pure, Except.pure, bits_low, bits_high, bits_all, bit_low, bit_high, bit_ofBool, Nat.reduceSub]
  simp [-BitVec.getLsbD_eq_getElem, Hdr.of_oneWord, *]

theorem Laws.RoundTrip.fminImm (h d a imm) : Laws.RoundTrip.Statement (.fminImm h d a imm) := Laws.roundTrip_two rfl fun _ q _ => by
  rw [major_decFpu]
  simp (disch := omega) only [decFpu, packReg_d, packReg_a, packReg_b, packReg_s, packReg_s3, packReg_sLow, ext, noExt, bind, Except.bind, pure, Except.pure, bits_low, bits_high, bits_all, bit_low, bit_high, bit_ofBool, Nat.reduceSub]
  simp [-BitVec.getLsbD_eq_getElem]

theorem Laws.RoundTrip.fmax (h d a b) : Laws.RoundTrip.Statement (.fmax h d a b) := Laws.roundTrip_one rfl fun w q _ => by
  have w : (h.oneWord) = true := w
  rw [major_decFpu]
  simp (disch := omega) only [decFpu, packReg_d, packReg_a, packReg_b, packReg_s, packReg_s3, packReg_sLow, ext, noExt, bind, Except.bind, pure, Except.pure, bits_low, bits_high, bits_all, bit_low, bit_high, bit_ofBool, Nat.reduceSub]
  simp [-BitVec.getLsbD_eq_getElem, Hdr.of_oneWord, *]

theorem Laws.RoundTrip.fmaxImm (h d a imm) : Laws.RoundTrip.Statement (.fmaxImm h d a imm) := Laws.roundTrip_two rfl fun _ q _ => by
  rw [major_decFpu]
  simp (disch := omega) only [decFpu, packReg_d, packReg_a, packReg_b, packReg_s, packReg_s3, packReg_sLow, ext, noExt, bind, Except.bind, pure, Except.pure, bits_low, bits_high, bits_all, bit_low, bit_high, bit_ofBool, Nat.reduceSub]
  simp [-BitVec.getLsbD_eq_getElem]

theorem Laws.RoundTrip.fcvt (h d a src dst rm sat) : Laws.RoundTrip.Statement (.fcvt h d a src dst rm sat) := Laws.roundTrip_two rfl fun w q _ => by
  have w : (rm != .sr) = true := w
  simp [-BitVec.getLsbD_eq_getElem] at w
  rw [major_decFpu]
  simp (disch := omega) only [decFpu, packReg_d, packReg_a, packReg_b, packReg_s, packReg_s3, packReg_sLow, ext, noExt, bind, Except.bind, pure, Except.pure, bits_low, bits_high, bits_all, bit_low, bit_high, bit_ofBool, Nat.reduceSub]
  simp [-BitVec.getLsbD_eq_getElem, *]

theorem Laws.RoundTrip.fcmp (h c d a b) : Laws.RoundTrip.Statement (.fcmp h c d a b) := Laws.roundTrip_one rfl fun w q _ => by
  have w : (h.oneWord) = true := w
  rw [major_decFcmp]
  simp (disch := omega) only [decFcmp, packReg_d, packReg_a, packReg_b, packReg_s, packReg_s3, packReg_sLow, ext, noExt, bind, Except.bind, pure, Except.pure, bits_low, bits_high, bits_all, bit_low, bit_high, bit_ofBool, Nat.reduceSub]
  simp [-BitVec.getLsbD_eq_getElem, Hdr.of_oneWord, *]

theorem Laws.RoundTrip.fcmpImm (h c d a imm) : Laws.RoundTrip.Statement (.fcmpImm h c d a imm) := Laws.roundTrip_two rfl fun _ q _ => by
  rw [major_decFcmp]
  simp (disch := omega) only [decFcmp, packReg_d, packReg_a, packReg_b, packReg_s, packReg_s3, packReg_sLow, ext, noExt, bind, Except.bind, pure, Except.pure, bits_low, bits_high, bits_all, bit_low, bit_high, bit_ofBool, Nat.reduceSub]
  simp [-BitVec.getLsbD_eq_getElem]

theorem Laws.RoundTrip.pand (h d a b) : Laws.RoundTrip.Statement (.pand h d a b) := Laws.roundTrip_one rfl fun w q _ => by
  have w : (h.oneWord) = true := w
  rw [major_decPred]
  simp (disch := omega) only [decPred, packReg_d, packReg_a, packReg_b, packReg_s, packReg_s3, packReg_sLow, ext, noExt, bind, Except.bind, pure, Except.pure, bits_low, bits_high, bits_all, bit_low, bit_high, bit_ofBool, Nat.reduceSub]
  simp [-BitVec.getLsbD_eq_getElem, Hdr.of_oneWord, *]

theorem Laws.RoundTrip.por (h d a b) : Laws.RoundTrip.Statement (.por h d a b) := Laws.roundTrip_one rfl fun w q _ => by
  have w : (h.oneWord) = true := w
  rw [major_decPred]
  simp (disch := omega) only [decPred, packReg_d, packReg_a, packReg_b, packReg_s, packReg_s3, packReg_sLow, ext, noExt, bind, Except.bind, pure, Except.pure, bits_low, bits_high, bits_all, bit_low, bit_high, bit_ofBool, Nat.reduceSub]
  simp [-BitVec.getLsbD_eq_getElem, Hdr.of_oneWord, *]

theorem Laws.RoundTrip.pxor (h d a b) : Laws.RoundTrip.Statement (.pxor h d a b) := Laws.roundTrip_one rfl fun w q _ => by
  have w : (h.oneWord) = true := w
  rw [major_decPred]
  simp (disch := omega) only [decPred, packReg_d, packReg_a, packReg_b, packReg_s, packReg_s3, packReg_sLow, ext, noExt, bind, Except.bind, pure, Except.pure, bits_low, bits_high, bits_all, bit_low, bit_high, bit_ofBool, Nat.reduceSub]
  simp [-BitVec.getLsbD_eq_getElem, Hdr.of_oneWord, *]

theorem Laws.RoundTrip.pandn (h d a b) : Laws.RoundTrip.Statement (.pandn h d a b) := Laws.roundTrip_one rfl fun w q _ => by
  have w : (h.oneWord) = true := w
  rw [major_decPred]
  simp (disch := omega) only [decPred, packReg_d, packReg_a, packReg_b, packReg_s, packReg_s3, packReg_sLow, ext, noExt, bind, Except.bind, pure, Except.pure, bits_low, bits_high, bits_all, bit_low, bit_high, bit_ofBool, Nat.reduceSub]
  simp [-BitVec.getLsbD_eq_getElem, Hdr.of_oneWord, *]

theorem Laws.RoundTrip.pmov (h d a) : Laws.RoundTrip.Statement (.pmov h d a) := Laws.roundTrip_one rfl fun w q _ => by
  have w : (h.oneWord) = true := w
  rw [major_decPred]
  simp (disch := omega) only [decPred, packReg_d, packReg_a, packReg_b, packReg_s, packReg_s3, packReg_sLow, ext, noExt, bind, Except.bind, pure, Except.pure, bits_low, bits_high, bits_all, bit_low, bit_high, bit_ofBool, Nat.reduceSub]
  simp [-BitVec.getLsbD_eq_getElem, Hdr.of_oneWord, *]

theorem Laws.RoundTrip.pset (h w d a) : Laws.RoundTrip.Statement (.pset h w d a) := Laws.roundTrip_one rfl fun w q _ => by
  have w : (h.oneWord) = true := w
  rw [major_decPred]
  simp (disch := omega) only [decPred, packReg_d, packReg_a, packReg_b, packReg_s, packReg_s3, packReg_sLow, ext, noExt, bind, Except.bind, pure, Except.pure, bits_low, bits_high, bits_all, bit_low, bit_high, bit_ofBool, Nat.reduceSub]
  simp [-BitVec.getLsbD_eq_getElem, Hdr.of_oneWord, *]

theorem Laws.RoundTrip.pcnt (h w d a) : Laws.RoundTrip.Statement (.pcnt h w d a) := Laws.roundTrip_one rfl fun w q _ => by
  have w : (h.oneWord) = true := w
  rw [major_decPred]
  simp (disch := omega) only [decPred, packReg_d, packReg_a, packReg_b, packReg_s, packReg_s3, packReg_sLow, ext, noExt, bind, Except.bind, pure, Except.pure, bits_low, bits_high, bits_all, bit_low, bit_high, bit_ofBool, Nat.reduceSub]
  simp [-BitVec.getLsbD_eq_getElem, Hdr.of_oneWord, *]

theorem Laws.RoundTrip.pfirst (h w d a) : Laws.RoundTrip.Statement (.pfirst h w d a) := Laws.roundTrip_one rfl fun w q _ => by
  have w : (h.oneWord) = true := w
  rw [major_decPred]
  simp (disch := omega) only [decPred, packReg_d, packReg_a, packReg_b, packReg_s, packReg_s3, packReg_sLow, ext, noExt, bind, Except.bind, pure, Except.pure, bits_low, bits_high, bits_all, bit_low, bit_high, bit_ofBool, Nat.reduceSub]
  simp [-BitVec.getLsbD_eq_getElem, Hdr.of_oneWord, *]

theorem Laws.RoundTrip.br (h off) : Laws.RoundTrip.Statement (.br h off) := Laws.roundTrip_one rfl fun w q _ => by
  have w : (h.oneWord) = true := w
  rw [major_decFlow]
  simp (disch := omega) only [decFlow, packFlow_s, packFlow_l, ext, noExt, bind, Except.bind, pure, Except.pure, bits_low, bits_high, bits_all, bit_low, bit_high, bit_ofBool, Nat.reduceSub]
  simp [-BitVec.getLsbD_eq_getElem, Hdr.of_oneWord, *]

theorem Laws.RoundTrip.brExt (h off) : Laws.RoundTrip.Statement (.brExt h off) := Laws.roundTrip_two rfl fun _ q _ => by
  rw [major_decFlow]
  simp (disch := omega) only [decFlow, packFlow_s, packFlow_l, ext, noExt, bind, Except.bind, pure, Except.pure, bits_low, bits_high, bits_all, bit_low, bit_high, bit_ofBool, Nat.reduceSub]
  simp [-BitVec.getLsbD_eq_getElem]

theorem Laws.RoundTrip.call (h off) : Laws.RoundTrip.Statement (.call h off) := Laws.roundTrip_one rfl fun w q _ => by
  have w : (h.oneWord) = true := w
  rw [major_decFlow]
  simp (disch := omega) only [decFlow, packFlow_s, packFlow_l, ext, noExt, bind, Except.bind, pure, Except.pure, bits_low, bits_high, bits_all, bit_low, bit_high, bit_ofBool, Nat.reduceSub]
  simp [-BitVec.getLsbD_eq_getElem, Hdr.of_oneWord, *]

theorem Laws.RoundTrip.callExt (h off) : Laws.RoundTrip.Statement (.callExt h off) := Laws.roundTrip_two rfl fun _ q _ => by
  rw [major_decFlow]
  simp (disch := omega) only [decFlow, packFlow_s, packFlow_l, ext, noExt, bind, Except.bind, pure, Except.pure, bits_low, bits_high, bits_all, bit_low, bit_high, bit_ofBool, Nat.reduceSub]
  simp [-BitVec.getLsbD_eq_getElem]

theorem Laws.RoundTrip.brq (h pol off) : Laws.RoundTrip.Statement (.brq h pol off) := Laws.roundTrip_one rfl fun w q _ => by
  have w : (h.oneWord) = true := w
  rw [major_decFlow]
  simp (disch := omega) only [decFlow, packFlow_s, packFlow_l, ext, noExt, bind, Except.bind, pure, Except.pure, bits_low, bits_high, bits_all, bit_low, bit_high, bit_ofBool, Nat.reduceSub]
  simp [-BitVec.getLsbD_eq_getElem, Hdr.of_oneWord, *]

theorem Laws.RoundTrip.brqExt (h pol off) : Laws.RoundTrip.Statement (.brqExt h pol off) := Laws.roundTrip_two rfl fun _ q _ => by
  rw [major_decFlow]
  simp (disch := omega) only [decFlow, packFlow_s, packFlow_l, ext, noExt, bind, Except.bind, pure, Except.pure, bits_low, bits_high, bits_all, bit_low, bit_high, bit_ofBool, Nat.reduceSub]
  simp [-BitVec.getLsbD_eq_getElem]

theorem Laws.RoundTrip.loop (h xc off) : Laws.RoundTrip.Statement (.loop h xc off) := Laws.roundTrip_one rfl fun w q _ => by
  have w : (h.oneWord) = true := w
  rw [major_decFlow]
  simp (disch := omega) only [decFlow, packFlow_s, packFlow_l, ext, noExt, bind, Except.bind, pure, Except.pure, bits_low, bits_high, bits_all, bit_low, bit_high, bit_ofBool, Nat.reduceSub]
  simp [-BitVec.getLsbD_eq_getElem, Hdr.of_oneWord, *]

theorem Laws.RoundTrip.loopExt (h xc off) : Laws.RoundTrip.Statement (.loopExt h xc off) := Laws.roundTrip_two rfl fun _ q _ => by
  rw [major_decFlow]
  simp (disch := omega) only [decFlow, packFlow_s, packFlow_l, ext, noExt, bind, Except.bind, pure, Except.pure, bits_low, bits_high, bits_all, bit_low, bit_high, bit_ofBool, Nat.reduceSub]
  simp [-BitVec.getLsbD_eq_getElem]

theorem Laws.RoundTrip.jr (h xa) : Laws.RoundTrip.Statement (.jr h xa) := Laws.roundTrip_one rfl fun w q _ => by
  have w : (h.oneWord) = true := w
  rw [major_decFlow]
  simp (disch := omega) only [decFlow, packFlow_s, packFlow_l, ext, noExt, bind, Except.bind, pure, Except.pure, bits_low, bits_high, bits_all, bit_low, bit_high, bit_ofBool, Nat.reduceSub]
  simp [-BitVec.getLsbD_eq_getElem, Hdr.of_oneWord, *]

theorem Laws.RoundTrip.ret (h) : Laws.RoundTrip.Statement (.ret h) := Laws.roundTrip_one rfl fun w q _ => by
  have w : (h.oneWord) = true := w
  rw [major_decFlow]
  simp (disch := omega) only [decFlow, packFlow_s, packFlow_l, ext, noExt, bind, Except.bind, pure, Except.pure, bits_low, bits_high, bits_all, bit_low, bit_high, bit_ofBool, Nat.reduceSub]
  simp [-BitVec.getLsbD_eq_getElem, Hdr.of_oneWord, *]

theorem Laws.RoundTrip.nop (h) : Laws.RoundTrip.Statement (.nop h) := Laws.roundTrip_one rfl fun w q _ => by
  have w : (h.oneWord) = true := w
  rw [major_decFlow]
  simp (disch := omega) only [decFlow, packFlow_s, packFlow_l, ext, noExt, bind, Except.bind, pure, Except.pure, bits_low, bits_high, bits_all, bit_low, bit_high, bit_ofBool, Nat.reduceSub]
  simp [-BitVec.getLsbD_eq_getElem, Hdr.of_oneWord, *]

theorem Laws.RoundTrip.pool (h n) : Laws.RoundTrip.Statement (.pool h n) := Laws.roundTrip_one rfl fun w q _ => by
  have w : (h.oneWord && h.g = 15 && !h.gn) = true := w
  simp [-BitVec.getLsbD_eq_getElem] at w
  rw [major_decFlow]
  simp (disch := omega) only [decFlow, packFlow_s, packFlow_l, ext, noExt, bind, Except.bind, pure, Except.pure, bits_low, bits_high, bits_all, bit_low, bit_high, bit_ofBool, Nat.reduceSub]
  have e : (⟨h.t0, h.g, h.gn, Tok.dec (BitVec.ofNat 4 0)⟩ : Hdr) = h := Hdr.of_oneWord h w.1.1
  rw [e]
  simp [-BitVec.getLsbD_eq_getElem, Hdr.of_oneWord, *]

theorem Laws.RoundTrip.tkwB (h n) : Laws.RoundTrip.Statement (.tkwB h n) := Laws.roundTrip_one rfl fun w q _ => by
  have w : (h.oneWord) = true := w
  rw [major_decCouple]
  simp (disch := omega) only [decCouple, packCpl_s, packCpl_r, packCpl_n, ext, noExt, bind, Except.bind, pure, Except.pure, bits_low, bits_high, bits_all, bit_low, bit_high, bit_ofBool, Nat.reduceSub]
  simp [-BitVec.getLsbD_eq_getElem, Hdr.of_oneWord, *]

theorem Laws.RoundTrip.tkwA (h n) : Laws.RoundTrip.Statement (.tkwA h n) := Laws.roundTrip_one rfl fun w q _ => by
  have w : (h.oneWord) = true := w
  rw [major_decCouple]
  simp (disch := omega) only [decCouple, packCpl_s, packCpl_r, packCpl_n, ext, noExt, bind, Except.bind, pure, Except.pure, bits_low, bits_high, bits_all, bit_low, bit_high, bit_ofBool, Nat.reduceSub]
  simp [-BitVec.getLsbD_eq_getElem, Hdr.of_oneWord, *]

theorem Laws.RoundTrip.tksB (h n) : Laws.RoundTrip.Statement (.tksB h n) := Laws.roundTrip_one rfl fun w q _ => by
  have w : (h.oneWord) = true := w
  rw [major_decCouple]
  simp (disch := omega) only [decCouple, packCpl_s, packCpl_r, packCpl_n, ext, noExt, bind, Except.bind, pure, Except.pure, bits_low, bits_high, bits_all, bit_low, bit_high, bit_ofBool, Nat.reduceSub]
  simp [-BitVec.getLsbD_eq_getElem, Hdr.of_oneWord, *]

theorem Laws.RoundTrip.tksA (h n) : Laws.RoundTrip.Statement (.tksA h n) := Laws.roundTrip_one rfl fun w q _ => by
  have w : (h.oneWord) = true := w
  rw [major_decCouple]
  simp (disch := omega) only [decCouple, packCpl_s, packCpl_r, packCpl_n, ext, noExt, bind, Except.bind, pure, Except.pure, bits_low, bits_high, bits_all, bit_low, bit_high, bit_ofBool, Nat.reduceSub]
  simp [-BitVec.getLsbD_eq_getElem, Hdr.of_oneWord, *]

theorem Laws.RoundTrip.qpush (h xa) : Laws.RoundTrip.Statement (.qpush h xa) := Laws.roundTrip_one rfl fun w q _ => by
  have w : (h.oneWord) = true := w
  rw [major_decCouple]
  simp (disch := omega) only [decCouple, packCpl_s, packCpl_r, packCpl_n, ext, noExt, bind, Except.bind, pure, Except.pure, bits_low, bits_high, bits_all, bit_low, bit_high, bit_ofBool, Nat.reduceSub]
  simp [-BitVec.getLsbD_eq_getElem, Hdr.of_oneWord, *]

theorem Laws.RoundTrip.qpop (h xd) : Laws.RoundTrip.Statement (.qpop h xd) := Laws.roundTrip_one rfl fun w q _ => by
  have w : (h.oneWord) = true := w
  rw [major_decCouple]
  simp (disch := omega) only [decCouple, packCpl_s, packCpl_r, packCpl_n, ext, noExt, bind, Except.bind, pure, Except.pure, bits_low, bits_high, bits_all, bit_low, bit_high, bit_ofBool, Nat.reduceSub]
  simp [-BitVec.getLsbD_eq_getElem, Hdr.of_oneWord, *]

theorem Laws.RoundTrip.kwait (h k n) : Laws.RoundTrip.Statement (.kwait h k n) := Laws.roundTrip_one rfl fun w q _ => by
  have w : (h.oneWord) = true := w
  rw [major_decCouple]
  simp (disch := omega) only [decCouple, packCpl_s, packCpl_r, packCpl_n, ext, noExt, bind, Except.bind, pure, Except.pure, bits_low, bits_high, bits_all, bit_low, bit_high, bit_ofBool, Nat.reduceSub]
  simp [-BitVec.getLsbD_eq_getElem, Hdr.of_oneWord, *]

theorem Laws.RoundTrip.rnext (h xd pa j) : Laws.RoundTrip.Statement (.rnext h xd pa j) := Laws.roundTrip_one rfl fun w q _ => by
  have w : (h.oneWord) = true := w
  rw [major_decWork]
  simp (disch := omega) only [decWork, packReg_d, packReg_a, packReg_b, packReg_s, packReg_s3, packReg_sLow, ext, noExt, bind, Except.bind, pure, Except.pure, bits_low, bits_high, bits_all, bit_low, bit_high, bit_ofBool, Nat.reduceSub]
  simp [-BitVec.getLsbD_eq_getElem, Hdr.of_oneWord, *]

theorem Laws.RoundTrip.lvlBase (h xd j) : Laws.RoundTrip.Statement (.lvlBase h xd j) := Laws.roundTrip_one rfl fun w q _ => by
  have w : (h.oneWord) = true := w
  rw [major_decWork]
  simp (disch := omega) only [decWork, packReg_d, packReg_a, packReg_b, packReg_s, packReg_s3, packReg_sLow, ext, noExt, bind, Except.bind, pure, Except.pure, bits_low, bits_high, bits_all, bit_low, bit_high, bit_ofBool, Nat.reduceSub]
  simp [-BitVec.getLsbD_eq_getElem, Hdr.of_oneWord, *]

theorem Laws.RoundTrip.lvlLimit (h xd j) : Laws.RoundTrip.Statement (.lvlLimit h xd j) := Laws.roundTrip_one rfl fun w q _ => by
  have w : (h.oneWord) = true := w
  rw [major_decWork]
  simp (disch := omega) only [decWork, packReg_d, packReg_a, packReg_b, packReg_s, packReg_s3, packReg_sLow, ext, noExt, bind, Except.bind, pure, Except.pure, bits_low, bits_high, bits_all, bit_low, bit_high, bit_ofBool, Nat.reduceSub]
  simp [-BitVec.getLsbD_eq_getElem, Hdr.of_oneWord, *]

theorem Laws.RoundTrip.lvlTrip (h xd j) : Laws.RoundTrip.Statement (.lvlTrip h xd j) := Laws.roundTrip_one rfl fun w q _ => by
  have w : (h.oneWord) = true := w
  rw [major_decWork]
  simp (disch := omega) only [decWork, packReg_d, packReg_a, packReg_b, packReg_s, packReg_s3, packReg_sLow, ext, noExt, bind, Except.bind, pure, Except.pure, bits_low, bits_high, bits_all, bit_low, bit_high, bit_ofBool, Nat.reduceSub]
  simp [-BitVec.getLsbD_eq_getElem, Hdr.of_oneWord, *]

theorem Laws.RoundTrip.lvlCoord (h xd j) : Laws.RoundTrip.Statement (.lvlCoord h xd j) := Laws.roundTrip_one rfl fun w q _ => by
  have w : (h.oneWord) = true := w
  rw [major_decWork]
  simp (disch := omega) only [decWork, packReg_d, packReg_a, packReg_b, packReg_s, packReg_s3, packReg_sLow, ext, noExt, bind, Except.bind, pure, Except.pure, bits_low, bits_high, bits_all, bit_low, bit_high, bit_ofBool, Nat.reduceSub]
  simp [-BitVec.getLsbD_eq_getElem, Hdr.of_oneWord, *]

theorem Laws.RoundTrip.ldlW (h xd off) : Laws.RoundTrip.Statement (.ldlW h xd off) := Laws.roundTrip_one rfl fun w q _ => by
  have w : (h.oneWord) = true := w
  rw [major_decLdl]
  simp (disch := omega) only [decLdl, packImm_d, packImm_v, packImm_v11, packImm_vLow, ext, noExt, bind, Except.bind, pure, Except.pure, bits_low, bits_high, bits_all, bit_low, bit_high, bit_ofBool, Nat.reduceSub]
  simp [-BitVec.getLsbD_eq_getElem, Hdr.of_oneWord, *]

theorem Laws.RoundTrip.ldlWExt (h xd off) : Laws.RoundTrip.Statement (.ldlWExt h xd off) := Laws.roundTrip_two rfl fun _ q _ => by
  rw [major_decLdl]
  simp (disch := omega) only [decLdl, packImm_d, packImm_v, packImm_v11, packImm_vLow, ext, noExt, bind, Except.bind, pure, Except.pure, bits_low, bits_high, bits_all, bit_low, bit_high, bit_ofBool, Nat.reduceSub]
  simp [-BitVec.getLsbD_eq_getElem]

theorem Laws.RoundTrip.ldlD (h xd off) : Laws.RoundTrip.Statement (.ldlD h xd off) := Laws.roundTrip_one rfl fun w q _ => by
  have w : (h.oneWord) = true := w
  rw [major_decLdl]
  simp (disch := omega) only [decLdl, packImm_d, packImm_v, packImm_v11, packImm_vLow, ext, noExt, bind, Except.bind, pure, Except.pure, bits_low, bits_high, bits_all, bit_low, bit_high, bit_ofBool, Nat.reduceSub]
  simp [-BitVec.getLsbD_eq_getElem, Hdr.of_oneWord, *]

theorem Laws.RoundTrip.ldlDExt (h xd off) : Laws.RoundTrip.Statement (.ldlDExt h xd off) := Laws.roundTrip_two rfl fun _ q _ => by
  rw [major_decLdl]
  simp (disch := omega) only [decLdl, packImm_d, packImm_v, packImm_v11, packImm_vLow, ext, noExt, bind, Except.bind, pure, Except.pure, bits_low, bits_high, bits_all, bit_low, bit_high, bit_ofBool, Nat.reduceSub]
  simp [-BitVec.getLsbD_eq_getElem]

theorem Laws.RoundTrip.ld (h xd a sz fe k) : Laws.RoundTrip.Statement (.ld h xd a sz fe k) := Laws.roundTrip_one rfl fun w q _ => by
  have w : (h.oneWord) = true := w
  rw [major_decLd]
  simp (disch := omega) only [decLd, packMem_xr, packMem_a, packMem_sz, packMem_fe, packMem_k, packMem_kv, ext, noExt, bind, Except.bind, pure, Except.pure, bits_low, bits_high, bits_all, bit_low, bit_high, bit_ofBool, Nat.reduceSub]
  simp [-BitVec.getLsbD_eq_getElem, Hdr.of_oneWord, *]

theorem Laws.RoundTrip.ldOffset (h xd a sz fe k off) : Laws.RoundTrip.Statement (.ldOffset h xd a sz fe k off) := Laws.roundTrip_two rfl fun _ q _ => by
  rw [major_decLd]
  simp (disch := omega) only [decLd, packMem_xr, packMem_a, packMem_sz, packMem_fe, packMem_k, packMem_kv, ext, noExt, bind, Except.bind, pure, Except.pure, bits_low, bits_high, bits_all, bit_low, bit_high, bit_ofBool, Nat.reduceSub]
  simp [-BitVec.getLsbD_eq_getElem]

theorem Laws.RoundTrip.st (h xs a sz k) : Laws.RoundTrip.Statement (.st h xs a sz k) := Laws.roundTrip_one rfl fun w q _ => by
  have w : (h.oneWord) = true := w
  rw [major_decSt]
  simp (disch := omega) only [decSt, packMem_xr, packMem_a, packMem_sz, packMem_fe, packMem_k, packMem_kv, ext, noExt, bind, Except.bind, pure, Except.pure, bits_low, bits_high, bits_all, bit_low, bit_high, bit_ofBool, Nat.reduceSub]
  simp [-BitVec.getLsbD_eq_getElem, Hdr.of_oneWord, *]

theorem Laws.RoundTrip.stOffset (h xs a sz k off) : Laws.RoundTrip.Statement (.stOffset h xs a sz k off) := Laws.roundTrip_two rfl fun _ q _ => by
  rw [major_decSt]
  simp (disch := omega) only [decSt, packMem_xr, packMem_a, packMem_sz, packMem_fe, packMem_k, packMem_kv, ext, noExt, bind, Except.bind, pure, Except.pure, bits_low, bits_high, bits_all, bit_low, bit_high, bit_ofBool, Nat.reduceSub]
  simp [-BitVec.getLsbD_eq_getElem]

theorem Laws.RoundTrip.dqpush (h et pr tag vals n) : Laws.RoundTrip.Statement (.dqpush h et pr tag vals n) := Laws.roundTrip_two rfl fun w q _ => by
  have w : (wfReelType et && n.toNat ≤ 4 && wfReelValues vals n) = true := w
  simp [-BitVec.getLsbD_eq_getElem] at w
  rw [major_decReel]
  simp (disch := omega) only [decReel, cutTile, packTile_tb, packTile_et, packTile_sat, packTileE_td, packTileE_ta, packTileE_sub, packTileE_md, packTileE_taHigh, packTileE_taFlag, packTileE_taLow, ext, noExt, bind, Except.bind, pure, Except.pure, bits_low, bits_high, bits_all, bit_low, bit_high, bit_ofBool, Nat.reduceSub]
  simp [-BitVec.getLsbD_eq_getElem, TileOp.decD_enc, TileOp.decNoB, satOk_wf, redOk_wf, isFp_eq, reelEt_wf, reelVals_wf, sfcOk_wf, *]

theorem Laws.RoundTrip.dqdrain (h et t row force pm n) : Laws.RoundTrip.Statement (.dqdrain h et t row force pm n) := Laws.roundTrip_two rfl fun w q _ => by
  have w : (wfReelType et && n.toNat ≤ 4 && row.toNat + n.toNat ≤ 15) = true := w
  simp [-BitVec.getLsbD_eq_getElem] at w
  rw [major_decReel]
  simp (disch := omega) only [decReel, cutTile, packTile_tb, packTile_et, packTile_sat, packTileE_td, packTileE_ta, packTileE_sub, packTileE_md, packTileE_taHigh, packTileE_taFlag, packTileE_taLow, ext, noExt, bind, Except.bind, pure, Except.pure, bits_low, bits_high, bits_all, bit_low, bit_high, bit_ofBool, Nat.reduceSub]
  simp [-BitVec.getLsbD_eq_getElem, TileOp.decD_enc, TileOp.decNoB, satOk_wf, redOk_wf, isFp_eq, reelEt_wf, reelVals_wf, sfcOk_wf, *]

theorem Laws.RoundTrip.dqcnt (h xd) : Laws.RoundTrip.Statement (.dqcnt h xd) := Laws.roundTrip_two rfl fun _ q _ => by
  rw [major_decReel]
  simp (disch := omega) only [decReel, cutTile, packTile_tb, packTile_et, packTile_sat, packTileE_td, packTileE_ta, packTileE_sub, packTileE_md, packTileE_taHigh, packTileE_taFlag, packTileE_taLow, ext, noExt, bind, Except.bind, pure, Except.pure, bits_low, bits_high, bits_all, bit_low, bit_high, bit_ofBool, Nat.reduceSub]
  simp [-BitVec.getLsbD_eq_getElem, TileOp.decD_enc, TileOp.decNoB, satOk_wf, redOk_wf, isFp_eq, reelEt_wf, reelVals_wf, sfcOk_wf]

theorem Laws.RoundTrip.ldt (h t row nr a off fe k) : Laws.RoundTrip.Statement (.ldt h t row nr a off fe k) := Laws.roundTrip_two rfl fun w q _ => by
  have w : (decide (row.toNat + nr.toNat ≤ 15)) = true := w
  simp [-BitVec.getLsbD_eq_getElem] at w
  rw [major_decTmem]
  simp (disch := omega) only [decTmem, packTmem_t, packTmem_row, packTmem_nr, packTmem_a, packTmemE_off, packTmemE_fe, packTmemE_dir, packTmemE_rsv, packTmemE_k, packTmemE_kv, ext, noExt, bind, Except.bind, pure, Except.pure, bits_low, bits_high, bits_all, bit_low, bit_high, bit_ofBool, Nat.reduceSub]
  simp [-BitVec.getLsbD_eq_getElem, *]

theorem Laws.RoundTrip.stt (h t row nr a off k) : Laws.RoundTrip.Statement (.stt h t row nr a off k) := Laws.roundTrip_two rfl fun w q _ => by
  have w : (decide (row.toNat + nr.toNat ≤ 15)) = true := w
  simp [-BitVec.getLsbD_eq_getElem] at w
  rw [major_decTmem]
  simp (disch := omega) only [decTmem, packTmem_t, packTmem_row, packTmem_nr, packTmem_a, packTmemE_off, packTmemE_fe, packTmemE_dir, packTmemE_rsv, packTmemE_k, packTmemE_kv, ext, noExt, bind, Except.bind, pure, Except.pure, bits_low, bits_high, bits_all, bit_low, bit_high, bit_ofBool, Nat.reduceSub]
  simp [-BitVec.getLsbD_eq_getElem, *]

theorem Laws.RoundTrip.copy (h a b c acq rel k cnt fill) : Laws.RoundTrip.Statement (.copy h a b c acq rel k cnt fill) := Laws.roundTrip_two rfl fun _ q _ => by
  rw [major_decXfer]
  simp (disch := omega) only [decXfer, cutCmd, packReg_d, packReg_a, packReg_b, packReg_s, packCmdE_acq, packCmdE_rel, packCmdE_k, packCmdE_kv, packCmdE_cf, xferCf, Cmd.bare, ext, noExt, bind, Except.bind, pure, Except.pure, bits_low, bits_high, bits_all, bit_low, bit_high, bit_ofBool, Nat.reduceSub]
  simp [-BitVec.getLsbD_eq_getElem]

theorem Laws.RoundTrip.gath (h a b c esz acq rel k cnt fill) : Laws.RoundTrip.Statement (.gath h a b c esz acq rel k cnt fill) := Laws.roundTrip_two rfl fun w q _ => by
  have w : (decide (esz.toNat ≤ 12)) = true := w
  simp [-BitVec.getLsbD_eq_getElem] at w
  rw [major_decXfer]
  simp (disch := omega) only [decXfer, cutCmd, packReg_d, packReg_a, packReg_b, packReg_s, packCmdE_acq, packCmdE_rel, packCmdE_k, packCmdE_kv, packCmdE_cf, xferCf, Cmd.bare, ext, noExt, bind, Except.bind, pure, Except.pure, bits_low, bits_high, bits_all, bit_low, bit_high, bit_ofBool, Nat.reduceSub]
  simp [-BitVec.getLsbD_eq_getElem, *]

theorem Laws.RoundTrip.scat (h a b c esz acq rel k cnt fill) : Laws.RoundTrip.Statement (.scat h a b c esz acq rel k cnt fill) := Laws.roundTrip_two rfl fun w q _ => by
  have w : (decide (esz.toNat ≤ 12)) = true := w
  simp [-BitVec.getLsbD_eq_getElem] at w
  rw [major_decXfer]
  simp (disch := omega) only [decXfer, cutCmd, packReg_d, packReg_a, packReg_b, packReg_s, packCmdE_acq, packCmdE_rel, packCmdE_k, packCmdE_kv, packCmdE_cf, xferCf, Cmd.bare, ext, noExt, bind, Except.bind, pure, Except.pure, bits_low, bits_high, bits_all, bit_low, bit_high, bit_ofBool, Nat.reduceSub]
  simp [-BitVec.getLsbD_eq_getElem, *]

theorem Laws.RoundTrip.pref (h a c k) : Laws.RoundTrip.Statement (.pref h a c k) := Laws.roundTrip_two rfl fun _ q _ => by
  rw [major_decXfer]
  simp (disch := omega) only [decXfer, cutCmd, packReg_d, packReg_a, packReg_b, packReg_s, packCmdE_acq, packCmdE_rel, packCmdE_k, packCmdE_kv, packCmdE_cf, xferCf, Cmd.bare, ext, noExt, bind, Except.bind, pure, Except.pure, bits_low, bits_high, bits_all, bit_low, bit_high, bit_ofBool, Nat.reduceSub]
  simp [-BitVec.getLsbD_eq_getElem]

theorem Laws.RoundTrip.invr (h a c k) : Laws.RoundTrip.Statement (.invr h a c k) := Laws.roundTrip_two rfl fun _ q _ => by
  rw [major_decXfer]
  simp (disch := omega) only [decXfer, cutCmd, packReg_d, packReg_a, packReg_b, packReg_s, packCmdE_acq, packCmdE_rel, packCmdE_k, packCmdE_kv, packCmdE_cf, xferCf, Cmd.bare, ext, noExt, bind, Except.bind, pure, Except.pure, bits_low, bits_high, bits_all, bit_low, bit_high, bit_ofBool, Nat.reduceSub]
  simp [-BitVec.getLsbD_eq_getElem]

theorem Laws.RoundTrip.sppin (h pc xa xb) : Laws.RoundTrip.Statement (.sppin h pc xa xb) := Laws.roundTrip_two rfl fun _ q _ => by
  rw [major_decLmctl]
  simp (disch := omega) only [decLmctl, cutCmd, packReg_d, packReg_a, packReg_b, packReg_s, packCmdE_acq, packCmdE_rel, packCmdE_k, packCmdE_kv, packCmdE_cf, Cmd.bare, ext, noExt, bind, Except.bind, pure, Except.pure, bits_low, bits_high, bits_all, bit_low, bit_high, bit_ofBool, Nat.reduceSub]
  simp [-BitVec.getLsbD_eq_getElem]

theorem Laws.RoundTrip.spunp (h xa xb) : Laws.RoundTrip.Statement (.spunp h xa xb) := Laws.roundTrip_two rfl fun _ q _ => by
  rw [major_decLmctl]
  simp (disch := omega) only [decLmctl, cutCmd, packReg_d, packReg_a, packReg_b, packReg_s, packCmdE_acq, packCmdE_rel, packCmdE_k, packCmdE_kv, packCmdE_cf, Cmd.bare, ext, noExt, bind, Except.bind, pure, Except.pure, bits_low, bits_high, bits_all, bit_low, bit_high, bit_ofBool, Nat.reduceSub]
  simp [-BitVec.getLsbD_eq_getElem]

theorem Laws.RoundTrip.feclr (h xa xb) : Laws.RoundTrip.Statement (.feclr h xa xb) := Laws.roundTrip_two rfl fun _ q _ => by
  rw [major_decLmctl]
  simp (disch := omega) only [decLmctl, cutCmd, packReg_d, packReg_a, packReg_b, packReg_s, packCmdE_acq, packCmdE_rel, packCmdE_k, packCmdE_kv, packCmdE_cf, Cmd.bare, ext, noExt, bind, Except.bind, pure, Except.pure, bits_low, bits_high, bits_all, bit_low, bit_high, bit_ofBool, Nat.reduceSub]
  simp [-BitVec.getLsbD_eq_getElem]

theorem Laws.RoundTrip.feset (h xa xb) : Laws.RoundTrip.Statement (.feset h xa xb) := Laws.roundTrip_two rfl fun _ q _ => by
  rw [major_decLmctl]
  simp (disch := omega) only [decLmctl, cutCmd, packReg_d, packReg_a, packReg_b, packReg_s, packCmdE_acq, packCmdE_rel, packCmdE_k, packCmdE_kv, packCmdE_cf, Cmd.bare, ext, noExt, bind, Except.bind, pure, Except.pure, bits_low, bits_high, bits_all, bit_low, bit_high, bit_ofBool, Nat.reduceSub]
  simp [-BitVec.getLsbD_eq_getElem]

theorem Laws.RoundTrip.racq (h b a) : Laws.RoundTrip.Statement (.racq h b a) := Laws.roundTrip_one rfl fun w q _ => by
  have w : (h.oneWord) = true := w
  rw [major_decRing]
  simp (disch := omega) only [decRing, packRing_s, packRing_b, packRing_a, packRing_n, ext, noExt, bind, Except.bind, pure, Except.pure, bits_low, bits_high, bits_all, bit_low, bit_high, bit_ofBool, Nat.reduceSub]
  simp [-BitVec.getLsbD_eq_getElem, Hdr.of_oneWord, *]

theorem Laws.RoundTrip.rrel (h b) : Laws.RoundTrip.Statement (.rrel h b) := Laws.roundTrip_one rfl fun w q _ => by
  have w : (h.oneWord) = true := w
  rw [major_decRing]
  simp (disch := omega) only [decRing, packRing_s, packRing_b, packRing_a, packRing_n, ext, noExt, bind, Except.bind, pure, Except.pure, bits_low, bits_high, bits_all, bit_low, bit_high, bit_ofBool, Nat.reduceSub]
  simp [-BitVec.getLsbD_eq_getElem, Hdr.of_oneWord, *]

theorem Laws.RoundTrip.rwait (h b a n) : Laws.RoundTrip.Statement (.rwait h b a n) := Laws.roundTrip_one rfl fun w q _ => by
  have w : (h.oneWord) = true := w
  rw [major_decRing]
  simp (disch := omega) only [decRing, packRing_s, packRing_b, packRing_a, packRing_n, ext, noExt, bind, Except.bind, pure, Except.pure, bits_low, bits_high, bits_all, bit_low, bit_high, bit_ofBool, Nat.reduceSub]
  simp [-BitVec.getLsbD_eq_getElem, Hdr.of_oneWord, *]

theorem Laws.RoundTrip.radv (h b n) : Laws.RoundTrip.Statement (.radv h b n) := Laws.roundTrip_one rfl fun w q _ => by
  have w : (h.oneWord) = true := w
  rw [major_decRing]
  simp (disch := omega) only [decRing, packRing_s, packRing_b, packRing_a, packRing_n, ext, noExt, bind, Except.bind, pure, Except.pure, bits_low, bits_high, bits_all, bit_low, bit_high, bit_ofBool, Nat.reduceSub]
  simp [-BitVec.getLsbD_eq_getElem, Hdr.of_oneWord, *]

theorem Laws.RoundTrip.rcfg (h b base lines slots) : Laws.RoundTrip.Statement (.rcfg h b base lines slots) := Laws.roundTrip_two rfl fun _ q _ => by
  rw [major_decRing]
  simp (disch := omega) only [decRing, packRing_s, packRing_b, packRing_a, packRing_n, ext, noExt, bind, Except.bind, pure, Except.pure, bits_low, bits_high, bits_all, bit_low, bit_high, bit_ofBool, Nat.reduceSub]
  simp [-BitVec.getLsbD_eq_getElem]

theorem Laws.RoundTrip.amoAdd (h dword a b c acq rel k off) : Laws.RoundTrip.Statement (.amoAdd h dword a b c acq rel k off) := Laws.roundTrip_two rfl fun _ q _ => by
  rw [major_decAmo]
  simp (disch := omega) only [decAmo, cutCmd, packReg_d, packReg_a, packReg_b, packReg_s, packCmdE_acq, packCmdE_rel, packCmdE_k, packCmdE_kv, packCmdE_cf, ext, noExt, bind, Except.bind, pure, Except.pure, bits_low, bits_high, bits_all, bit_low, bit_high, bit_ofBool, Nat.reduceSub]
  simp [-BitVec.getLsbD_eq_getElem]

theorem Laws.RoundTrip.amoMin (h dword a b c acq rel k off) : Laws.RoundTrip.Statement (.amoMin h dword a b c acq rel k off) := Laws.roundTrip_two rfl fun _ q _ => by
  rw [major_decAmo]
  simp (disch := omega) only [decAmo, cutCmd, packReg_d, packReg_a, packReg_b, packReg_s, packCmdE_acq, packCmdE_rel, packCmdE_k, packCmdE_kv, packCmdE_cf, ext, noExt, bind, Except.bind, pure, Except.pure, bits_low, bits_high, bits_all, bit_low, bit_high, bit_ofBool, Nat.reduceSub]
  simp [-BitVec.getLsbD_eq_getElem]

theorem Laws.RoundTrip.amoMax (h dword a b c acq rel k off) : Laws.RoundTrip.Statement (.amoMax h dword a b c acq rel k off) := Laws.roundTrip_two rfl fun _ q _ => by
  rw [major_decAmo]
  simp (disch := omega) only [decAmo, cutCmd, packReg_d, packReg_a, packReg_b, packReg_s, packCmdE_acq, packCmdE_rel, packCmdE_k, packCmdE_kv, packCmdE_cf, ext, noExt, bind, Except.bind, pure, Except.pure, bits_low, bits_high, bits_all, bit_low, bit_high, bit_ofBool, Nat.reduceSub]
  simp [-BitVec.getLsbD_eq_getElem]

theorem Laws.RoundTrip.amoAnd (h dword a b c acq rel k off) : Laws.RoundTrip.Statement (.amoAnd h dword a b c acq rel k off) := Laws.roundTrip_two rfl fun _ q _ => by
  rw [major_decAmo]
  simp (disch := omega) only [decAmo, cutCmd, packReg_d, packReg_a, packReg_b, packReg_s, packCmdE_acq, packCmdE_rel, packCmdE_k, packCmdE_kv, packCmdE_cf, ext, noExt, bind, Except.bind, pure, Except.pure, bits_low, bits_high, bits_all, bit_low, bit_high, bit_ofBool, Nat.reduceSub]
  simp [-BitVec.getLsbD_eq_getElem]

theorem Laws.RoundTrip.amoOr (h dword a b c acq rel k off) : Laws.RoundTrip.Statement (.amoOr h dword a b c acq rel k off) := Laws.roundTrip_two rfl fun _ q _ => by
  rw [major_decAmo]
  simp (disch := omega) only [decAmo, cutCmd, packReg_d, packReg_a, packReg_b, packReg_s, packCmdE_acq, packCmdE_rel, packCmdE_k, packCmdE_kv, packCmdE_cf, ext, noExt, bind, Except.bind, pure, Except.pure, bits_low, bits_high, bits_all, bit_low, bit_high, bit_ofBool, Nat.reduceSub]
  simp [-BitVec.getLsbD_eq_getElem]

theorem Laws.RoundTrip.amoXor (h dword a b c acq rel k off) : Laws.RoundTrip.Statement (.amoXor h dword a b c acq rel k off) := Laws.roundTrip_two rfl fun _ q _ => by
  rw [major_decAmo]
  simp (disch := omega) only [decAmo, cutCmd, packReg_d, packReg_a, packReg_b, packReg_s, packCmdE_acq, packCmdE_rel, packCmdE_k, packCmdE_kv, packCmdE_cf, ext, noExt, bind, Except.bind, pure, Except.pure, bits_low, bits_high, bits_all, bit_low, bit_high, bit_ofBool, Nat.reduceSub]
  simp [-BitVec.getLsbD_eq_getElem]

theorem Laws.RoundTrip.amoXchg (h dword a b c acq rel k off) : Laws.RoundTrip.Statement (.amoXchg h dword a b c acq rel k off) := Laws.roundTrip_two rfl fun _ q _ => by
  rw [major_decAmo]
  simp (disch := omega) only [decAmo, cutCmd, packReg_d, packReg_a, packReg_b, packReg_s, packCmdE_acq, packCmdE_rel, packCmdE_k, packCmdE_kv, packCmdE_cf, ext, noExt, bind, Except.bind, pure, Except.pure, bits_low, bits_high, bits_all, bit_low, bit_high, bit_ofBool, Nat.reduceSub]
  simp [-BitVec.getLsbD_eq_getElem]

theorem Laws.RoundTrip.amoCas (h dword a b c acq rel k off) : Laws.RoundTrip.Statement (.amoCas h dword a b c acq rel k off) := Laws.roundTrip_two rfl fun _ q _ => by
  rw [major_decAmo]
  simp (disch := omega) only [decAmo, cutCmd, packReg_d, packReg_a, packReg_b, packReg_s, packCmdE_acq, packCmdE_rel, packCmdE_k, packCmdE_kv, packCmdE_cf, ext, noExt, bind, Except.bind, pure, Except.pure, bits_low, bits_high, bits_all, bit_low, bit_high, bit_ofBool, Nat.reduceSub]
  simp [-BitVec.getLsbD_eq_getElem]

theorem Laws.RoundTrip.vamoAdd (h dword a acq rel k tv rv ti ri) : Laws.RoundTrip.Statement (.vamoAdd h dword a acq rel k tv rv ti ri) := Laws.roundTrip_two rfl fun _ q _ => by
  rw [major_decVamo]
  simp (disch := omega) only [decVamo, cutCmd, packReg_d, packReg_a, packReg_b, packReg_s, packCmdE_acq, packCmdE_rel, packCmdE_k, packCmdE_kv, packCmdE_cf, vamoCf_tv, vamoCf_rv, vamoCf_ti, vamoCf_ri, ext, noExt, bind, Except.bind, pure, Except.pure, bits_low, bits_high, bits_all, bit_low, bit_high, bit_ofBool, Nat.reduceSub]
  simp [-BitVec.getLsbD_eq_getElem]

theorem Laws.RoundTrip.vamoMin (h dword a acq rel k tv rv ti ri) : Laws.RoundTrip.Statement (.vamoMin h dword a acq rel k tv rv ti ri) := Laws.roundTrip_two rfl fun _ q _ => by
  rw [major_decVamo]
  simp (disch := omega) only [decVamo, cutCmd, packReg_d, packReg_a, packReg_b, packReg_s, packCmdE_acq, packCmdE_rel, packCmdE_k, packCmdE_kv, packCmdE_cf, vamoCf_tv, vamoCf_rv, vamoCf_ti, vamoCf_ri, ext, noExt, bind, Except.bind, pure, Except.pure, bits_low, bits_high, bits_all, bit_low, bit_high, bit_ofBool, Nat.reduceSub]
  simp [-BitVec.getLsbD_eq_getElem]

theorem Laws.RoundTrip.vamoMax (h dword a acq rel k tv rv ti ri) : Laws.RoundTrip.Statement (.vamoMax h dword a acq rel k tv rv ti ri) := Laws.roundTrip_two rfl fun _ q _ => by
  rw [major_decVamo]
  simp (disch := omega) only [decVamo, cutCmd, packReg_d, packReg_a, packReg_b, packReg_s, packCmdE_acq, packCmdE_rel, packCmdE_k, packCmdE_kv, packCmdE_cf, vamoCf_tv, vamoCf_rv, vamoCf_ti, vamoCf_ri, ext, noExt, bind, Except.bind, pure, Except.pure, bits_low, bits_high, bits_all, bit_low, bit_high, bit_ofBool, Nat.reduceSub]
  simp [-BitVec.getLsbD_eq_getElem]

theorem Laws.RoundTrip.vamoAnd (h dword a acq rel k tv rv ti ri) : Laws.RoundTrip.Statement (.vamoAnd h dword a acq rel k tv rv ti ri) := Laws.roundTrip_two rfl fun _ q _ => by
  rw [major_decVamo]
  simp (disch := omega) only [decVamo, cutCmd, packReg_d, packReg_a, packReg_b, packReg_s, packCmdE_acq, packCmdE_rel, packCmdE_k, packCmdE_kv, packCmdE_cf, vamoCf_tv, vamoCf_rv, vamoCf_ti, vamoCf_ri, ext, noExt, bind, Except.bind, pure, Except.pure, bits_low, bits_high, bits_all, bit_low, bit_high, bit_ofBool, Nat.reduceSub]
  simp [-BitVec.getLsbD_eq_getElem]

theorem Laws.RoundTrip.vamoOr (h dword a acq rel k tv rv ti ri) : Laws.RoundTrip.Statement (.vamoOr h dword a acq rel k tv rv ti ri) := Laws.roundTrip_two rfl fun _ q _ => by
  rw [major_decVamo]
  simp (disch := omega) only [decVamo, cutCmd, packReg_d, packReg_a, packReg_b, packReg_s, packCmdE_acq, packCmdE_rel, packCmdE_k, packCmdE_kv, packCmdE_cf, vamoCf_tv, vamoCf_rv, vamoCf_ti, vamoCf_ri, ext, noExt, bind, Except.bind, pure, Except.pure, bits_low, bits_high, bits_all, bit_low, bit_high, bit_ofBool, Nat.reduceSub]
  simp [-BitVec.getLsbD_eq_getElem]

theorem Laws.RoundTrip.vamoXor (h dword a acq rel k tv rv ti ri) : Laws.RoundTrip.Statement (.vamoXor h dword a acq rel k tv rv ti ri) := Laws.roundTrip_two rfl fun _ q _ => by
  rw [major_decVamo]
  simp (disch := omega) only [decVamo, cutCmd, packReg_d, packReg_a, packReg_b, packReg_s, packCmdE_acq, packCmdE_rel, packCmdE_k, packCmdE_kv, packCmdE_cf, vamoCf_tv, vamoCf_rv, vamoCf_ti, vamoCf_ri, ext, noExt, bind, Except.bind, pure, Except.pure, bits_low, bits_high, bits_all, bit_low, bit_high, bit_ofBool, Nat.reduceSub]
  simp [-BitVec.getLsbD_eq_getElem]

theorem Laws.RoundTrip.vamoXchg (h dword a acq rel k tv rv ti ri) : Laws.RoundTrip.Statement (.vamoXchg h dword a acq rel k tv rv ti ri) := Laws.roundTrip_two rfl fun _ q _ => by
  rw [major_decVamo]
  simp (disch := omega) only [decVamo, cutCmd, packReg_d, packReg_a, packReg_b, packReg_s, packCmdE_acq, packCmdE_rel, packCmdE_k, packCmdE_kv, packCmdE_cf, vamoCf_tv, vamoCf_rv, vamoCf_ti, vamoCf_ri, ext, noExt, bind, Except.bind, pure, Except.pure, bits_low, bits_high, bits_all, bit_low, bit_high, bit_ofBool, Nat.reduceSub]
  simp [-BitVec.getLsbD_eq_getElem]

theorem Laws.RoundTrip.vamoCas (h dword a acq rel k tv rv ti ri) : Laws.RoundTrip.Statement (.vamoCas h dword a acq rel k tv rv ti ri) := Laws.roundTrip_two rfl fun w q _ => by
  have w : (decide (rv.toNat ≠ 15)) = true := w
  simp [-BitVec.getLsbD_eq_getElem] at w
  rw [major_decVamo]
  simp (disch := omega) only [decVamo, cutCmd, packReg_d, packReg_a, packReg_b, packReg_s, packCmdE_acq, packCmdE_rel, packCmdE_k, packCmdE_kv, packCmdE_cf, vamoCf_tv, vamoCf_rv, vamoCf_ti, vamoCf_ri, ext, noExt, bind, Except.bind, pure, Except.pure, bits_low, bits_high, bits_all, bit_low, bit_high, bit_ofBool, Nat.reduceSub]
  simp [-BitVec.getLsbD_eq_getElem, *]
  exact fun e => w (by rw [e]; rfl)

theorem Laws.RoundTrip.fence (h sc k cv) : Laws.RoundTrip.Statement (.fence h sc k cv) := Laws.roundTrip_one rfl fun w q _ => by
  have w : (h.oneWord) = true := w
  rw [major_decSync]
  simp (disch := omega) only [decSync, packSync_s, packSync_sc, packSync_k, packSync_cv, packSync_xa, ext, noExt, bind, Except.bind, pure, Except.pure, bits_low, bits_high, bits_all, bit_low, bit_high, bit_ofBool, Nat.reduceSub]
  simp [-BitVec.getLsbD_eq_getElem, Hdr.of_oneWord, *]

theorem Laws.RoundTrip.fwait (h) : Laws.RoundTrip.Statement (.fwait h) := Laws.roundTrip_one rfl fun w _ _ => by
  have w : h.oneWord = true := w
  have key : ∀ (s : BitVec 4) (a b : BitVec 3) (c : BitVec 2) (x : BitVec 4), s = 1 → a = 0 → b = 0 → c = 0 → x = 0 →
      decSync ⟨h, packSync s a b c x, none⟩ = .ok (.fwait h) := by
    intro s a b c x hs ha hb hc hx
    simp only [decSync, packSync_s, packSync_sc, packSync_k, packSync_cv, packSync_xa, ext, noExt, bind, Except.bind, pure,
      Except.pure]
    subst hs ha hb hc hx
    rfl
  rw [major_decSync, show (⟨h.t0, h.g, h.gn, Tok.dec (BitVec.ofNat 4 0)⟩ : Hdr) = h from Hdr.of_oneWord h w]
  exact key _ _ _ _ _ rfl rfl rfl rfl rfl

theorem Laws.RoundTrip.wait4 (h xa n) : Laws.RoundTrip.Statement (.wait4 h xa n) := Laws.roundTrip_one rfl fun w q _ => by
  have w : (h.oneWord) = true := w
  rw [major_decSync]
  simp (disch := omega) only [decSync, packSync_s, packSync_sc, packSync_k, packSync_cv, packSync_xa, ext, noExt, bind, Except.bind, pure, Except.pure, bits_low, bits_high, bits_all, bit_low, bit_high, bit_ofBool, Nat.reduceSub]
  simp [-BitVec.getLsbD_eq_getElem, Hdr.of_oneWord, *]

theorem Laws.RoundTrip.bexp (h xa) : Laws.RoundTrip.Statement (.bexp h xa) := Laws.roundTrip_one rfl fun w q _ => by
  have w : (h.oneWord && !xa.getLsbD 0) = true := w
  simp [-BitVec.getLsbD_eq_getElem] at w
  rw [major_decSync]
  simp (disch := omega) only [decSync, packSync_s, packSync_sc, packSync_k, packSync_cv, packSync_xa, ext, noExt, bind, Except.bind, pure, Except.pure, bits_low, bits_high, bits_all, bit_low, bit_high, bit_ofBool, Nat.reduceSub]
  simp [-BitVec.getLsbD_eq_getElem, Hdr.of_oneWord, *]

theorem Laws.RoundTrip.bwait (h sc xa) : Laws.RoundTrip.Statement (.bwait h sc xa) := Laws.roundTrip_one rfl fun w q _ => by
  have w : (h.oneWord && !xa.getLsbD 0) = true := w
  simp [-BitVec.getLsbD_eq_getElem] at w
  rw [major_decSync]
  simp (disch := omega) only [decSync, packSync_s, packSync_sc, packSync_k, packSync_cv, packSync_xa, ext, noExt, bind, Except.bind, pure, Except.pure, bits_low, bits_high, bits_all, bit_low, bit_high, bit_ofBool, Nat.reduceSub]
  simp [-BitVec.getLsbD_eq_getElem, Hdr.of_oneWord, *]

theorem Laws.RoundTrip.vadd (h et sat d a b) : Laws.RoundTrip.Statement (.vadd h et sat d a b) := Laws.roundTrip_two rfl fun w q _ => by
  have w : (wfSat et sat && d.isDest) = true := w
  simp [-BitVec.getLsbD_eq_getElem] at w
  rw [major_decVarith]
  simp (disch := omega) only [decVarith, cutTile, packTile_tb, packTile_et, packTile_sat, packTileE_td, packTileE_ta, packTileE_sub, packTileE_md, packTileE_taHigh, packTileE_taFlag, packTileE_taLow, ext, noExt, bind, Except.bind, pure, Except.pure, bits_low, bits_high, bits_all, bit_low, bit_high, bit_ofBool, Nat.reduceSub]
  simp [-BitVec.getLsbD_eq_getElem, TileOp.decD_enc, TileOp.decNoB, satOk_wf, redOk_wf, isFp_eq, reelEt_wf, reelVals_wf, sfcOk_wf, *]

theorem Laws.RoundTrip.vsub (h et sat d a b) : Laws.RoundTrip.Statement (.vsub h et sat d a b) := Laws.roundTrip_two rfl fun w q _ => by
  have w : (wfSat et sat && d.isDest) = true := w
  simp [-BitVec.getLsbD_eq_getElem] at w
  rw [major_decVarith]
  simp (disch := omega) only [decVarith, cutTile, packTile_tb, packTile_et, packTile_sat, packTileE_td, packTileE_ta, packTileE_sub, packTileE_md, packTileE_taHigh, packTileE_taFlag, packTileE_taLow, ext, noExt, bind, Except.bind, pure, Except.pure, bits_low, bits_high, bits_all, bit_low, bit_high, bit_ofBool, Nat.reduceSub]
  simp [-BitVec.getLsbD_eq_getElem, TileOp.decD_enc, TileOp.decNoB, satOk_wf, redOk_wf, isFp_eq, reelEt_wf, reelVals_wf, sfcOk_wf, *]

theorem Laws.RoundTrip.vmul (h et sat d a b) : Laws.RoundTrip.Statement (.vmul h et sat d a b) := Laws.roundTrip_two rfl fun w q _ => by
  have w : (wfSat et sat && d.isDest) = true := w
  simp [-BitVec.getLsbD_eq_getElem] at w
  rw [major_decVarith]
  simp (disch := omega) only [decVarith, cutTile, packTile_tb, packTile_et, packTile_sat, packTileE_td, packTileE_ta, packTileE_sub, packTileE_md, packTileE_taHigh, packTileE_taFlag, packTileE_taLow, ext, noExt, bind, Except.bind, pure, Except.pure, bits_low, bits_high, bits_all, bit_low, bit_high, bit_ofBool, Nat.reduceSub]
  simp [-BitVec.getLsbD_eq_getElem, TileOp.decD_enc, TileOp.decNoB, satOk_wf, redOk_wf, isFp_eq, reelEt_wf, reelVals_wf, sfcOk_wf, *]

theorem Laws.RoundTrip.vfma (h et sat d a b) : Laws.RoundTrip.Statement (.vfma h et sat d a b) := Laws.roundTrip_two rfl fun w q _ => by
  have w : (wfSat et sat && d.isDest) = true := w
  simp [-BitVec.getLsbD_eq_getElem] at w
  rw [major_decVarith]
  simp (disch := omega) only [decVarith, cutTile, packTile_tb, packTile_et, packTile_sat, packTileE_td, packTileE_ta, packTileE_sub, packTileE_md, packTileE_taHigh, packTileE_taFlag, packTileE_taLow, ext, noExt, bind, Except.bind, pure, Except.pure, bits_low, bits_high, bits_all, bit_low, bit_high, bit_ofBool, Nat.reduceSub]
  simp [-BitVec.getLsbD_eq_getElem, TileOp.decD_enc, TileOp.decNoB, satOk_wf, redOk_wf, isFp_eq, reelEt_wf, reelVals_wf, sfcOk_wf, *]

theorem Laws.RoundTrip.vmin (h et d a b) : Laws.RoundTrip.Statement (.vmin h et d a b) := Laws.roundTrip_two rfl fun w q _ => by
  have w : (d.isDest) = true := w
  rw [major_decVarith]
  simp (disch := omega) only [decVarith, cutTile, packTile_tb, packTile_et, packTile_sat, packTileE_td, packTileE_ta, packTileE_sub, packTileE_md, packTileE_taHigh, packTileE_taFlag, packTileE_taLow, ext, noExt, bind, Except.bind, pure, Except.pure, bits_low, bits_high, bits_all, bit_low, bit_high, bit_ofBool, Nat.reduceSub]
  simp [-BitVec.getLsbD_eq_getElem, TileOp.decD_enc, TileOp.decNoB, satOk_wf, redOk_wf, isFp_eq, reelEt_wf, reelVals_wf, sfcOk_wf, *]

theorem Laws.RoundTrip.vmax (h et d a b) : Laws.RoundTrip.Statement (.vmax h et d a b) := Laws.roundTrip_two rfl fun w q _ => by
  have w : (d.isDest) = true := w
  rw [major_decVarith]
  simp (disch := omega) only [decVarith, cutTile, packTile_tb, packTile_et, packTile_sat, packTileE_td, packTileE_ta, packTileE_sub, packTileE_md, packTileE_taHigh, packTileE_taFlag, packTileE_taLow, ext, noExt, bind, Except.bind, pure, Except.pure, bits_low, bits_high, bits_all, bit_low, bit_high, bit_ofBool, Nat.reduceSub]
  simp [-BitVec.getLsbD_eq_getElem, TileOp.decD_enc, TileOp.decNoB, satOk_wf, redOk_wf, isFp_eq, reelEt_wf, reelVals_wf, sfcOk_wf, *]

theorem Laws.RoundTrip.vabs (h et sat d a) : Laws.RoundTrip.Statement (.vabs h et sat d a) := Laws.roundTrip_two rfl fun w q _ => by
  have w : (wfSat et sat && d.isDest) = true := w
  simp [-BitVec.getLsbD_eq_getElem] at w
  rw [major_decVarith]
  simp (disch := omega) only [decVarith, cutTile, packTile_tb, packTile_et, packTile_sat, packTileE_td, packTileE_ta, packTileE_sub, packTileE_md, packTileE_taHigh, packTileE_taFlag, packTileE_taLow, ext, noExt, bind, Except.bind, pure, Except.pure, bits_low, bits_high, bits_all, bit_low, bit_high, bit_ofBool, Nat.reduceSub]
  simp [-BitVec.getLsbD_eq_getElem, TileOp.decD_enc, TileOp.decNoB, satOk_wf, redOk_wf, isFp_eq, reelEt_wf, reelVals_wf, sfcOk_wf, *]

theorem Laws.RoundTrip.vneg (h et sat d a) : Laws.RoundTrip.Statement (.vneg h et sat d a) := Laws.roundTrip_two rfl fun w q _ => by
  have w : (wfSat et sat && d.isDest) = true := w
  simp [-BitVec.getLsbD_eq_getElem] at w
  rw [major_decVarith]
  simp (disch := omega) only [decVarith, cutTile, packTile_tb, packTile_et, packTile_sat, packTileE_td, packTileE_ta, packTileE_sub, packTileE_md, packTileE_taHigh, packTileE_taFlag, packTileE_taLow, ext, noExt, bind, Except.bind, pure, Except.pure, bits_low, bits_high, bits_all, bit_low, bit_high, bit_ofBool, Nat.reduceSub]
  simp [-BitVec.getLsbD_eq_getElem, TileOp.decD_enc, TileOp.decNoB, satOk_wf, redOk_wf, isFp_eq, reelEt_wf, reelVals_wf, sfcOk_wf, *]

theorem Laws.RoundTrip.vcmp (h c et d a b) : Laws.RoundTrip.Statement (.vcmp h c et d a b) := Laws.roundTrip_two rfl fun w q _ => by
  have w : ((et.isFloat || (c != .un && c != .ord))) = true := w
  simp [-BitVec.getLsbD_eq_getElem] at w
  rw [major_decVcmpsel]
  simp (disch := omega) only [decVcmpsel, cutTile, packTile_tb, packTile_et, packTile_sat, packTileE_td, packTileE_ta, packTileE_sub, packTileE_md, packTileE_taHigh, packTileE_taFlag, packTileE_taLow, ext, noExt, bind, Except.bind, pure, Except.pure, bits_low, bits_high, bits_all, bit_low, bit_high, bit_ofBool, Nat.reduceSub]
  simp [-BitVec.getLsbD_eq_getElem, TileOp.decD_enc, TileOp.decNoB, satOk_wf, redOk_wf, isFp_eq, reelEt_wf, reelVals_wf, sfcOk_wf, *]
  rcases w with w | w
  · exact fun _ => w
  · exact fun k => absurd k (by simp [w])

theorem Laws.RoundTrip.vsel (h et d a b p) : Laws.RoundTrip.Statement (.vsel h et d a b p) := Laws.roundTrip_two rfl fun w q _ => by
  have w : (d.isDest) = true := w
  rw [major_decVcmpsel]
  simp (disch := omega) only [decVcmpsel, cutTile, packTile_tb, packTile_et, packTile_sat, packTileE_td, packTileE_ta, packTileE_sub, packTileE_md, packTileE_taHigh, packTileE_taFlag, packTileE_taLow, ext, noExt, bind, Except.bind, pure, Except.pure, bits_low, bits_high, bits_all, bit_low, bit_high, bit_ofBool, Nat.reduceSub]
  simp [-BitVec.getLsbD_eq_getElem, TileOp.decD_enc, TileOp.decNoB, satOk_wf, redOk_wf, isFp_eq, reelEt_wf, reelVals_wf, sfcOk_wf, *]

theorem Laws.RoundTrip.vmov (h et d a) : Laws.RoundTrip.Statement (.vmov h et d a) := Laws.roundTrip_two rfl fun w q _ => by
  have w : (d.isDest) = true := w
  rw [major_decVcmpsel]
  simp (disch := omega) only [decVcmpsel, cutTile, packTile_tb, packTile_et, packTile_sat, packTileE_td, packTileE_ta, packTileE_sub, packTileE_md, packTileE_taHigh, packTileE_taFlag, packTileE_taLow, ext, noExt, bind, Except.bind, pure, Except.pure, bits_low, bits_high, bits_all, bit_low, bit_high, bit_ofBool, Nat.reduceSub]
  simp [-BitVec.getLsbD_eq_getElem, TileOp.decD_enc, TileOp.decNoB, satOk_wf, redOk_wf, isFp_eq, reelEt_wf, reelVals_wf, sfcOk_wf, *]

theorem Laws.RoundTrip.vand (h et d a b) : Laws.RoundTrip.Statement (.vand h et d a b) := Laws.roundTrip_two rfl fun w q _ => by
  have w : (d.isDest) = true := w
  rw [major_decVlogic]
  simp (disch := omega) only [decVlogic, cutTile, packTile_tb, packTile_et, packTile_sat, packTileE_td, packTileE_ta, packTileE_sub, packTileE_md, packTileE_taHigh, packTileE_taFlag, packTileE_taLow, ext, noExt, bind, Except.bind, pure, Except.pure, bits_low, bits_high, bits_all, bit_low, bit_high, bit_ofBool, Nat.reduceSub]
  simp [-BitVec.getLsbD_eq_getElem, TileOp.decD_enc, TileOp.decNoB, satOk_wf, redOk_wf, isFp_eq, reelEt_wf, reelVals_wf, sfcOk_wf, *]

theorem Laws.RoundTrip.vor (h et d a b) : Laws.RoundTrip.Statement (.vor h et d a b) := Laws.roundTrip_two rfl fun w q _ => by
  have w : (d.isDest) = true := w
  rw [major_decVlogic]
  simp (disch := omega) only [decVlogic, cutTile, packTile_tb, packTile_et, packTile_sat, packTileE_td, packTileE_ta, packTileE_sub, packTileE_md, packTileE_taHigh, packTileE_taFlag, packTileE_taLow, ext, noExt, bind, Except.bind, pure, Except.pure, bits_low, bits_high, bits_all, bit_low, bit_high, bit_ofBool, Nat.reduceSub]
  simp [-BitVec.getLsbD_eq_getElem, TileOp.decD_enc, TileOp.decNoB, satOk_wf, redOk_wf, isFp_eq, reelEt_wf, reelVals_wf, sfcOk_wf, *]

theorem Laws.RoundTrip.vxor (h et d a b) : Laws.RoundTrip.Statement (.vxor h et d a b) := Laws.roundTrip_two rfl fun w q _ => by
  have w : (d.isDest) = true := w
  rw [major_decVlogic]
  simp (disch := omega) only [decVlogic, cutTile, packTile_tb, packTile_et, packTile_sat, packTileE_td, packTileE_ta, packTileE_sub, packTileE_md, packTileE_taHigh, packTileE_taFlag, packTileE_taLow, ext, noExt, bind, Except.bind, pure, Except.pure, bits_low, bits_high, bits_all, bit_low, bit_high, bit_ofBool, Nat.reduceSub]
  simp [-BitVec.getLsbD_eq_getElem, TileOp.decD_enc, TileOp.decNoB, satOk_wf, redOk_wf, isFp_eq, reelEt_wf, reelVals_wf, sfcOk_wf, *]

theorem Laws.RoundTrip.vlop3 (h table d a b) : Laws.RoundTrip.Statement (.vlop3 h table d a b) := Laws.roundTrip_two rfl fun w q _ => by
  have w : (d.isDest) = true := w
  rw [major_decVlogic]
  simp (disch := omega) only [decVlogic, cutTile, packTile_tb, packTile_et, packTile_sat, packTileE_td, packTileE_ta, packTileE_sub, packTileE_md, packTileE_taHigh, packTileE_taFlag, packTileE_taLow, ext, noExt, bind, Except.bind, pure, Except.pure, bits_low, bits_high, bits_all, bit_low, bit_high, bit_ofBool, Nat.reduceSub]
  simp [-BitVec.getLsbD_eq_getElem, TileOp.decD_enc, TileOp.decNoB, satOk_wf, redOk_wf, isFp_eq, reelEt_wf, reelVals_wf, sfcOk_wf, *]

theorem Laws.RoundTrip.vshl (h et d a b) : Laws.RoundTrip.Statement (.vshl h et d a b) := Laws.roundTrip_two rfl fun w q _ => by
  have w : (!et.isFloat && d.isDest) = true := w
  simp [-BitVec.getLsbD_eq_getElem] at w
  rw [major_decVshift]
  simp (disch := omega) only [decVshift, cutTile, packTile_tb, packTile_et, packTile_sat, packTileE_td, packTileE_ta, packTileE_sub, packTileE_md, packTileE_taHigh, packTileE_taFlag, packTileE_taLow, ext, noExt, bind, Except.bind, pure, Except.pure, bits_low, bits_high, bits_all, bit_low, bit_high, bit_ofBool, Nat.reduceSub]
  simp [-BitVec.getLsbD_eq_getElem, TileOp.decD_enc, TileOp.decNoB, satOk_wf, redOk_wf, isFp_eq, reelEt_wf, reelVals_wf, sfcOk_wf, *]

theorem Laws.RoundTrip.vshr (h et d a b) : Laws.RoundTrip.Statement (.vshr h et d a b) := Laws.roundTrip_two rfl fun w q _ => by
  have w : (!et.isFloat && d.isDest) = true := w
  simp [-BitVec.getLsbD_eq_getElem] at w
  rw [major_decVshift]
  simp (disch := omega) only [decVshift, cutTile, packTile_tb, packTile_et, packTile_sat, packTileE_td, packTileE_ta, packTileE_sub, packTileE_md, packTileE_taHigh, packTileE_taFlag, packTileE_taLow, ext, noExt, bind, Except.bind, pure, Except.pure, bits_low, bits_high, bits_all, bit_low, bit_high, bit_ofBool, Nat.reduceSub]
  simp [-BitVec.getLsbD_eq_getElem, TileOp.decD_enc, TileOp.decNoB, satOk_wf, redOk_wf, isFp_eq, reelEt_wf, reelVals_wf, sfcOk_wf, *]

theorem Laws.RoundTrip.vsra (h et d a b) : Laws.RoundTrip.Statement (.vsra h et d a b) := Laws.roundTrip_two rfl fun w q _ => by
  have w : (!et.isFloat && d.isDest) = true := w
  simp [-BitVec.getLsbD_eq_getElem] at w
  rw [major_decVshift]
  simp (disch := omega) only [decVshift, cutTile, packTile_tb, packTile_et, packTile_sat, packTileE_td, packTileE_ta, packTileE_sub, packTileE_md, packTileE_taHigh, packTileE_taFlag, packTileE_taLow, ext, noExt, bind, Except.bind, pure, Except.pure, bits_low, bits_high, bits_all, bit_low, bit_high, bit_ofBool, Nat.reduceSub]
  simp [-BitVec.getLsbD_eq_getElem, TileOp.decD_enc, TileOp.decNoB, satOk_wf, redOk_wf, isFp_eq, reelEt_wf, reelVals_wf, sfcOk_wf, *]

theorem Laws.RoundTrip.vfunl (h et d a b) : Laws.RoundTrip.Statement (.vfunl h et d a b) := Laws.roundTrip_two rfl fun w q _ => by
  have w : (!et.isFloat && d.isDest) = true := w
  simp [-BitVec.getLsbD_eq_getElem] at w
  rw [major_decVshift]
  simp (disch := omega) only [decVshift, cutTile, packTile_tb, packTile_et, packTile_sat, packTileE_td, packTileE_ta, packTileE_sub, packTileE_md, packTileE_taHigh, packTileE_taFlag, packTileE_taLow, ext, noExt, bind, Except.bind, pure, Except.pure, bits_low, bits_high, bits_all, bit_low, bit_high, bit_ofBool, Nat.reduceSub]
  simp [-BitVec.getLsbD_eq_getElem, TileOp.decD_enc, TileOp.decNoB, satOk_wf, redOk_wf, isFp_eq, reelEt_wf, reelVals_wf, sfcOk_wf, *]

theorem Laws.RoundTrip.vfunr (h et d a b) : Laws.RoundTrip.Statement (.vfunr h et d a b) := Laws.roundTrip_two rfl fun w q _ => by
  have w : (!et.isFloat && d.isDest) = true := w
  simp [-BitVec.getLsbD_eq_getElem] at w
  rw [major_decVshift]
  simp (disch := omega) only [decVshift, cutTile, packTile_tb, packTile_et, packTile_sat, packTileE_td, packTileE_ta, packTileE_sub, packTileE_md, packTileE_taHigh, packTileE_taFlag, packTileE_taLow, ext, noExt, bind, Except.bind, pure, Except.pure, bits_low, bits_high, bits_all, bit_low, bit_high, bit_ofBool, Nat.reduceSub]
  simp [-BitVec.getLsbD_eq_getElem, TileOp.decD_enc, TileOp.decNoB, satOk_wf, redOk_wf, isFp_eq, reelEt_wf, reelVals_wf, sfcOk_wf, *]

theorem Laws.RoundTrip.vrot (h et d a b) : Laws.RoundTrip.Statement (.vrot h et d a b) := Laws.roundTrip_two rfl fun w q _ => by
  have w : (d.isDest) = true := w
  rw [major_decVshift]
  simp (disch := omega) only [decVshift, cutTile, packTile_tb, packTile_et, packTile_sat, packTileE_td, packTileE_ta, packTileE_sub, packTileE_md, packTileE_taHigh, packTileE_taFlag, packTileE_taLow, ext, noExt, bind, Except.bind, pure, Except.pure, bits_low, bits_high, bits_all, bit_low, bit_high, bit_ofBool, Nat.reduceSub]
  simp [-BitVec.getLsbD_eq_getElem, TileOp.decD_enc, TileOp.decNoB, satOk_wf, redOk_wf, isFp_eq, reelEt_wf, reelVals_wf, sfcOk_wf, *]

theorem Laws.RoundTrip.vperm (h et d a b) : Laws.RoundTrip.Statement (.vperm h et d a b) := Laws.roundTrip_two rfl fun w q _ => by
  have w : (d.isDest) = true := w
  rw [major_decVperm]
  simp (disch := omega) only [decVperm, cutTile, packTile_tb, packTile_et, packTile_sat, packTileE_td, packTileE_ta, packTileE_sub, packTileE_md, packTileE_taHigh, packTileE_taFlag, packTileE_taLow, ext, noExt, bind, Except.bind, pure, Except.pure, bits_low, bits_high, bits_all, bit_low, bit_high, bit_ofBool, Nat.reduceSub]
  simp [-BitVec.getLsbD_eq_getElem, TileOp.decD_enc, TileOp.decNoB, satOk_wf, redOk_wf, isFp_eq, reelEt_wf, reelVals_wf, sfcOk_wf, *]

theorem Laws.RoundTrip.vbcast (h et d a b) : Laws.RoundTrip.Statement (.vbcast h et d a b) := Laws.roundTrip_two rfl fun w q _ => by
  have w : (d.isDest) = true := w
  rw [major_decVperm]
  simp (disch := omega) only [decVperm, cutTile, packTile_tb, packTile_et, packTile_sat, packTileE_td, packTileE_ta, packTileE_sub, packTileE_md, packTileE_taHigh, packTileE_taFlag, packTileE_taLow, ext, noExt, bind, Except.bind, pure, Except.pure, bits_low, bits_high, bits_all, bit_low, bit_high, bit_ofBool, Nat.reduceSub]
  simp [-BitVec.getLsbD_eq_getElem, TileOp.decD_enc, TileOp.decNoB, satOk_wf, redOk_wf, isFp_eq, reelEt_wf, reelVals_wf, sfcOk_wf, *]

theorem Laws.RoundTrip.vcvt (h dst src sat rm d a) : Laws.RoundTrip.Statement (.vcvt h dst src sat rm d a) := Laws.roundTrip_two rfl fun w q _ => by
  have w : (d.isDest) = true := w
  rw [major_decVcvt]
  simp (disch := omega) only [decVcvt, cutTile, packTile_tb, packTile_et, packTile_sat, packTileE_td, packTileE_ta, packTileE_sub, packTileE_md, packTileE_taHigh, packTileE_taFlag, packTileE_taLow, ext, noExt, bind, Except.bind, pure, Except.pure, bits_low, bits_high, bits_all, bit_low, bit_high, bit_ofBool, Nat.reduceSub]
  simp [-BitVec.getLsbD_eq_getElem, TileOp.decD_enc, TileOp.decNoB, satOk_wf, redOk_wf, isFp_eq, reelEt_wf, reelVals_wf, sfcOk_wf, *]

theorem Laws.RoundTrip.vpack (h rm d a g) : Laws.RoundTrip.Statement (.vpack h rm d a g) := Laws.roundTrip_two rfl fun w q _ => by
  have w : (d.isDest && a.isDest) = true := w
  simp [-BitVec.getLsbD_eq_getElem] at w
  rw [major_decVcvt]
  simp (disch := omega) only [decVcvt, cutTile, packTile_tb, packTile_et, packTile_sat, packTileE_td, packTileE_ta, packTileE_sub, packTileE_md, packTileE_taHigh, packTileE_taFlag, packTileE_taLow, ext, noExt, bind, Except.bind, pure, Except.pure, bits_low, bits_high, bits_all, bit_low, bit_high, bit_ofBool, Nat.reduceSub]
  simp [-BitVec.getLsbD_eq_getElem, TileOp.decD_enc, TileOp.decNoB, satOk_wf, redOk_wf, isFp_eq, reelEt_wf, reelVals_wf, sfcOk_wf, *]

theorem Laws.RoundTrip.vunpk (h d a g) : Laws.RoundTrip.Statement (.vunpk h d a g) := Laws.roundTrip_two rfl fun w q _ => by
  have w : (d.isDest && a.isDest) = true := w
  simp [-BitVec.getLsbD_eq_getElem] at w
  rw [major_decVcvt]
  simp (disch := omega) only [decVcvt, cutTile, packTile_tb, packTile_et, packTile_sat, packTileE_td, packTileE_ta, packTileE_sub, packTileE_md, packTileE_taHigh, packTileE_taFlag, packTileE_taLow, ext, noExt, bind, Except.bind, pure, Except.pure, bits_low, bits_high, bits_all, bit_low, bit_high, bit_ofBool, Nat.reduceSub]
  simp [-BitVec.getLsbD_eq_getElem, TileOp.decD_enc, TileOp.decNoB, satOk_wf, redOk_wf, isFp_eq, reelEt_wf, reelVals_wf, sfcOk_wf, *]

theorem Laws.RoundTrip.vred (h op et sat d a) : Laws.RoundTrip.Statement (.vred h op et sat d a) := Laws.roundTrip_two rfl fun w q _ => by
  have w : (wfRed op et sat && d.isDest) = true := w
  simp [-BitVec.getLsbD_eq_getElem] at w
  rw [major_decVred]
  simp (disch := omega) only [decVred, cutTile, packTile_tb, packTile_et, packTile_sat, packTileE_td, packTileE_ta, packTileE_sub, packTileE_md, packTileE_taHigh, packTileE_taFlag, packTileE_taLow, ext, noExt, bind, Except.bind, pure, Except.pure, bits_low, bits_high, bits_all, bit_low, bit_high, bit_ofBool, Nat.reduceSub]
  simp [-BitVec.getLsbD_eq_getElem, TileOp.decD_enc, TileOp.decNoB, satOk_wf, redOk_wf, isFp_eq, reelEt_wf, reelVals_wf, sfcOk_wf, *]

theorem Laws.RoundTrip.vexp (h et d a) : Laws.RoundTrip.Statement (.vexp h et d a) := Laws.roundTrip_two rfl fun w q _ => by
  have w : (et.isFloat && d.isDest) = true := w
  simp [-BitVec.getLsbD_eq_getElem] at w
  rw [major_decVfun]
  simp (disch := omega) only [decVfun, cutTile, packTile_tb, packTile_et, packTile_sat, packTileE_td, packTileE_ta, packTileE_sub, packTileE_md, packTileE_taHigh, packTileE_taFlag, packTileE_taLow, ext, noExt, bind, Except.bind, pure, Except.pure, bits_low, bits_high, bits_all, bit_low, bit_high, bit_ofBool, Nat.reduceSub]
  simp [-BitVec.getLsbD_eq_getElem, TileOp.decD_enc, TileOp.decNoB, satOk_wf, redOk_wf, isFp_eq, reelEt_wf, reelVals_wf, sfcOk_wf, *]

theorem Laws.RoundTrip.vlog (h et d a) : Laws.RoundTrip.Statement (.vlog h et d a) := Laws.roundTrip_two rfl fun w q _ => by
  have w : (et.isFloat && d.isDest) = true := w
  simp [-BitVec.getLsbD_eq_getElem] at w
  rw [major_decVfun]
  simp (disch := omega) only [decVfun, cutTile, packTile_tb, packTile_et, packTile_sat, packTileE_td, packTileE_ta, packTileE_sub, packTileE_md, packTileE_taHigh, packTileE_taFlag, packTileE_taLow, ext, noExt, bind, Except.bind, pure, Except.pure, bits_low, bits_high, bits_all, bit_low, bit_high, bit_ofBool, Nat.reduceSub]
  simp [-BitVec.getLsbD_eq_getElem, TileOp.decD_enc, TileOp.decNoB, satOk_wf, redOk_wf, isFp_eq, reelEt_wf, reelVals_wf, sfcOk_wf, *]

theorem Laws.RoundTrip.vrcp (h et d a) : Laws.RoundTrip.Statement (.vrcp h et d a) := Laws.roundTrip_two rfl fun w q _ => by
  have w : (et.isFloat && d.isDest) = true := w
  simp [-BitVec.getLsbD_eq_getElem] at w
  rw [major_decVfun]
  simp (disch := omega) only [decVfun, cutTile, packTile_tb, packTile_et, packTile_sat, packTileE_td, packTileE_ta, packTileE_sub, packTileE_md, packTileE_taHigh, packTileE_taFlag, packTileE_taLow, ext, noExt, bind, Except.bind, pure, Except.pure, bits_low, bits_high, bits_all, bit_low, bit_high, bit_ofBool, Nat.reduceSub]
  simp [-BitVec.getLsbD_eq_getElem, TileOp.decD_enc, TileOp.decNoB, satOk_wf, redOk_wf, isFp_eq, reelEt_wf, reelVals_wf, sfcOk_wf, *]

theorem Laws.RoundTrip.vrsq (h et d a) : Laws.RoundTrip.Statement (.vrsq h et d a) := Laws.roundTrip_two rfl fun w q _ => by
  have w : (et.isFloat && d.isDest) = true := w
  simp [-BitVec.getLsbD_eq_getElem] at w
  rw [major_decVfun]
  simp (disch := omega) only [decVfun, cutTile, packTile_tb, packTile_et, packTile_sat, packTileE_td, packTileE_ta, packTileE_sub, packTileE_md, packTileE_taHigh, packTileE_taFlag, packTileE_taLow, ext, noExt, bind, Except.bind, pure, Except.pure, bits_low, bits_high, bits_all, bit_low, bit_high, bit_ofBool, Nat.reduceSub]
  simp [-BitVec.getLsbD_eq_getElem, TileOp.decD_enc, TileOp.decNoB, satOk_wf, redOk_wf, isFp_eq, reelEt_wf, reelVals_wf, sfcOk_wf, *]

theorem Laws.RoundTrip.vrng (h et d) : Laws.RoundTrip.Statement (.vrng h et d) := Laws.roundTrip_two rfl fun w q _ => by
  have w : ((et = .fp32 || et = .u32) && d.isDest) = true := w
  simp [-BitVec.getLsbD_eq_getElem] at w
  rw [major_decVrand]
  simp (disch := omega) only [decVrand, cutTile, packTile_tb, packTile_et, packTile_sat, packTileE_td, packTileE_ta, packTileE_sub, packTileE_md, packTileE_taHigh, packTileE_taFlag, packTileE_taLow, ext, noExt, bind, Except.bind, pure, Except.pure, bits_low, bits_high, bits_all, bit_low, bit_high, bit_ofBool, Nat.reduceSub]
  simp [-BitVec.getLsbD_eq_getElem, TileOp.decD_enc, TileOp.decNoB, satOk_wf, redOk_wf, isFp_eq, reelEt_wf, reelVals_wf, sfcOk_wf, *]

theorem Laws.RoundTrip.vbern (h d a) : Laws.RoundTrip.Statement (.vbern h d a) := Laws.roundTrip_two rfl fun _ q _ => by
  rw [major_decVrand]
  simp (disch := omega) only [decVrand, cutTile, packTile_tb, packTile_et, packTile_sat, packTileE_td, packTileE_ta, packTileE_sub, packTileE_md, packTileE_taHigh, packTileE_taFlag, packTileE_taLow, ext, noExt, bind, Except.bind, pure, Except.pure, bits_low, bits_high, bits_all, bit_low, bit_high, bit_ofBool, Nat.reduceSub]
  simp [-BitVec.getLsbD_eq_getElem, TileOp.decD_enc, TileOp.decNoB, satOk_wf, redOk_wf, isFp_eq, reelEt_wf, reelVals_wf, sfcOk_wf]

theorem Laws.RoundTrip.rlcfg (h t row xa xb) : Laws.RoundTrip.Statement (.rlcfg h t row xa xb) := Laws.roundTrip_two rfl fun _ q _ => by
  rw [major_decRlist]
  simp (disch := omega) only [decRlist, cutTile, packTile_tb, packTile_et, packTile_sat, packTileE_td, packTileE_ta, packTileE_sub, packTileE_md, packTileE_taHigh, packTileE_taFlag, packTileE_taLow, ext, noExt, bind, Except.bind, pure, Except.pure, bits_low, bits_high, bits_all, bit_low, bit_high, bit_ofBool, Nat.reduceSub]
  simp [-BitVec.getLsbD_eq_getElem, TileOp.decD_enc, TileOp.decNoB, satOk_wf, redOk_wf, isFp_eq, reelEt_wf, reelVals_wf, sfcOk_wf]

theorem Laws.RoundTrip.rlins (h t n a xb) : Laws.RoundTrip.Statement (.rlins h t n a xb) := Laws.roundTrip_two rfl fun _ q _ => by
  rw [major_decRlist]
  simp (disch := omega) only [decRlist, cutTile, packTile_tb, packTile_et, packTile_sat, packTileE_td, packTileE_ta, packTileE_sub, packTileE_md, packTileE_taHigh, packTileE_taFlag, packTileE_taLow, ext, noExt, bind, Except.bind, pure, Except.pure, bits_low, bits_high, bits_all, bit_low, bit_high, bit_ofBool, Nat.reduceSub]
  simp [-BitVec.getLsbD_eq_getElem, TileOp.decD_enc, TileOp.decNoB, satOk_wf, redOk_wf, isFp_eq, reelEt_wf, reelVals_wf, sfcOk_wf]

theorem Laws.RoundTrip.rlmrg (h t n xb) : Laws.RoundTrip.Statement (.rlmrg h t n xb) := Laws.roundTrip_two rfl fun _ q _ => by
  rw [major_decRlist]
  simp (disch := omega) only [decRlist, cutTile, packTile_tb, packTile_et, packTile_sat, packTileE_td, packTileE_ta, packTileE_sub, packTileE_md, packTileE_taHigh, packTileE_taFlag, packTileE_taLow, ext, noExt, bind, Except.bind, pure, Except.pure, bits_low, bits_high, bits_all, bit_low, bit_high, bit_ofBool, Nat.reduceSub]
  simp [-BitVec.getLsbD_eq_getElem, TileOp.decD_enc, TileOp.decNoB, satOk_wf, redOk_wf, isFp_eq, reelEt_wf, reelVals_wf, sfcOk_wf]

theorem Laws.RoundTrip.rlthr (h t n xb) : Laws.RoundTrip.Statement (.rlthr h t n xb) := Laws.roundTrip_two rfl fun _ q _ => by
  rw [major_decRlist]
  simp (disch := omega) only [decRlist, cutTile, packTile_tb, packTile_et, packTile_sat, packTileE_td, packTileE_ta, packTileE_sub, packTileE_md, packTileE_taHigh, packTileE_taFlag, packTileE_taLow, ext, noExt, bind, Except.bind, pure, Except.pure, bits_low, bits_high, bits_all, bit_low, bit_high, bit_ofBool, Nat.reduceSub]
  simp [-BitVec.getLsbD_eq_getElem, TileOp.decD_enc, TileOp.decNoB, satOk_wf, redOk_wf, isFp_eq, reelEt_wf, reelVals_wf, sfcOk_wf]

theorem Laws.RoundTrip.rlrd (h d t n) : Laws.RoundTrip.Statement (.rlrd h d t n) := Laws.roundTrip_two rfl fun w q _ => by
  have w : (d.isDest) = true := w
  rw [major_decRlist]
  simp (disch := omega) only [decRlist, cutTile, packTile_tb, packTile_et, packTile_sat, packTileE_td, packTileE_ta, packTileE_sub, packTileE_md, packTileE_taHigh, packTileE_taFlag, packTileE_taLow, ext, noExt, bind, Except.bind, pure, Except.pure, bits_low, bits_high, bits_all, bit_low, bit_high, bit_ofBool, Nat.reduceSub]
  simp [-BitVec.getLsbD_eq_getElem, TileOp.decD_enc, TileOp.decNoB, satOk_wf, redOk_wf, isFp_eq, reelEt_wf, reelVals_wf, sfcOk_wf, *]

theorem Laws.RoundTrip.vsfc (h hilbert dims d t r) : Laws.RoundTrip.Statement (.vsfc h hilbert dims d t r) := Laws.roundTrip_two rfl fun w q _ => by
  have w : (wfCurve hilbert dims r && d.isDest) = true := w
  simp [-BitVec.getLsbD_eq_getElem] at w
  rw [major_decVsfc]
  simp (disch := omega) only [decVsfc, cutTile, packTile_tb, packTile_et, packTile_sat, packTileE_td, packTileE_ta, packTileE_sub, packTileE_md, packTileE_taHigh, packTileE_taFlag, packTileE_taLow, ext, noExt, bind, Except.bind, pure, Except.pure, bits_low, bits_high, bits_all, bit_low, bit_high, bit_ofBool, Nat.reduceSub]
  simp [-BitVec.getLsbD_eq_getElem, TileOp.decD_enc, TileOp.decNoB, satOk_wf, redOk_wf, isFp_eq, reelEt_wf, reelVals_wf, sfcOk_wf, *]

theorem Laws.RoundTrip.gset (h g a off) : Laws.RoundTrip.Statement (.gset h g a off) := Laws.roundTrip_two rfl fun _ q _ => by
  rw [major_decStream]
  simp (disch := omega) only [decStream, cutCmd, packReg_d, packReg_a, packReg_b, packReg_s, packCmdE_acq, packCmdE_rel, packCmdE_k, packCmdE_kv, packCmdE_cf, Cmd.bare, ext, noExt, bind, Except.bind, pure, Except.pure, bits_low, bits_high, bits_all, bit_low, bit_high, bit_ofBool, Nat.reduceSub]
  simp [-BitVec.getLsbD_eq_getElem]

theorem Laws.RoundTrip.gadv (h g xb xc) : Laws.RoundTrip.Statement (.gadv h g xb xc) := Laws.roundTrip_two rfl fun _ q _ => by
  rw [major_decStream]
  simp (disch := omega) only [decStream, cutCmd, packReg_d, packReg_a, packReg_b, packReg_s, packCmdE_acq, packCmdE_rel, packCmdE_k, packCmdE_kv, packCmdE_cf, Cmd.bare, ext, noExt, bind, Except.bind, pure, Except.pure, bits_low, bits_high, bits_all, bit_low, bit_high, bit_ofBool, Nat.reduceSub]
  simp [-BitVec.getLsbD_eq_getElem]

theorem Laws.RoundTrip.mlease (h lvl k) : Laws.RoundTrip.Statement (.mlease h lvl k) := Laws.roundTrip_two rfl fun _ q _ => by
  rw [major_decLease]
  simp (disch := omega) only [decLease, cutCmd, packReg_d, packReg_a, packReg_b, packReg_s, packCmdE_acq, packCmdE_rel, packCmdE_k, packCmdE_kv, packCmdE_cf, Cmd.bare, ext, noExt, bind, Except.bind, pure, Except.pure, bits_low, bits_high, bits_all, bit_low, bit_high, bit_ofBool, Nat.reduceSub]
  simp [-BitVec.getLsbD_eq_getElem]

theorem Laws.RoundTrip.mfree (h) : Laws.RoundTrip.Statement (.mfree h) := Laws.roundTrip_two rfl fun _ q _ => by
  rw [major_decLease]
  simp (disch := omega) only [decLease, cutCmd, packReg_d, packReg_a, packReg_b, packReg_s, packCmdE_acq, packCmdE_rel, packCmdE_k, packCmdE_kv, packCmdE_cf, Cmd.bare, ext, noExt, bind, Except.bind, pure, Except.pure, bits_low, bits_high, bits_all, bit_low, bit_high, bit_ofBool, Nat.reduceSub]
  simp [-BitVec.getLsbD_eq_getElem]

theorem Laws.RoundTrip.mloadb (h g arr nfold f acq k) : Laws.RoundTrip.Statement (.mloadb h g arr nfold f acq k) := Laws.roundTrip_two rfl fun _ q _ => by
  rw [major_decMloadb]
  simp (disch := omega) only [decMloadb, cutCmd, packReg_d, packReg_a, packReg_b, packReg_s, packCmdE_acq, packCmdE_rel, packCmdE_k, packCmdE_kv, packCmdE_cf, ext, noExt, bind, Except.bind, pure, Except.pure, bits_low, bits_high, bits_all, bit_low, bit_high, bit_ofBool, Nat.reduceSub]
  simp [-BitVec.getLsbD_eq_getElem]

theorem Laws.RoundTrip.mmul (h ga arr init ragged fe list bound acq k) : Laws.RoundTrip.Statement (.mmul h ga arr init ragged fe list bound acq k) := Laws.roundTrip_two rfl fun _ q _ => by
  rw [major_decMmul]
  simp (disch := omega) only [decMmul, cutCmd, packReg_d, packReg_a, packReg_b, packReg_s, packCmdE_acq, packCmdE_rel, packCmdE_k, packCmdE_kv, packCmdE_cf, mmulCf, ext, noExt, bind, Except.bind, pure, Except.pure, bits_low, bits_high, bits_all, bit_low, bit_high, bit_ofBool, Nat.reduceSub]
  simp [-BitVec.getLsbD_eq_getElem]
  cases list <;> cases ga <;> simp [OptX.dec]

theorem Laws.RoundTrip.mattn (h gq gk gv xd fe acq k) : Laws.RoundTrip.Statement (.mattn h gq gk gv xd fe acq k) := Laws.roundTrip_two rfl fun _ q _ => by
  rw [major_decMattn]
  simp (disch := omega) only [decMattn, cutCmd, packReg_d, packReg_a, packReg_b, packReg_s, packCmdE_acq, packCmdE_rel, packCmdE_k, packCmdE_kv, packCmdE_cf, ext, noExt, bind, Except.bind, pure, Except.pure, bits_low, bits_high, bits_all, bit_low, bit_high, bit_ofBool, Nat.reduceSub]
  simp [-BitVec.getLsbD_eq_getElem]

theorem Laws.RoundTrip.mdrainTile (h arr alt mode t row nr xa acq k) : Laws.RoundTrip.Statement (.mdrainTile h arr alt mode t row nr xa acq k) := Laws.roundTrip_two rfl fun w q hq => by
  have w : (decide (row.toNat + nr.toNat ≤ 15)) = true := w
  simp [-BitVec.getLsbD_eq_getElem] at w
  have hq : q ≠ .store := hq
  rw [major_decMbank]
  simp (disch := omega) only [decMbank, cutCmd, packReg_d, packReg_a, packReg_b, packReg_s, packCmdE_acq, packCmdE_rel, packCmdE_k, packCmdE_kv, packCmdE_cf, Cmd.bare, ext, noExt, bind, Except.bind, pure, Except.pure, bits_low, bits_high, bits_all, bit_low, bit_high, bit_ofBool, Nat.reduceSub]
  simp [-BitVec.getLsbD_eq_getElem, *]

theorem Laws.RoundTrip.mdrainMemory (h arr alt mode cnt xa b xc acq rel k) : Laws.RoundTrip.Statement (.mdrainMemory h arr alt mode cnt xa b xc acq rel k) := Laws.roundTrip_two rfl fun _ q hq => by
  have hq : q = .store := hq
  rw [major_decMbank]
  simp (disch := omega) only [decMbank, cutCmd, packReg_d, packReg_a, packReg_b, packReg_s, packCmdE_acq, packCmdE_rel, packCmdE_k, packCmdE_kv, packCmdE_cf, Cmd.bare, ext, noExt, bind, Except.bind, pure, Except.pure, bits_low, bits_high, bits_all, bit_low, bit_high, bit_ofBool, Nat.reduceSub]
  simp [-BitVec.getLsbD_eq_getElem, *]

theorem Laws.RoundTrip.mswap (h arr) : Laws.RoundTrip.Statement (.mswap h arr) := Laws.roundTrip_two rfl fun _ q _ => by
  rw [major_decMbank]
  simp (disch := omega) only [decMbank, cutCmd, packReg_d, packReg_a, packReg_b, packReg_s, packCmdE_acq, packCmdE_rel, packCmdE_k, packCmdE_kv, packCmdE_cf, Cmd.bare, ext, noExt, bind, Except.bind, pure, Except.pure, bits_low, bits_high, bits_all, bit_low, bit_high, bit_ofBool, Nat.reduceSub]
  simp [-BitVec.getLsbD_eq_getElem]

theorem Laws.RoundTrip.mchain (h n) : Laws.RoundTrip.Statement (.mchain h n) := Laws.roundTrip_two rfl fun _ q _ => by
  rw [major_decMbank]
  simp (disch := omega) only [decMbank, cutCmd, packReg_d, packReg_a, packReg_b, packReg_s, packCmdE_acq, packCmdE_rel, packCmdE_k, packCmdE_kv, packCmdE_cf, Cmd.bare, ext, noExt, bind, Except.bind, pure, Except.pure, bits_low, bits_high, bits_all, bit_low, bit_high, bit_ofBool, Nat.reduceSub]
  simp [-BitVec.getLsbD_eq_getElem]

theorem Laws.RoundTrip.mshape (h xa pc) : Laws.RoundTrip.Statement (.mshape h xa pc) := Laws.roundTrip_two rfl fun _ q _ => by
  rw [major_decMbank]
  simp (disch := omega) only [decMbank, cutCmd, packReg_d, packReg_a, packReg_b, packReg_s, packCmdE_acq, packCmdE_rel, packCmdE_k, packCmdE_kv, packCmdE_cf, Cmd.bare, ext, noExt, bind, Except.bind, pure, Except.pure, bits_low, bits_high, bits_all, bit_low, bit_high, bit_ofBool, Nat.reduceSub]
  simp [-BitVec.getLsbD_eq_getElem]

theorem Laws.RoundTrip.sample (h xa xb acq rel k) : Laws.RoundTrip.Statement (.sample h xa xb acq rel k) := Laws.roundTrip_two rfl fun _ q _ => by
  rw [major_decEngine]
  simp (disch := omega) only [decEngine, cutCmd, packReg_d, packReg_a, packReg_b, packReg_s, packCmdE_acq, packCmdE_rel, packCmdE_k, packCmdE_kv, packCmdE_cf, ext, noExt, bind, Except.bind, pure, Except.pure, bits_low, bits_high, bits_all, bit_low, bit_high, bit_ofBool, Nat.reduceSub]
  simp [-BitVec.getLsbD_eq_getElem]

theorem Laws.RoundTrip.beamsel (h xa xb acq rel k) : Laws.RoundTrip.Statement (.beamsel h xa xb acq rel k) := Laws.roundTrip_two rfl fun _ q _ => by
  rw [major_decEngine]
  simp (disch := omega) only [decEngine, cutCmd, packReg_d, packReg_a, packReg_b, packReg_s, packCmdE_acq, packCmdE_rel, packCmdE_k, packCmdE_kv, packCmdE_cf, ext, noExt, bind, Except.bind, pure, Except.pure, bits_low, bits_high, bits_all, bit_low, bit_high, bit_ofBool, Nat.reduceSub]
  simp [-BitVec.getLsbD_eq_getElem]

theorem Laws.RoundTrip.kvapp (h xc xa b acq rel k) : Laws.RoundTrip.Statement (.kvapp h xc xa b acq rel k) := Laws.roundTrip_two rfl fun _ q _ => by
  rw [major_decKv]
  simp (disch := omega) only [decKv, cutCmd, packReg_d, packReg_a, packReg_b, packReg_s, packCmdE_acq, packCmdE_rel, packCmdE_k, packCmdE_kv, packCmdE_cf, ext, noExt, bind, Except.bind, pure, Except.pure, bits_low, bits_high, bits_all, bit_low, bit_high, bit_ofBool, Nat.reduceSub]
  simp [-BitVec.getLsbD_eq_getElem]

theorem Laws.RoundTrip.kvappNew (h xc a acq rel k) : Laws.RoundTrip.Statement (.kvappNew h xc a acq rel k) := Laws.roundTrip_two rfl fun _ q _ => by
  rw [major_decKv]
  simp (disch := omega) only [decKv, cutCmd, packReg_d, packReg_a, packReg_b, packReg_s, packCmdE_acq, packCmdE_rel, packCmdE_k, packCmdE_kv, packCmdE_cf, ext, noExt, bind, Except.bind, pure, Except.pure, bits_low, bits_high, bits_all, bit_low, bit_high, bit_ofBool, Nat.reduceSub]
  simp [-BitVec.getLsbD_eq_getElem]

theorem Laws.RoundTrip.kvappDrop (h xa acq rel k) : Laws.RoundTrip.Statement (.kvappDrop h xa acq rel k) := Laws.roundTrip_two rfl fun _ q _ => by
  rw [major_decKv]
  simp (disch := omega) only [decKv, cutCmd, packReg_d, packReg_a, packReg_b, packReg_s, packCmdE_acq, packCmdE_rel, packCmdE_k, packCmdE_kv, packCmdE_cf, ext, noExt, bind, Except.bind, pure, Except.pure, bits_low, bits_high, bits_all, bit_low, bit_high, bit_ofBool, Nat.reduceSub]
  simp [-BitVec.getLsbD_eq_getElem]

theorem Laws.RoundTrip.kvmap (h xc xa xb pd acq rel k) : Laws.RoundTrip.Statement (.kvmap h xc xa xb pd acq rel k) := Laws.roundTrip_two rfl fun _ q _ => by
  rw [major_decKv]
  simp (disch := omega) only [decKv, cutCmd, packReg_d, packReg_a, packReg_b, packReg_s, packCmdE_acq, packCmdE_rel, packCmdE_k, packCmdE_kv, packCmdE_cf, ext, noExt, bind, Except.bind, pure, Except.pure, bits_low, bits_high, bits_all, bit_low, bit_high, bit_ofBool, Nat.reduceSub]
  simp [-BitVec.getLsbD_eq_getElem]

theorem Laws.RoundTrip.tspawn (h xc xa pd die rel) : Laws.RoundTrip.Statement (.tspawn h xc xa pd die rel) := Laws.roundTrip_two rfl fun w q _ => by
  have w : (decide (xa.toNat ≤ 12)) = true := w
  simp [-BitVec.getLsbD_eq_getElem] at w
  rw [major_decTask]
  simp (disch := omega) only [decTask, cutCmd, packReg_d, packReg_a, packReg_b, packReg_s, packCmdE_acq, packCmdE_rel, packCmdE_k, packCmdE_kv, packCmdE_cf, pdCf, Cmd.bare, ext, noExt, bind, Except.bind, pure, Except.pure, bits_low, bits_high, bits_all, bit_low, bit_high, bit_ofBool, Nat.reduceSub]
  simp [-BitVec.getLsbD_eq_getElem, regMax_ok, *]

theorem Laws.RoundTrip.tpop (h xc xa pd acq) : Laws.RoundTrip.Statement (.tpop h xc xa pd acq) := Laws.roundTrip_two rfl fun w q _ => by
  have w : (decide (xc.toNat ≤ 11)) = true := w
  simp [-BitVec.getLsbD_eq_getElem] at w
  rw [major_decTask]
  simp (disch := omega) only [decTask, cutCmd, packReg_d, packReg_a, packReg_b, packReg_s, packCmdE_acq, packCmdE_rel, packCmdE_k, packCmdE_kv, packCmdE_cf, pdCf, Cmd.bare, ext, noExt, bind, Except.bind, pure, Except.pure, bits_low, bits_high, bits_all, bit_low, bit_high, bit_ofBool, Nat.reduceSub]
  simp [-BitVec.getLsbD_eq_getElem, regMax_ok, *]

theorem Laws.RoundTrip.trepri (h xa xb pd) : Laws.RoundTrip.Statement (.trepri h xa xb pd) := Laws.roundTrip_two rfl fun _ q _ => by
  rw [major_decTask]
  simp (disch := omega) only [decTask, cutCmd, packReg_d, packReg_a, packReg_b, packReg_s, packCmdE_acq, packCmdE_rel, packCmdE_k, packCmdE_kv, packCmdE_cf, pdCf, Cmd.bare, ext, noExt, bind, Except.bind, pure, Except.pure, bits_low, bits_high, bits_all, bit_low, bit_high, bit_ofBool, Nat.reduceSub]
  simp [-BitVec.getLsbD_eq_getElem, regMax_ok]

theorem Laws.RoundTrip.tcancel (h xa pd module k) : Laws.RoundTrip.Statement (.tcancel h xa pd module k) := Laws.roundTrip_two rfl fun _ q _ => by
  rw [major_decTask]
  simp (disch := omega) only [decTask, cutCmd, packReg_d, packReg_a, packReg_b, packReg_s, packCmdE_acq, packCmdE_rel, packCmdE_k, packCmdE_kv, packCmdE_cf, pdCf, Cmd.bare, ext, noExt, bind, Except.bind, pure, Except.pure, bits_low, bits_high, bits_all, bit_low, bit_high, bit_ofBool, Nat.reduceSub]
  simp [-BitVec.getLsbD_eq_getElem, regMax_ok]

theorem Laws.RoundTrip.tcont (h xc xa xb pd rel) : Laws.RoundTrip.Statement (.tcont h xc xa xb pd rel) := Laws.roundTrip_two rfl fun w q _ => by
  have w : (decide (xa.toNat ≤ 12)) = true := w
  simp [-BitVec.getLsbD_eq_getElem] at w
  rw [major_decTask]
  simp (disch := omega) only [decTask, cutCmd, packReg_d, packReg_a, packReg_b, packReg_s, packCmdE_acq, packCmdE_rel, packCmdE_k, packCmdE_kv, packCmdE_cf, pdCf, Cmd.bare, ext, noExt, bind, Except.bind, pure, Except.pure, bits_low, bits_high, bits_all, bit_low, bit_high, bit_ofBool, Nat.reduceSub]
  simp [-BitVec.getLsbD_eq_getElem, regMax_ok, *]

theorem Laws.RoundTrip.tdone (h pd row rel) : Laws.RoundTrip.Statement (.tdone h pd row rel) := Laws.roundTrip_two rfl fun _ q _ => by
  rw [major_decTask]
  simp (disch := omega) only [decTask, cutCmd, packReg_d, packReg_a, packReg_b, packReg_s, packCmdE_acq, packCmdE_rel, packCmdE_k, packCmdE_kv, packCmdE_cf, pdCf, Cmd.bare, ext, noExt, bind, Except.bind, pure, Except.pure, bits_low, bits_high, bits_all, bit_low, bit_high, bit_ofBool, Nat.reduceSub]
  simp [-BitVec.getLsbD_eq_getElem, regMax_ok]

theorem Laws.RoundTrip.cpoint (h pd) : Laws.RoundTrip.Statement (.cpoint h pd) := Laws.roundTrip_two rfl fun _ q _ => by
  rw [major_decTask]
  simp (disch := omega) only [decTask, cutCmd, packReg_d, packReg_a, packReg_b, packReg_s, packCmdE_acq, packCmdE_rel, packCmdE_k, packCmdE_kv, packCmdE_cf, pdCf, Cmd.bare, ext, noExt, bind, Except.bind, pure, Except.pure, bits_low, bits_high, bits_all, bit_low, bit_high, bit_ofBool, Nat.reduceSub]
  simp [-BitVec.getLsbD_eq_getElem, regMax_ok]

theorem Laws.RoundTrip.gnewPlain (h xc xa pd) : Laws.RoundTrip.Statement (.gnewPlain h xc xa pd) := Laws.roundTrip_two rfl fun w q _ => by
  have w : (decide (xc.toNat ≤ 14)) = true := w
  simp [-BitVec.getLsbD_eq_getElem] at w
  rw [major_decTask]
  simp (disch := omega) only [decTask, cutCmd, packReg_d, packReg_a, packReg_b, packReg_s, packCmdE_acq, packCmdE_rel, packCmdE_k, packCmdE_kv, packCmdE_cf, pdCf, Cmd.bare, ext, noExt, bind, Except.bind, pure, Except.pure, bits_low, bits_high, bits_all, bit_low, bit_high, bit_ofBool, Nat.reduceSub]
  simp [-BitVec.getLsbD_eq_getElem, regMax_ok, *]

theorem Laws.RoundTrip.gnewRope (h xc xa pd xb) : Laws.RoundTrip.Statement (.gnewRope h xc xa pd xb) := Laws.roundTrip_two rfl fun w q _ => by
  have w : (decide (xc.toNat ≤ 14)) = true := w
  simp [-BitVec.getLsbD_eq_getElem] at w
  rw [major_decTask]
  simp (disch := omega) only [decTask, cutCmd, packReg_d, packReg_a, packReg_b, packReg_s, packCmdE_acq, packCmdE_rel, packCmdE_k, packCmdE_kv, packCmdE_cf, pdCf, Cmd.bare, ext, noExt, bind, Except.bind, pure, Except.pure, bits_low, bits_high, bits_all, bit_low, bit_high, bit_ofBool, Nat.reduceSub]
  simp [-BitVec.getLsbD_eq_getElem, regMax_ok, *]

theorem Laws.RoundTrip.gnewSib (h xc xa pd) : Laws.RoundTrip.Statement (.gnewSib h xc xa pd) := Laws.roundTrip_two rfl fun w q _ => by
  have w : (decide (xc.toNat ≤ 14)) = true := w
  simp [-BitVec.getLsbD_eq_getElem] at w
  rw [major_decTask]
  simp (disch := omega) only [decTask, cutCmd, packReg_d, packReg_a, packReg_b, packReg_s, packCmdE_acq, packCmdE_rel, packCmdE_k, packCmdE_kv, packCmdE_cf, pdCf, Cmd.bare, ext, noExt, bind, Except.bind, pure, Except.pure, bits_low, bits_high, bits_all, bit_low, bit_high, bit_ofBool, Nat.reduceSub]
  simp [-BitVec.getLsbD_eq_getElem, regMax_ok, *]

theorem Laws.RoundTrip.gnewQ (h xc xa pd) : Laws.RoundTrip.Statement (.gnewQ h xc xa pd) := Laws.roundTrip_two rfl fun w q _ => by
  have w : (decide (xc.toNat ≤ 14)) = true := w
  simp [-BitVec.getLsbD_eq_getElem] at w
  rw [major_decTask]
  simp (disch := omega) only [decTask, cutCmd, packReg_d, packReg_a, packReg_b, packReg_s, packCmdE_acq, packCmdE_rel, packCmdE_k, packCmdE_kv, packCmdE_cf, pdCf, Cmd.bare, ext, noExt, bind, Except.bind, pure, Except.pure, bits_low, bits_high, bits_all, bit_low, bit_high, bit_ofBool, Nat.reduceSub]
  simp [-BitVec.getLsbD_eq_getElem, regMax_ok, *]

theorem Laws.RoundTrip.nalloc (h xc xa pd die) : Laws.RoundTrip.Statement (.nalloc h xc xa pd die) := Laws.roundTrip_two rfl fun _ q _ => by
  rw [major_decNode]
  simp (disch := omega) only [decNode, cutCmd, packReg_d, packReg_a, packReg_b, packReg_s, packCmdE_acq, packCmdE_rel, packCmdE_k, packCmdE_kv, packCmdE_cf, pdCf, Cmd.bare, ext, noExt, bind, Except.bind, pure, Except.pure, bits_low, bits_high, bits_all, bit_low, bit_high, bit_ofBool, Nat.reduceSub]
  simp [-BitVec.getLsbD_eq_getElem, regMax_ok]

theorem Laws.RoundTrip.nallocFree (h xa xb pd) : Laws.RoundTrip.Statement (.nallocFree h xa xb pd) := Laws.roundTrip_two rfl fun _ q _ => by
  rw [major_decNode]
  simp (disch := omega) only [decNode, cutCmd, packReg_d, packReg_a, packReg_b, packReg_s, packCmdE_acq, packCmdE_rel, packCmdE_k, packCmdE_kv, packCmdE_cf, pdCf, Cmd.bare, ext, noExt, bind, Except.bind, pure, Except.pure, bits_low, bits_high, bits_all, bit_low, bit_high, bit_ofBool, Nat.reduceSub]
  simp [-BitVec.getLsbD_eq_getElem, regMax_ok]

theorem Laws.RoundTrip.nrd (h xc xa off dword acq) : Laws.RoundTrip.Statement (.nrd h xc xa off dword acq) := Laws.roundTrip_two rfl fun _ q _ => by
  rw [major_decNode]
  simp (disch := omega) only [decNode, cutCmd, packReg_d, packReg_a, packReg_b, packReg_s, packCmdE_acq, packCmdE_rel, packCmdE_k, packCmdE_kv, packCmdE_cf, pdCf, Cmd.bare, ext, noExt, bind, Except.bind, pure, Except.pure, bits_low, bits_high, bits_all, bit_low, bit_high, bit_ofBool, Nat.reduceSub]
  simp [-BitVec.getLsbD_eq_getElem, regMax_ok]

theorem Laws.RoundTrip.nwr (h xa xb off dword rel k) : Laws.RoundTrip.Statement (.nwr h xa xb off dword rel k) := Laws.roundTrip_two rfl fun _ q _ => by
  rw [major_decNode]
  simp (disch := omega) only [decNode, cutCmd, packReg_d, packReg_a, packReg_b, packReg_s, packCmdE_acq, packCmdE_rel, packCmdE_k, packCmdE_kv, packCmdE_cf, pdCf, Cmd.bare, ext, noExt, bind, Except.bind, pure, Except.pure, bits_low, bits_high, bits_all, bit_low, bit_high, bit_ofBool, Nat.reduceSub]
  simp [-BitVec.getLsbD_eq_getElem, regMax_ok]

theorem Laws.RoundTrip.nvloss (h xa xb acq k) : Laws.RoundTrip.Statement (.nvloss h xa xb acq k) := Laws.roundTrip_two rfl fun _ q _ => by
  rw [major_decNode]
  simp (disch := omega) only [decNode, cutCmd, packReg_d, packReg_a, packReg_b, packReg_s, packCmdE_acq, packCmdE_rel, packCmdE_k, packCmdE_kv, packCmdE_cf, pdCf, Cmd.bare, ext, noExt, bind, Except.bind, pure, Except.pure, bits_low, bits_high, bits_all, bit_low, bit_high, bit_ofBool, Nat.reduceSub]
  simp [-BitVec.getLsbD_eq_getElem, regMax_ok]

theorem Laws.RoundTrip.nbackup (h neg xa xb xc acq k) : Laws.RoundTrip.Statement (.nbackup h neg xa xb xc acq k) := Laws.roundTrip_two rfl fun _ q _ => by
  rw [major_decNode]
  simp (disch := omega) only [decNode, cutCmd, packReg_d, packReg_a, packReg_b, packReg_s, packCmdE_acq, packCmdE_rel, packCmdE_k, packCmdE_kv, packCmdE_cf, pdCf, Cmd.bare, ext, noExt, bind, Except.bind, pure, Except.pure, bits_low, bits_high, bits_all, bit_low, bit_high, bit_ofBool, Nat.reduceSub]
  simp [-BitVec.getLsbD_eq_getElem, regMax_ok]

theorem Laws.RoundTrip.nsel (h xc xa xb pd) : Laws.RoundTrip.Statement (.nsel h xc xa xb pd) := Laws.roundTrip_two rfl fun w q _ => by
  have w : (decide (xb.toNat ≤ 14)) = true := w
  simp [-BitVec.getLsbD_eq_getElem] at w
  rw [major_decNode]
  simp (disch := omega) only [decNode, cutCmd, packReg_d, packReg_a, packReg_b, packReg_s, packCmdE_acq, packCmdE_rel, packCmdE_k, packCmdE_kv, packCmdE_cf, pdCf, Cmd.bare, ext, noExt, bind, Except.bind, pure, Except.pure, bits_low, bits_high, bits_all, bit_low, bit_high, bit_ofBool, Nat.reduceSub]
  simp [-BitVec.getLsbD_eq_getElem, regMax_ok, *]

theorem Laws.RoundTrip.ballot (h abst xc xa rel) : Laws.RoundTrip.Statement (.ballot h abst xc xa rel) := Laws.roundTrip_two rfl fun _ q _ => by
  rw [major_decBallot]
  simp (disch := omega) only [decBallot, cutCmd, packReg_d, packReg_a, packReg_b, packReg_s, packCmdE_acq, packCmdE_rel, packCmdE_k, packCmdE_kv, packCmdE_cf, pdCf, Cmd.bare, ext, noExt, bind, Except.bind, pure, Except.pure, bits_low, bits_high, bits_all, bit_low, bit_high, bit_ofBool, Nat.reduceSub]
  simp [-BitVec.getLsbD_eq_getElem]

theorem Laws.RoundTrip.collAr (h xa acq rel k) : Laws.RoundTrip.Statement (.collAr h xa acq rel k) := Laws.roundTrip_two rfl fun _ q _ => by
  rw [major_decFabric]
  simp (disch := omega) only [decFabric, cutCmd, packReg_d, packReg_a, packReg_b, packReg_s, packCmdE_acq, packCmdE_rel, packCmdE_k, packCmdE_kv, packCmdE_cf, Cmd.bare, ext, noExt, bind, Except.bind, pure, Except.pure, bits_low, bits_high, bits_all, bit_low, bit_high, bit_ofBool, Nat.reduceSub]
  simp [-BitVec.getLsbD_eq_getElem, regMax_ok]

theorem Laws.RoundTrip.collAg (h xa acq rel k) : Laws.RoundTrip.Statement (.collAg h xa acq rel k) := Laws.roundTrip_two rfl fun _ q _ => by
  rw [major_decFabric]
  simp (disch := omega) only [decFabric, cutCmd, packReg_d, packReg_a, packReg_b, packReg_s, packCmdE_acq, packCmdE_rel, packCmdE_k, packCmdE_kv, packCmdE_cf, Cmd.bare, ext, noExt, bind, Except.bind, pure, Except.pure, bits_low, bits_high, bits_all, bit_low, bit_high, bit_ofBool, Nat.reduceSub]
  simp [-BitVec.getLsbD_eq_getElem, regMax_ok]

theorem Laws.RoundTrip.collRs (h xa acq rel k) : Laws.RoundTrip.Statement (.collRs h xa acq rel k) := Laws.roundTrip_two rfl fun _ q _ => by
  rw [major_decFabric]
  simp (disch := omega) only [decFabric, cutCmd, packReg_d, packReg_a, packReg_b, packReg_s, packCmdE_acq, packCmdE_rel, packCmdE_k, packCmdE_kv, packCmdE_cf, Cmd.bare, ext, noExt, bind, Except.bind, pure, Except.pure, bits_low, bits_high, bits_all, bit_low, bit_high, bit_ofBool, Nat.reduceSub]
  simp [-BitVec.getLsbD_eq_getElem, regMax_ok]

theorem Laws.RoundTrip.collA2a (h xa acq rel k) : Laws.RoundTrip.Statement (.collA2a h xa acq rel k) := Laws.roundTrip_two rfl fun _ q _ => by
  rw [major_decFabric]
  simp (disch := omega) only [decFabric, cutCmd, packReg_d, packReg_a, packReg_b, packReg_s, packCmdE_acq, packCmdE_rel, packCmdE_k, packCmdE_kv, packCmdE_cf, Cmd.bare, ext, noExt, bind, Except.bind, pure, Except.pure, bits_low, bits_high, bits_all, bit_low, bit_high, bit_ofBool, Nat.reduceSub]
  simp [-BitVec.getLsbD_eq_getElem, regMax_ok]

theorem Laws.RoundTrip.repart (h xa acq rel k) : Laws.RoundTrip.Statement (.repart h xa acq rel k) := Laws.roundTrip_two rfl fun _ q _ => by
  rw [major_decFabric]
  simp (disch := omega) only [decFabric, cutCmd, packReg_d, packReg_a, packReg_b, packReg_s, packCmdE_acq, packCmdE_rel, packCmdE_k, packCmdE_kv, packCmdE_cf, Cmd.bare, ext, noExt, bind, Except.bind, pure, Except.pure, bits_low, bits_high, bits_all, bit_low, bit_high, bit_ofBool, Nat.reduceSub]
  simp [-BitVec.getLsbD_eq_getElem, regMax_ok]

theorem Laws.RoundTrip.disp (h xc xa xb pd t) : Laws.RoundTrip.Statement (.disp h xc xa xb pd t) := Laws.roundTrip_two rfl fun w q _ => by
  have w : (decide (xc.toNat ≤ 14)) = true := w
  simp [-BitVec.getLsbD_eq_getElem] at w
  rw [major_decFabric]
  simp (disch := omega) only [decFabric, cutCmd, packReg_d, packReg_a, packReg_b, packReg_s, packCmdE_acq, packCmdE_rel, packCmdE_k, packCmdE_kv, packCmdE_cf, Cmd.bare, ext, noExt, bind, Except.bind, pure, Except.pure, bits_low, bits_high, bits_all, bit_low, bit_high, bit_ofBool, Nat.reduceSub]
  simp [-BitVec.getLsbD_eq_getElem, regMax_ok, *]

theorem Laws.RoundTrip.dispMb (h t k) : Laws.RoundTrip.Statement (.dispMb h t k) := Laws.roundTrip_two rfl fun _ q _ => by
  rw [major_decFabric]
  simp (disch := omega) only [decFabric, cutCmd, packReg_d, packReg_a, packReg_b, packReg_s, packCmdE_acq, packCmdE_rel, packCmdE_k, packCmdE_kv, packCmdE_cf, Cmd.bare, ext, noExt, bind, Except.bind, pure, Except.pure, bits_low, bits_high, bits_all, bit_low, bit_high, bit_ofBool, Nat.reduceSub]
  simp [-BitVec.getLsbD_eq_getElem, regMax_ok]

theorem Laws.RoundTrip.gparm (h xa xb n rel) : Laws.RoundTrip.Statement (.gparm h xa xb n rel) := Laws.roundTrip_two rfl fun _ q _ => by
  rw [major_decGraph]
  simp (disch := omega) only [decGraph, cutCmd, packReg_d, packReg_a, packReg_b, packReg_s, packCmdE_acq, packCmdE_rel, packCmdE_k, packCmdE_kv, packCmdE_cf, Cmd.bare, ext, noExt, bind, Except.bind, pure, Except.pure, bits_low, bits_high, bits_all, bit_low, bit_high, bit_ofBool, Nat.reduceSub]
  simp [-BitVec.getLsbD_eq_getElem]

theorem Laws.RoundTrip.gparmReplay (h xb rel) : Laws.RoundTrip.Statement (.gparmReplay h xb rel) := Laws.roundTrip_two rfl fun _ q _ => by
  rw [major_decGraph]
  simp (disch := omega) only [decGraph, cutCmd, packReg_d, packReg_a, packReg_b, packReg_s, packCmdE_acq, packCmdE_rel, packCmdE_k, packCmdE_kv, packCmdE_cf, Cmd.bare, ext, noExt, bind, Except.bind, pure, Except.pure, bits_low, bits_high, bits_all, bit_low, bit_high, bit_ofBool, Nat.reduceSub]
  simp [-BitVec.getLsbD_eq_getElem]

theorem Laws.RoundTrip.hring (h flush drop xa xb rel k) : Laws.RoundTrip.Statement (.hring h flush drop xa xb rel k) := Laws.roundTrip_two rfl fun _ q _ => by
  rw [major_decGraph]
  simp (disch := omega) only [decGraph, cutCmd, packReg_d, packReg_a, packReg_b, packReg_s, packCmdE_acq, packCmdE_rel, packCmdE_k, packCmdE_kv, packCmdE_cf, Cmd.bare, ext, noExt, bind, Except.bind, pure, Except.pure, bits_low, bits_high, bits_all, bit_low, bit_high, bit_ofBool, Nat.reduceSub]
  simp [-BitVec.getLsbD_eq_getElem]

theorem Laws.RoundTrip.time (h xc) : Laws.RoundTrip.Statement (.time h xc) := Laws.roundTrip_two rfl fun _ q _ => by
  rw [major_decGraph]
  simp (disch := omega) only [decGraph, cutCmd, packReg_d, packReg_a, packReg_b, packReg_s, packCmdE_acq, packCmdE_rel, packCmdE_k, packCmdE_kv, packCmdE_cf, Cmd.bare, ext, noExt, bind, Except.bind, pure, Except.pure, bits_low, bits_high, bits_all, bit_low, bit_high, bit_ofBool, Nat.reduceSub]
  simp [-BitVec.getLsbD_eq_getElem]

theorem Laws.RoundTrip.trap (h n) : Laws.RoundTrip.Statement (.trap h n) := Laws.roundTrip_one rfl fun w q _ => by
  have w : (h.oneWord) = true := w
  rw [major_decSys]
  simp (disch := omega) only [decSys, packCpl_s, packCpl_r, packCpl_n, ext, noExt, bind, Except.bind, pure, Except.pure, bits_low, bits_high, bits_all, bit_low, bit_high, bit_ofBool, Nat.reduceSub]
  simp [-BitVec.getLsbD_eq_getElem, Hdr.of_oneWord, *]

theorem Laws.RoundTrip.eret (h) : Laws.RoundTrip.Statement (.eret h) := Laws.roundTrip_one rfl fun w q _ => by
  have w : (h.oneWord) = true := w
  rw [major_decSys]
  simp (disch := omega) only [decSys, packCpl_s, packCpl_r, packCpl_n, ext, noExt, bind, Except.bind, pure, Except.pure, bits_low, bits_high, bits_all, bit_low, bit_high, bit_ofBool, Nat.reduceSub]
  simp [-BitVec.getLsbD_eq_getElem, Hdr.of_oneWord, *]

theorem Laws.RoundTrip.sysrd (h xd reg) : Laws.RoundTrip.Statement (.sysrd h xd reg) := Laws.roundTrip_one rfl fun w q _ => by
  have w : (h.oneWord) = true := w
  rw [major_decSys]
  simp (disch := omega) only [decSys, packCpl_s, packCpl_r, packCpl_n, ext, noExt, bind, Except.bind, pure, Except.pure, bits_low, bits_high, bits_all, bit_low, bit_high, bit_ofBool, Nat.reduceSub]
  simp [-BitVec.getLsbD_eq_getElem, Hdr.of_oneWord, *]

theorem Laws.RoundTrip.syswr (h reg xs) : Laws.RoundTrip.Statement (.syswr h reg xs) := Laws.roundTrip_one rfl fun w q _ => by
  have w : (h.oneWord) = true := w
  rw [major_decSys]
  simp (disch := omega) only [decSys, packCpl_s, packCpl_r, packCpl_n, ext, noExt, bind, Except.bind, pure, Except.pure, bits_low, bits_high, bits_all, bit_low, bit_high, bit_ofBool, Nat.reduceSub]
  simp [-BitVec.getLsbD_eq_getElem, Hdr.of_oneWord, *]

theorem Laws.RoundTrip.yield (h) : Laws.RoundTrip.Statement (.yield h) := Laws.roundTrip_one rfl fun w q _ => by
  have w : (h.oneWord) = true := w
  rw [major_decSys]
  simp (disch := omega) only [decSys, packCpl_s, packCpl_r, packCpl_n, ext, noExt, bind, Except.bind, pure, Except.pure, bits_low, bits_high, bits_all, bit_low, bit_high, bit_ofBool, Nat.reduceSub]
  simp [-BitVec.getLsbD_eq_getElem, Hdr.of_oneWord, *]

theorem Laws.RoundTrip.idle (h xa) : Laws.RoundTrip.Statement (.idle h xa) := Laws.roundTrip_one rfl fun w q _ => by
  have w : (h.oneWord) = true := w
  rw [major_decSys]
  simp (disch := omega) only [decSys, packCpl_s, packCpl_r, packCpl_n, ext, noExt, bind, Except.bind, pure, Except.pure, bits_low, bits_high, bits_all, bit_low, bit_high, bit_ofBool, Nat.reduceSub]
  simp [-BitVec.getLsbD_eq_getElem, Hdr.of_oneWord, *]

theorem Laws.RoundTrip.bkpt (h n) : Laws.RoundTrip.Statement (.bkpt h n) := Laws.roundTrip_one rfl fun w q _ => by
  have w : (h.oneWord) = true := w
  rw [major_decSys]
  simp (disch := omega) only [decSys, packCpl_s, packCpl_r, packCpl_n, ext, noExt, bind, Except.bind, pure, Except.pure, bits_low, bits_high, bits_all, bit_low, bit_high, bit_ofBool, Nat.reduceSub]
  simp [-BitVec.getLsbD_eq_getElem, Hdr.of_oneWord, *]

theorem Laws.RoundTrip.spbeg (h xa xb) : Laws.RoundTrip.Statement (.spbeg h xa xb) := Laws.roundTrip_one rfl fun w q _ => by
  have w : (h.oneWord) = true := w
  rw [major_decBivouac]
  simp (disch := omega) only [decBivouac, packReg_d, packReg_a, packReg_b, packReg_s, packReg_s3, packReg_sLow, ext, noExt, bind, Except.bind, pure, Except.pure, bits_low, bits_high, bits_all, bit_low, bit_high, bit_ofBool, Nat.reduceSub]
  simp [-BitVec.getLsbD_eq_getElem, Hdr.of_oneWord, *]

theorem Laws.RoundTrip.spcom (h) : Laws.RoundTrip.Statement (.spcom h) := Laws.roundTrip_one rfl fun w q _ => by
  have w : (h.oneWord) = true := w
  rw [major_decBivouac]
  simp (disch := omega) only [decBivouac, packReg_d, packReg_a, packReg_b, packReg_s, packReg_s3, packReg_sLow, ext, noExt, bind, Except.bind, pure, Except.pure, bits_low, bits_high, bits_all, bit_low, bit_high, bit_ofBool, Nat.reduceSub]
  simp [-BitVec.getLsbD_eq_getElem, Hdr.of_oneWord, *]

theorem Laws.RoundTrip.spabt (h) : Laws.RoundTrip.Statement (.spabt h) := Laws.roundTrip_one rfl fun w q _ => by
  have w : (h.oneWord) = true := w
  rw [major_decBivouac]
  simp (disch := omega) only [decBivouac, packReg_d, packReg_a, packReg_b, packReg_s, packReg_s3, packReg_sLow, ext, noExt, bind, Except.bind, pure, Except.pure, bits_low, bits_high, bits_all, bit_low, bit_high, bit_ofBool, Nat.reduceSub]
  simp [-BitVec.getLsbD_eq_getElem, Hdr.of_oneWord, *]

theorem Laws.RoundTrip.uncorrTrap (core q) : Laws.RoundTrip.Statement (.uncorrTrap core q) := Laws.roundTrip_none rfl

theorem Laws.RoundTrip.engineTrap (core) : Laws.RoundTrip.Statement (.engineTrap core) := Laws.roundTrip_none rfl

theorem Laws.RoundTrip.timer (core q) : Laws.RoundTrip.Statement (.timer core q) := Laws.roundTrip_none rfl

theorem Laws.RoundTrip.loadReturn (core op) : Laws.RoundTrip.Statement (.loadReturn core op) := Laws.roundTrip_none rfl

theorem Laws.RoundTrip.storePerform (core op) : Laws.RoundTrip.Statement (.storePerform core op) := Laws.roundTrip_none rfl

theorem Laws.RoundTrip.atomicPerform (core op) : Laws.RoundTrip.Statement (.atomicPerform core op) := Laws.roundTrip_none rfl

theorem Laws.RoundTrip.fenceComplete (core op) : Laws.RoundTrip.Statement (.fenceComplete core op) := Laws.roundTrip_none rfl

theorem Laws.RoundTrip.xferComplete (core op) : Laws.RoundTrip.Statement (.xferComplete core op) := Laws.roundTrip_none rfl

theorem Laws.RoundTrip.wait4Check (core q) : Laws.RoundTrip.Statement (.wait4Check core q) := Laws.roundTrip_none rfl

theorem Laws.RoundTrip.bivouacCopyDone (core) : Laws.RoundTrip.Statement (.bivouacCopyDone core) := Laws.roundTrip_none rfl

theorem Laws.RoundTrip.admission (die) : Laws.RoundTrip.Statement (.admission die) := Laws.roundTrip_none rfl

theorem Laws.RoundTrip.startHoldEnd (die launch) : Laws.RoundTrip.Statement (.startHoldEnd die launch) := Laws.roundTrip_none rfl

theorem Laws.RoundTrip.instanceEnd (core) : Laws.RoundTrip.Statement (.instanceEnd core) := Laws.roundTrip_none rfl

theorem Laws.RoundTrip.launchAbort (die launch code) : Laws.RoundTrip.Statement (.launchAbort die launch code) := Laws.roundTrip_none rfl

theorem Laws.RoundTrip.stealRequest (core level) : Laws.RoundTrip.Statement (.stealRequest core level) := Laws.roundTrip_none rfl

theorem Laws.RoundTrip.stealGrant (core level) : Laws.RoundTrip.Statement (.stealGrant core level) := Laws.roundTrip_none rfl

theorem Laws.RoundTrip.belayGrant (cluster) : Laws.RoundTrip.Statement (.belayGrant cluster) := Laws.roundTrip_none rfl

theorem Laws.RoundTrip.belayRunEnd (cluster) : Laws.RoundTrip.Statement (.belayRunEnd cluster) := Laws.roundTrip_none rfl

theorem Laws.RoundTrip.tileTaskIssue (cluster arr) : Laws.RoundTrip.Statement (.tileTaskIssue cluster arr) := Laws.roundTrip_none rfl

theorem Laws.RoundTrip.tileTaskComplete (cluster arr) : Laws.RoundTrip.Statement (.tileTaskComplete cluster arr) := Laws.roundTrip_none rfl

theorem Laws.RoundTrip.samplerRequest (die) : Laws.RoundTrip.Statement (.samplerRequest die) := Laws.roundTrip_none rfl

theorem Laws.RoundTrip.beamRequest (die) : Laws.RoundTrip.Statement (.beamRequest die) := Laws.roundTrip_none rfl

theorem Laws.RoundTrip.evalHandoff (die) : Laws.RoundTrip.Statement (.evalHandoff die) := Laws.roundTrip_none rfl

theorem Laws.RoundTrip.binWindowExpiry (die bin) : Laws.RoundTrip.Statement (.binWindowExpiry die bin) := Laws.roundTrip_none rfl

theorem Laws.RoundTrip.binLaunch (die) : Laws.RoundTrip.Statement (.binLaunch die) := Laws.roundTrip_none rfl

theorem Laws.RoundTrip.sweep (die) : Laws.RoundTrip.Statement (.sweep die) := Laws.roundTrip_none rfl

theorem Laws.RoundTrip.remoteTref (raise handle) : Laws.RoundTrip.Statement (.remoteTref raise handle) := Laws.roundTrip_none rfl

theorem Laws.RoundTrip.remoteTcancel (group) : Laws.RoundTrip.Statement (.remoteTcancel group) := Laws.roundTrip_none rfl

theorem Laws.RoundTrip.tcancelComplete (core op) : Laws.RoundTrip.Statement (.tcancelComplete core op) := Laws.roundTrip_none rfl

theorem Laws.RoundTrip.groupFree (group) : Laws.RoundTrip.Statement (.groupFree group) := Laws.roundTrip_none rfl

theorem Laws.RoundTrip.walkComplete (core op) : Laws.RoundTrip.Statement (.walkComplete core op) := Laws.roundTrip_none rfl

theorem Laws.RoundTrip.remoteWalk (issuer backup neg handle v togo) : Laws.RoundTrip.Statement (.remoteWalk issuer backup neg handle v togo) := Laws.roundTrip_none rfl

theorem Laws.RoundTrip.kvBroadcast (sid blk entry epoch) : Laws.RoundTrip.Statement (.kvBroadcast sid blk entry epoch) := Laws.roundTrip_none rfl

theorem Laws.RoundTrip.sbtFetch (sid blk entry epoch) : Laws.RoundTrip.Statement (.sbtFetch sid blk entry epoch) := Laws.roundTrip_none rfl

theorem Laws.RoundTrip.sstLookup (core op addr tier valid) : Laws.RoundTrip.Statement (.sstLookup core op addr tier valid) := Laws.roundTrip_none rfl

theorem Laws.RoundTrip.kvPlace (core op block) : Laws.RoundTrip.Statement (.kvPlace core op block) := Laws.roundTrip_none rfl

theorem Laws.RoundTrip.collectiveComplete (setId n others) : Laws.RoundTrip.Statement (.collectiveComplete setId n others) := Laws.roundTrip_none rfl

theorem Laws.RoundTrip.repartComplete (setId n others) : Laws.RoundTrip.Statement (.repartComplete setId n others) := Laws.roundTrip_none rfl

theorem Laws.RoundTrip.remoteAccess (asid off sup req) : Laws.RoundTrip.Statement (.remoteAccess asid off sup req) := Laws.roundTrip_none rfl

theorem Laws.RoundTrip.remoteResponse (ans) : Laws.RoundTrip.Statement (.remoteResponse ans) := Laws.roundTrip_none rfl

theorem Laws.RoundTrip.graphNodeStart (die slot) : Laws.RoundTrip.Statement (.graphNodeStart die slot) := Laws.roundTrip_none rfl

theorem Laws.RoundTrip.graphNodeComplete (die slot) : Laws.RoundTrip.Statement (.graphNodeComplete die slot) := Laws.roundTrip_none rfl

theorem Laws.RoundTrip.nowaitWorkEnd (die slot idx) : Laws.RoundTrip.Statement (.nowaitWorkEnd die slot idx) := Laws.roundTrip_none rfl

theorem Laws.RoundTrip.waitNodeTimeout (die slot) : Laws.RoundTrip.Statement (.waitNodeTimeout die slot) := Laws.roundTrip_none rfl

theorem Laws.RoundTrip.hostRingTimer (die ring) : Laws.RoundTrip.Statement (.hostRingTimer die ring) := Laws.roundTrip_none rfl

theorem Laws.RoundTrip.preemptTimeout (die) : Laws.RoundTrip.Statement (.preemptTimeout die) := Laws.roundTrip_none rfl

theorem Laws.RoundTrip.preemptSave (die) : Laws.RoundTrip.Statement (.preemptSave die) := Laws.roundTrip_none rfl

theorem Laws.RoundTrip.hlaunch (die value) : Laws.RoundTrip.Statement (.hlaunch die value) := Laws.roundTrip_none rfl

theorem Laws.RoundTrip.labort (die value) : Laws.RoundTrip.Statement (.labort die value) := Laws.roundTrip_none rfl

theorem Laws.RoundTrip.preq (die value) : Laws.RoundTrip.Statement (.preq die value) := Laws.roundTrip_none rfl

theorem Laws.RoundTrip.resume (die value) : Laws.RoundTrip.Statement (.resume die value) := Laws.roundTrip_none rfl

theorem Laws.RoundTrip.greplay (die slot) : Laws.RoundTrip.Statement (.greplay die slot) := Laws.roundTrip_none rfl

theorem Laws.RoundTrip.gabort (die slot) : Laws.RoundTrip.Statement (.gabort die slot) := Laws.roundTrip_none rfl

theorem Laws.RoundTrip.hrccntWrite (die ring value) : Laws.RoundTrip.Statement (.hrccntWrite die ring value) := Laws.roundTrip_none rfl

theorem Laws.RoundTrip.hrcfgWrite (die ring value) : Laws.RoundTrip.Statement (.hrcfgWrite die ring value) := Laws.roundTrip_none rfl

theorem Laws.RoundTrip.tlbiOnePage (asid) : Laws.RoundTrip.Statement (.tlbiOnePage asid) := Laws.roundTrip_none rfl

theorem Laws.RoundTrip.tlbiOneSpace (asid) : Laws.RoundTrip.Statement (.tlbiOneSpace asid) := Laws.roundTrip_none rfl

theorem Laws.RoundTrip.tlbiAll : Laws.RoundTrip.Statement .tlbiAll := Laws.roundTrip_none rfl

theorem Laws.RoundTrip.tlbiDone : Laws.RoundTrip.Statement .tlbiDone := Laws.roundTrip_none rfl

theorem Laws.RoundTrip.keyLoad (slot) : Laws.RoundTrip.Statement (.keyLoad slot) := Laws.roundTrip_none rfl

theorem Laws.RoundTrip.keyRetire (slot) : Laws.RoundTrip.Statement (.keyRetire slot) := Laws.roundTrip_none rfl

theorem Laws.RoundTrip.keyErase (slot) : Laws.RoundTrip.Statement (.keyErase slot) := Laws.roundTrip_none rfl

theorem Laws.RoundTrip.keyBind (slot group) : Laws.RoundTrip.Statement (.keyBind slot group) := Laws.roundTrip_none rfl

theorem Laws.RoundTrip.keyUnbind (slot) : Laws.RoundTrip.Statement (.keyUnbind slot) := Laws.roundTrip_none rfl

theorem Laws.RoundTrip.dispatchTableWrite (die t off value) : Laws.RoundTrip.Statement (.dispatchTableWrite die t off value) := Laws.roundTrip_none rfl

theorem Laws.RoundTrip.hostApertureAccess (req) : Laws.RoundTrip.Statement (.hostApertureAccess req) := Laws.roundTrip_none rfl

theorem Laws.RoundTrip.registerWrite (off value) : Laws.RoundTrip.Statement (.registerWrite off value) := Laws.roundTrip_none rfl

theorem Laws.RoundTrip.resetctlModule : Laws.RoundTrip.Statement .resetctlModule := Laws.roundTrip_none rfl

theorem Laws.RoundTrip.resetctlFunction : Laws.RoundTrip.Statement .resetctlFunction := Laws.roundTrip_none rfl

theorem Laws.RoundTrip.pcieFlr : Laws.RoundTrip.Statement .pcieFlr := Laws.roundTrip_none rfl

theorem Laws.RoundTrip.powerOn : Laws.RoundTrip.Statement .powerOn := Laws.roundTrip_none rfl

theorem Laws.RoundTrip.modidTimeout : Laws.RoundTrip.Statement .modidTimeout := Laws.roundTrip_none rfl

theorem Laws.RoundTrip.mctpRead (hostBinding off) : Laws.RoundTrip.Statement (.mctpRead hostBinding off) := Laws.roundTrip_none rfl

theorem Laws.RoundTrip.mctpWrite (hostBinding off value) : Laws.RoundTrip.Statement (.mctpWrite hostBinding off value) := Laws.roundTrip_none rfl

theorem Laws.RoundTrip.attest (nonce) : Laws.RoundTrip.Statement (.attest nonce) := Laws.roundTrip_none rfl

theorem Laws.RoundTrip.cntclr (value) : Laws.RoundTrip.Statement (.cntclr value) := Laws.roundTrip_none rfl

theorem Laws.RoundTrip.pcapWrite (value) : Laws.RoundTrip.Statement (.pcapWrite value) := Laws.roundTrip_none rfl

theorem Laws.RoundTrip.pfloorWrite (value) : Laws.RoundTrip.Statement (.pfloorWrite value) := Laws.roundTrip_none rfl

theorem Laws.RoundTrip.modidWrite (value) : Laws.RoundTrip.Statement (.modidWrite value) := Laws.roundTrip_none rfl

theorem Laws.RoundTrip.failedClear (die t expert) : Laws.RoundTrip.Statement (.failedClear die t expert) := Laws.roundTrip_none rfl

theorem Laws.RoundTrip.requestUpdate (hostBinding) : Laws.RoundTrip.Statement (.requestUpdate hostBinding) := Laws.roundTrip_none rfl

theorem Laws.RoundTrip.firmwareImageTransfer (off bytes) : Laws.RoundTrip.Statement (.firmwareImageTransfer off bytes) := Laws.roundTrip_none rfl

theorem Laws.RoundTrip.verifyComplete : Laws.RoundTrip.Statement .verifyComplete := Laws.roundTrip_none rfl

theorem Laws.RoundTrip.activateFirmware (svnRaise) : Laws.RoundTrip.Statement (.activateFirmware svnRaise) := Laws.roundTrip_none rfl

theorem Laws.RoundTrip.platformEventMessage : Laws.RoundTrip.Statement .platformEventMessage := Laws.roundTrip_none rfl

theorem Laws.RoundTrip.arbiterPeriod (sram hbm links vector arrays) : Laws.RoundTrip.Statement (.arbiterPeriod sram hbm links vector arrays) := Laws.roundTrip_none rfl

theorem Laws.RoundTrip.thermalTrip (die) : Laws.RoundTrip.Statement (.thermalTrip die) := Laws.roundTrip_none rfl

theorem Laws.RoundTrip.thermalClear (die) : Laws.RoundTrip.Statement (.thermalClear die) := Laws.roundTrip_none rfl

theorem Laws.RoundTrip.ageRefresh (die value) : Laws.RoundTrip.Statement (.ageRefresh die value) := Laws.roundTrip_none rfl

theorem Laws.RoundTrip.eolRecompute (months) : Laws.RoundTrip.Statement (.eolRecompute months) := Laws.roundTrip_none rfl

theorem Laws.RoundTrip.heartbeat (die) : Laws.RoundTrip.Statement (.heartbeat die) := Laws.roundTrip_none rfl

theorem Laws.RoundTrip.heartbeatAnswer (die module) : Laws.RoundTrip.Statement (.heartbeatAnswer die module) := Laws.roundTrip_none rfl

theorem Laws.RoundTrip.timeLock : Laws.RoundTrip.Statement .timeLock := Laws.roundTrip_none rfl

theorem Laws.RoundTrip.timeUnlock : Laws.RoundTrip.Statement .timeUnlock := Laws.roundTrip_none rfl

theorem Laws.RoundTrip.portDown (port) : Laws.RoundTrip.Statement (.portDown port) := Laws.roundTrip_none rfl

theorem Laws.RoundTrip.portRetrain (port lanes nport nmod) : Laws.RoundTrip.Statement (.portRetrain port lanes nport nmod) := Laws.roundTrip_none rfl

theorem Laws.RoundTrip.routeRecompute (reachable) : Laws.RoundTrip.Statement (.routeRecompute reachable) := Laws.roundTrip_none rfl

theorem Laws.RoundTrip.idleTimeout (core q) : Laws.RoundTrip.Statement (.idleTimeout core q) := Laws.roundTrip_none rfl

theorem Laws.RoundTrip.mdrainComplete (core op) : Laws.RoundTrip.Statement (.mdrainComplete core op) := Laws.roundTrip_none rfl

theorem Laws.RoundTrip.managementModuleReset : Laws.RoundTrip.Statement .managementModuleReset := Laws.roundTrip_none rfl

theorem Laws.RoundTrip.setEventReceiver (receiver) : Laws.RoundTrip.Statement (.setEventReceiver receiver) := Laws.roundTrip_none rfl

theorem Laws.RoundTrip.farTierHostWrite (ha bytes) : Laws.RoundTrip.Statement (.farTierHostWrite ha bytes) := Laws.roundTrip_none rfl

theorem Laws.RoundTrip.launchForward (die packet place origin) :
    Laws.RoundTrip.Statement (.launchForward die packet place origin) := Laws.roundTrip_none rfl

end Sys2Proof
end

