-- ==== Sys2Proof/Tests/Slice0.lean ====
section
/-! SUPPORT. Small tests: ill-formed terms that the check refuses, words written out from the spec's encodings with the
instructions they stand for, single steps whose result the spec gives, and for every statement with hypotheses a concrete
state that meets them. -/

set_option Elab.async false

namespace Sys2Proof.Tests

open Sys2Proof Sys2Proof.Machine

/-- The header without tokens under guard p15. -/
def u : Hdr := ⟨⟨false, false, false, false⟩, 15, false, ⟨false, false, false, false⟩⟩

/-- The same with a token bit that a one-word form has no place for. -/
def uTwo : Hdr := { u with t1 := ⟨true, false, false, false⟩ }

/-! ## Ill-formed terms -/

theorem test_wf_second_nibble : (Instr.add uTwo 3 1 2).wf = false ∧ (Instr.add u 3 1 2).wf = true := by decide

theorem test_wf_pool_unguarded : (Instr.pool { u with g := 3 } 1).wf = false ∧ (Instr.pool u 1).wf = true := by decide

theorem test_wf_pool_not_negated : (Instr.pool { u with gn := true } 1).wf = false := by decide

theorem test_wf_bexp_odd_register : (Instr.bexp u 5).wf = false ∧ (Instr.bexp u 4).wf = true := by decide

theorem test_wf_bwait_odd_register : (Instr.bwait u .mod 15).wf = false ∧ (Instr.bwait u .mod 14).wf = true := by decide

theorem test_wf_fcvt_no_stochastic : (Instr.fcvt u 3 1 .fp32 .fp16 .sr false).wf = false ∧
    (Instr.fcvt u 3 1 .fp32 .fp16 .rne false).wf = true := by decide

theorem test_wf_reel_type : (Instr.dqpush u .i16 1 (.tile 0 0) (.tile 1 0) 1).wf = false ∧
    (Instr.dqpush u .u32 1 (.tile 0 0) (.tile 1 0) 1).wf = true := by decide

theorem test_wf_reel_values : (Instr.dqpush u .fp32 1 (.tile 0 0) (.tile 1 13) 4).wf = false ∧
    (Instr.dqpush u .fp32 1 (.tile 0 0) (.tile 1 12) 4).wf = true ∧ (Instr.dqpush u .fp32 1 (.tile 0 0) .latch 2).wf = false ∧
    (Instr.dqpush u .fp32 1 (.tile 0 0) (.tile 1 0) 5).wf = false := by decide

theorem test_wf_drain_rows : (Instr.dqdrain u .fp32 0 13 false 1 3).wf = false ∧
    (Instr.dqdrain u .fp32 0 12 false 1 3).wf = true := by decide

theorem test_wf_rows_ldt_stt : (Instr.ldt u 4 1 15 1 0 .none none).wf = false ∧ (Instr.ldt u 4 0 15 1 0 .none none).wf = true ∧
    (Instr.stt u 4 15 1 1 0 none).wf = false := by decide

theorem test_wf_element_size : (Instr.gath u 1 2 3 13 none none none none none).wf = false ∧
    (Instr.scat u 1 2 3 13 none none none none none).wf = false ∧
    (Instr.gath u 1 2 3 12 none none none none none).wf = true := by decide

theorem test_wf_vamo_cas_row : (Instr.vamoCas u true 1 none none none 6 15 5 0).wf = false ∧
    (Instr.vamoCas u true 1 none none none 6 14 5 0).wf = true := by decide

theorem test_wf_sat_integer_only : (Instr.vadd u .fp32 true (.tile 0 0) (.tile 1 0) (.tile 2 0)).wf = false ∧
    (Instr.vadd u .i8 true (.tile 0 0) (.tile 1 0) (.tile 2 0)).wf = true := by decide

theorem test_wf_no_broadcast_destination : (Instr.vadd u .i8 false (.bcast 1) (.tile 1 0) (.tile 2 0)).wf = false ∧
    (Instr.vadd u .i8 false .latch (.bcast 1) (.opd 3)).wf = true := by decide

theorem test_wf_unordered_integer : (Instr.vcmp u .un .i32 2 (.tile 1 0) (.tile 2 0)).wf = false ∧
    (Instr.vcmp u .ord .fp32 2 (.tile 1 0) (.tile 2 0)).wf = true := by decide

theorem test_wf_float_shift : (Instr.vshl u .fp32 (.tile 0 0) (.tile 1 0) (.tile 2 0)).wf = false := by decide

theorem test_wf_pack_source : (Instr.vpack u .rne (.tile 0 0) (.bcast 1) 2).wf = false ∧
    (Instr.vunpk u (.tile 0 0) (.bcast 1) 2).wf = false := by decide

theorem test_wf_reductions : (Instr.vred u .band .fp32 false (.tile 0 0) (.tile 1 0)).wf = false ∧
    (Instr.vred u .max .i32 true (.tile 0 0) (.tile 1 0)).wf = false ∧
    (Instr.vred u .add .i32 true (.tile 0 0) (.tile 1 0)).wf = true := by decide

theorem test_wf_functions_on_floats : (Instr.vexp u .i32 (.tile 0 0) (.tile 1 0)).wf = false ∧
    (Instr.vrng u .i32 (.tile 0 0)).wf = false := by decide

theorem test_wf_curves : (Instr.vsfc u true 2 (.tile 0 0) 1 0).wf = false ∧ (Instr.vsfc u false 3 (.tile 0 0) 1 0).wf = false ∧
    (Instr.vsfc u false 1 (.tile 0 0) 1 14).wf = false ∧ (Instr.vsfc u false 1 (.tile 0 0) 1 13).wf = true := by decide

theorem test_wf_register_runs : (Instr.tspawn u 9 13 1 none none).wf = false ∧ (Instr.tpop u 12 1 1 none).wf = false ∧
    (Instr.tcont u 9 13 4 1 none).wf = false ∧ (Instr.nsel u 1 2 15 1).wf = false ∧ (Instr.disp u 15 1 2 1 0).wf = false := by
  decide

theorem test_wf_group_register : (Instr.gnewPlain u 15 1 1).wf = false ∧ (Instr.gnewRope u 15 1 1 2).wf = false ∧
    (Instr.gnewSib u 15 1 1).wf = false ∧ (Instr.gnewQ u 15 1 1).wf = false ∧ (Instr.gnewQ u 14 1 1).wf = true := by decide

theorem test_wf_drain_tile_rows : (Instr.mdrainTile u .s false .sums 4 15 1 2 none none).wf = false := by decide

/-! ## Words and the instructions they stand for

The two-word examples and Table 3 of R198 to R212, and the words the entries give; those of li, fcmp, pand, dqcnt, vamo.add.d,
vperm and vexp are composed by hand from R202 to R206. -/

theorem test_decode_add : decodeWords .exec 0x0F013120 0x0 =
    .ok (.add u 0x3#4 0x1#4 0x2#4) := by decide

theorem test_decode_subImm : decodeWords .exec 0x93C15401 0x0FFFFFF9 =
    .ok (.subImm ⟨⟨true, false, false, true⟩, 0x3#4, true, ⟨false, false, false, false⟩⟩ 0x5#4 0x4#4 0xffffff9#28) := by decide

theorem test_decode_vadd : decodeWords .exec 0x0F564020 0x00841800 =
    .ok (.vadd u .fp32 false (.tile 0x04#5 0x2#4) (.tile 0x06#5 0x0#4) (.opd 0x1#2)) := by decide

theorem test_decode_ldOffset : decodeWords .load 0x0F4D3505 0x8 =
    .ok (.ldOffset u 0x3#4 0x2#3 .w .none (some 0x2#3) 0x0000008#28) := by decide

theorem test_decode_ld : decodeWords .load 0x0F0D3505 0x0 =
    .ok (.ld u 0x3#4 0x2#3 .w .none (some 0x2#3)) := by decide

theorem test_decode_ldlD : decodeWords .load 0x0F0C4802 0x0 =
    .ok (.ldlD u 0x4#4 0x002#11) := by decide

theorem test_decode_pool : decodeWords .exec 0x0F08E002 0x0 =
    .ok (.pool u 0x0002#13) := by decide

theorem test_decode_br : decodeWords .exec 0x0F081FFB 0x0 =
    .ok (.br u 0x1ffb#13) := by decide

theorem test_decode_ret : decodeWords .exec 0x0F08A000 0x0 =
    .ok (.ret u) := by decide

theorem test_decode_nop : decodeWords .exec 0x0F08C000 0x0 =
    .ok (.nop u) := by decide

theorem test_decode_brq : decodeWords .exec 0x0F085004 0x0 =
    .ok (.brq u true 0x004#12) := by decide

theorem test_decode_loop : decodeWords .exec 0x0F086BFD 0x0 =
    .ok (.loop u 0x5#4 0x1fd#9) := by decide

theorem test_decode_st : decodeWords .store 0x0F0E4381 0x0 =
    .ok (.st u 0x4#4 0x1#3 .d (some 0x0#3)) := by decide

theorem test_decode_fence : decodeWords .exec 0x0F150C60 0x0 =
    .ok (.fence u .sys 0x1#3 .rel) := by decide

theorem test_decode_sel : decodeWords .exec 0x0F42312B 0x4 =
    .ok (.sel u 0x3#4 0x1#4 0x2#4 0x4#4) := by decide

theorem test_decode_cmp : decodeWords .exec 0x0F042122 0x0 =
    .ok (.cmp u .lt 0x2#4 0x1#4 0x2#4) := by decide

theorem test_decode_fcvt : decodeWords .exec 0x0F452106 0x00520000 =
    .ok (.fcvt u 0x2#4 0x1#4 .fp32 .i32 .rtz false) := by decide

theorem test_decode_tksA : decodeWords .exec 0x0F093003 0x0 =
    .ok (.tksA u 0x03#8) := by decide

theorem test_decode_qpush : decodeWords .exec 0x0F094100 0x0 =
    .ok (.qpush u 0x1#4) := by decide

theorem test_decode_kwait : decodeWords .exec 0x0F096201 0x0 =
    .ok (.kwait u 0x2#3 0x01#8) := by decide

theorem test_decode_rnext : decodeWords .exec 0x0F0A6210 0x0 =
    .ok (.rnext u 0x6#4 0x2#4 0x1#3) := by decide

theorem test_decode_spbeg : decodeWords .control 0x0F2F0120 0x0 =
    .ok (.spbeg u 0x1#4 0x2#4) := by decide

theorem test_decode_spcom : decodeWords .control 0x0F2F0001 0x0 =
    .ok (.spcom u) := by decide

theorem test_decode_spabt : decodeWords .control 0x0F2F0002 0x0 =
    .ok (.spabt u) := by decide

theorem test_decode_ldOffset_2 : decodeWords .load 0x024D7AD0 0x0FFFFFF0 =
    .ok (.ldOffset ⟨⟨false, false, false, false⟩, 0x2#4, false, ⟨false, false, false, false⟩⟩ 0x7#4 0x5#3 .hu .fc none 0xffffff0#28) := by decide

theorem test_decode_ldt : decodeWords .load 0x0F4F2079 0x1003 =
    .ok (.ldt u 0x04#5 0x0#4 0xf#4 0x1#3 0x00010#20 .none (some 0x1#3)) := by decide

theorem test_decode_copy : decodeWords .load 0x0F502340 0x008C1400 =
    .ok (.copy u 0x2#3 0x3#3 0x4#4 none (some .core) (some 0x1#3) none (some 0x2#3)) := by decide

theorem test_decode_sppin : decodeWords .load 0x0F512310 0x0 =
    .ok (.sppin u 0x1#4 0x2#4 0x3#4) := by decide

theorem test_decode_rcfg : decodeWords .load 0x0F528803 0x00100100 =
    .ok (.rcfg u 0x2#3 0x0020#13 0x01#7 0x03#7) := by decide

theorem test_decode_racq : decodeWords .load 0x0F120980 0x0 =
    .ok (.racq u 0x2#3 0x3#3) := by decide

theorem test_decode_rwait : decodeWords .load 0x0F124981 0x0 =
    .ok (.rwait u 0x2#3 0x3#3 0x01#7) := by decide

theorem test_decode_amoAdd : decodeWords .control 0x0F531458 0x019C0008 =
    .ok (.amoAdd u true 0x1#3 0x4#4 0x5#4 none (some .sys) (some 0x3#3) 0x00008#18) := by decide

theorem test_decode_fwait : decodeWords .control 0x0F151000 0x0 =
    .ok (.fwait u) := by decide

theorem test_decode_wait4 : decodeWords .control 0x0F152016 0x0 =
    .ok (.wait4 u 0x6#4 0x1#2) := by decide

theorem test_decode_bexp : decodeWords .control 0x0F153004 0x0 =
    .ok (.bexp u 0x4#4) := by decide

theorem test_decode_bwait : decodeWords .control 0x0F154804 0x0 =
    .ok (.bwait u .die 0x4#4) := by decide

theorem test_decode_vcmp : decodeWords .exec 0x0F570400 0x00040402 =
    .ok (.vcmp u .lt .fp32 0x2#4 (.tile 0x01#5 0x0#4) (.tile 0x02#5 0x0#4)) := by decide

theorem test_decode_vlop3 : decodeWords .exec 0x0F580412 0x0100041E =
    .ok (.vlop3 u 0x96#8 (.tile 0x08#5 0x0#4) (.tile 0x01#5 0x0#4) (.tile 0x02#5 0x0#4)) := by decide

theorem test_decode_vrot : decodeWords .exec 0x0F59C0B4 0x00400028 =
    .ok (.vrot u .u64 (.tile 0x02#5 0x0#4) (.tile 0x00#5 0x0#4) (.bcast 0x5#4)) := by decide

theorem test_decode_vfunl : decodeWords .exec 0x0F59C0D4 0x00200818 =
    .ok (.vfunl u .u64 (.tile 0x01#5 0x0#4) (.tile 0x02#5 0x0#4) (.bcast 0x6#4)) := by decide

theorem test_decode_vcvt : decodeWords .exec 0x0F5B0004 0x00620805 =
    .ok (.vcvt u .bf16 .fp32 false .sr (.tile 0x03#5 0x1#4) (.tile 0x02#5 0x0#4)) := by decide

theorem test_decode_vpack : decodeWords .exec 0x0F5B0076 0x00400408 =
    .ok (.vpack u .rne (.tile 0x02#5 0x0#4) (.tile 0x01#5 0x0#4) 0x3#4) := by decide

theorem test_decode_vred : decodeWords .exec 0x0F5C0000 0x00600400 =
    .ok (.vred u .add .fp32 false (.tile 0x03#5 0x0#4) (.tile 0x01#5 0x0#4)) := by decide

theorem test_decode_vrng : decodeWords .exec 0x0F5E0000 0x01200000 =
    .ok (.vrng u .fp32 (.tile 0x09#5 0x0#4)) := by decide

theorem test_decode_vbern : decodeWords .exec 0x0F5E0012 0x00098188 =
    .ok (.vbern u 0x4#4 (.bcast 0x6#4)) := by decide

theorem test_decode_rlins : decodeWords .exec 0x0F5FC0E0 0x00A01808 =
    .ok (.rlins u 0x05#5 0x0#4 (.tile 0x06#5 0x0#4) 0x7#4) := by decide

theorem test_decode_vsfc : decodeWords .exec 0x0F600014 0x00C00804 =
    .ok (.vsfc u true 0x0#2 (.tile 0x06#5 0x0#4) 0x02#5 0x0#4) := by decide

theorem test_decode_gset : decodeWords .exec 0x0F613100 0x0 =
    .ok (.gset u 0x3#4 0x1#3 0x00000#18) := by decide

theorem test_decode_gadv : decodeWords .exec 0x0F615671 0x0 =
    .ok (.gadv u 0x5#4 0x6#4 0x7#4) := by decide

theorem test_decode_mlease : decodeWords .exec 0x0F620000 0x001C0002 =
    .ok (.mlease u 0x2#2 (some 0x3#3)) := by decide

theorem test_decode_mfree : decodeWords .exec 0x0F620001 0x0 =
    .ok (.mfree u) := by decide

theorem test_decode_mloadb : decodeWords .exec 0x0F635000 0x0000C000 =
    .ok (.mloadb u 0x5#4 .s false 0x3#2 none none) := by decide

theorem test_decode_mmul : decodeWords .exec 0x0F642000 0x000D0000 =
    .ok (.mmul u (some 0x2#4) .s true false .none none none none (some 0x1#3)) := by decide

theorem test_decode_mattn : decodeWords .exec 0x0F651230 0x00158000 =
    .ok (.mattn u 0x1#4 0x2#4 0x3#4 0x6#4 .none none (some 0x2#3)) := by decide

theorem test_decode_mdrainTile : decodeWords .exec 0x0F662000 0x0002081E =
    .ok (.mdrainTile u .v false .sums 0x04#5 0x0#4 0xf#4 0x2#4 none none) := by decide

theorem test_decode_mswap : decodeWords .exec 0x0F660001 0x00020000 =
    .ok (.mswap u .v) := by decide

theorem test_decode_mchain : decodeWords .exec 0x0F660002 0x1 =
    .ok (.mchain u 0x1#2) := by decide

theorem test_decode_mshape : decodeWords .exec 0x0F663023 0x0 =
    .ok (.mshape u 0x3#4 0x2#4) := by decide

theorem test_decode_sample : decodeWords .control 0x0F674500 0x00040000 =
    .ok (.sample u 0x4#4 0x5#4 none none (some 0x0#3)) := by decide

theorem test_decode_kvmap : decodeWords .control 0x0F682363 0x000C0004 =
    .ok (.kvmap u 0x6#4 0x2#4 0x3#4 0x4#4 none none (some 0x1#3)) := by decide

theorem test_decode_tspawn : decodeWords .control 0x0F694090 0x1 =
    .ok (.tspawn u 0x9#4 0x4#4 0x1#4 none none) := by decide

theorem test_decode_tpop : decodeWords .control 0x0F692031 0x5 =
    .ok (.tpop u 0x3#4 0x2#4 0x5#4 none) := by decide

theorem test_decode_tcancel : decodeWords .control 0x0F697003 0x000C0002 =
    .ok (.tcancel u 0x7#4 0x2#4 none (some 0x1#3)) := by decide

theorem test_decode_nbackup : decodeWords .control 0x0F6A1234 0x00140010 =
    .ok (.nbackup u true 0x1#4 0x2#4 0x3#4 none (some 0x2#3)) := by decide

theorem test_decode_nsel : decodeWords .control 0x0F6A6855 0x3 =
    .ok (.nsel u 0x5#4 0x6#4 0x8#4 0x3#4) := by decide

theorem test_decode_ballot : decodeWords .control 0x0F6BA040 0x0 =
    .ok (.ballot u false 0x4#4 0xa#4 none) := by decide

theorem test_decode_collAr : decodeWords .control 0x0F6C2000 0x019C0000 =
    .ok (.collAr u 0x2#4 none (some .sys) (some 0x3#3)) := by decide

theorem test_decode_disp : decodeWords .control 0x0F6C2345 0x16 =
    .ok (.disp u 0x4#4 0x2#4 0x3#4 0x6#4 0x1#3) := by decide

theorem test_decode_time : decodeWords .control 0x0F6D0072 0x0 =
    .ok (.time u 0x7#4) := by decide

theorem test_decode_trap : decodeWords .control 0x0F2E0005 0x0 =
    .ok (.trap u 0x05#8) := by decide

theorem test_decode_eret : decodeWords .control 0x0F2E0100 0x0 =
    .ok (.eret u) := by decide

theorem test_decode_sysrd : decodeWords .control 0x0F2E3208 0x0 =
    .ok (.sysrd u 0x3#4 0x08#8) := by decide

theorem test_decode_syswr : decodeWords .control 0x0F2E4308 0x0 =
    .ok (.syswr u 0x08#8 0x4#4) := by decide

theorem test_decode_yield : decodeWords .control 0x0F2E0400 0x0 =
    .ok (.yield u) := by decide

theorem test_decode_idle : decodeWords .control 0x0F2E2500 0x0 =
    .ok (.idle u 0x2#4) := by decide

theorem test_decode_li : decodeWords .control 0x0F033FFF 0x0 = .ok (.li u 3 0xFFF) := by decide

theorem test_decode_fcmp : decodeWords .exec 0x0F062132 0x0 = .ok (.fcmp u .lt 2 1 3) := by decide

theorem test_decode_pand : decodeWords .exec 0x0F071230 0x0 = .ok (.pand u 1 2 3) := by decide

theorem test_decode_dqcnt : decodeWords .exec 0x0F4B0000 0x000A0010 = .ok (.dqcnt u 5) := by decide

theorem test_decode_vamoAdd : decodeWords .load 0x0F541008 0x0000C050 =
    .ok (.vamoAdd u true 1 none none none 6 0 5 0) := by decide

theorem test_decode_vperm : decodeWords .exec 0x0F5A4020 0x00841800 =
    .ok (.vperm u .fp32 (.tile 4 2) (.tile 6 0) (.opd 1)) := by decide

theorem test_decode_vexp : decodeWords .exec 0x0F5D0000 0x00841800 = .ok (.vexp u .fp32 (.tile 4 2) (.tile 6 0)) := by decide

/-! ## States that meet the hypotheses of the statements -/

/-- An instance runs on core 0, and sequencer q has the turn: the page at 0 to 0xFFFF can be read, written and executed. -/
def at_ (q : SeqId) : State := (State.reset.place q []).focus 0 q

def issuesB (s : State) (f : Form) : Bool :=
  s.running && (s.early f).isNone && !(f.stops && s.preempting && s.g0 f.h) && s.ready f && (!f.guarded || s.g0 f.h)

/-- An instruction of form f issues in s, and c holds there. -/
theorem meets {s : State} {f : Form} {c : Prop} [Decidable c] (h : (issuesB s f && Decidable.decide c) = true) : s.Issues f ∧ c := by
  simp only [issuesB, Bool.and_eq_true, decide_eq_true_eq, Option.isNone_iff_eq_none, Bool.or_eq_true, Bool.not_eq_true'] at h
  exact ⟨⟨h.1.1.1.1.1, h.1.1.1.1.2, h.1.1.1.2, h.1.1.2, h.1.2⟩, h.2⟩

theorem issues {s : State} {f : Form} (h : issuesB s f = true) : s.Issues f :=
  (meets (c := True) (by rw [h]; rfl)).1

/-- p0 to p14 are zero at the start, so guard p0 is false. -/
def hFalse : Hdr := { u with g := 0 }

theorem issuesFalse {s : State} {f : Form}
    (h : (s.running && (s.early f).isNone && s.ready f && f.guarded && !s.g0 f.h) = true) : s.IssuesFalse f := by
  simp only [Bool.and_eq_true, Option.isNone_iff_eq_none, Bool.not_eq_true'] at h
  exact ⟨h.1.1.1.1, h.1.1.1.2, h.1.1.2, h.1.2, h.2⟩

def okB {ε α : Type} (r : Except ε α) : Bool :=
  match r with
  | .ok _ => true
  | .error _ => false

/-- What a fetch brings. -/
def fetched (r : Fetch1) : Option Word32 :=
  match r with
  | .ok _ w => some w
  | .stop _ _ => none

/-- The state in which an instruction's words are fetched. -/
def aboutTo (w : Nat) (q : SeqId) : State :=
  ({ State.reset.withFetchWord 64 w with turns := [], fresh := 1 } : State).focus 0 q

/-- An instruction of form f issues in s, where c holds. -/
structure Met (s : State) (f : Form) (c : Prop) : Prop where
  issues : s.Issues f
  holds : c

theorem met {s : State} {f : Form} {c : Prop} [Decidable c] (h : (issuesB s f && Decidable.decide c) = true) : Met s f c :=
  ⟨(meets h).1, (meets h).2⟩

/-- The running sequencer's return stack holds n addresses. -/
def withStack (s : State) (n : Nat) : State := s.setSq { s.sq with rstack := List.replicate n 0xC00 }

/-- The queue from the sequencer before the running one holds v n times. -/
def withQueue (s : State) (v : Word64) (n : Nat) : State :=
  s.setCur (s.cur.setEdge s.seq.prev { s.cur.edge s.seq.prev with queue := List.replicate n v })

/-- The running sequencer's own queue holds n values. -/
def withOwnQueue (s : State) (n : Nat) : State :=
  s.setCur (s.cur.setEdge s.seq { s.cur.edge s.seq with queue := List.replicate n 5 })

def cplForm : Form := { scalar u false 0x09 0 [] [] with guarded := false }

/-- Tokens stand on both sides of the running sequencer. -/
def withTokens (s : State) (n : Nat) : State :=
  let c := s.cur.setEdge s.seq { s.cur.edge s.seq with bwd := n }
  s.setCur (c.setEdge s.seq.prev { c.edge s.seq.prev with fwd := n })

/-- The running core's instance has one level, with this state. -/
def withLevel (s : State) (lazy : Bool) (next limit : Nat) : State :=
  match s.inst with
  | some i => s.setCur { s.cur with inst := some { i with
      levels := [⟨1, lazy, false, 4, 2, 16⟩], lvl := [⟨0, limit, next, 0, false, 0, none⟩] } }
  | none => s

def workForm (s : State) (j : Nat) : Form := { scalar u false 0x0A 0 [3] [2] with stops := s.preLevel j }

/-- Lines 0 to n - 1 of the scratch window are pinned, every granule full. -/
def withPins (s : State) (n : Nat) : State :=
  s.setCur { s.cur with pins := (List.range n).map fun l => (l, ⟨0, 0xFF⟩) }

/-- A load qualified .fe at the first bytes of the scratch window can take its bytes. -/
def feTakes (s : State) (f : Form) (w : Nat) : Bool :=
  match (s.begin f).scalarVia .read true w (BitVec.ofNat 64 scratchBase) with
  | .ok via =>
    let t := (s.begin f).touchVia via
    !t.cur.copyHeld via && t.mayAccess via true none && t.cur.rangesFull (scrRanges via) && !t.mustYield Waiting.forGranules &&
      !t.cur.scrBad (scrRanges via)
  | .error _ => false

/-- The first line of the scratch window is pinned, every granule empty. -/
def withEmpty (s : State) : State := s.setCur { s.cur with pins := [(0, ⟨0, 0⟩)] }

/-- A load qualified .fe at the first bytes of the scratch window finds them empty. -/
def feWaits (s : State) (f : Form) (w : Nat) : Bool :=
  match (s.begin f).scalarVia .read true w (BitVec.ofNat 64 scratchBase) with
  | .ok via =>
    let t := (s.begin f).touchVia via
    !t.cur.copyHeld via && t.mayAccess via true none && !t.cur.rangesFull (scrRanges via)
  | .error _ => false

/-- What a wait reads at an address of device memory. -/
def peekB (s : State) (f : Form) (addr : Word64) : Option Word64 :=
  match (s.begin f).scalarVia .read false 16 addr with
  | .ok ((_, _, y) :: _) => match (s.begin f).peek addr y with | .ok v => some v | _ => none
  | _ => none

/-- The same for two tile rows. -/
def feTakesRows (s : State) (f : Form) : Bool :=
  let r := (s.begin f).unitsGo .read true (BitVec.ofNat 64 scratchBase) (s.guard u) (unitsOf (s.guard u) 1 0) []
  let t := (s.begin f).touchVia r.1
  r.2.isNone && !t.cur.copyHeld r.1 && t.mayAccess r.1 true none && t.cur.rangesFull (scrRanges r.1) &&
    !t.mustYield Waiting.forGranules && !t.cur.scrBad (scrRanges r.1)

/-- The instance's commands belong to a group that is not there, so it is dead. -/
def withDeadGroup (s : State) : State :=
  match s.inst with
  | some i => s.setCur { s.cur with inst := some { i with group := 9 } }
  | none => s

/-- What stands before a command that is accepted at once. -/
def accepts (s : State) (f : Form) (acq : OScope) : Bool :=
  (s.begin f).alive (s.begin f).cmdGroup && okB ((s.begin f).acceptCmd acq)

/-- The running core has this buffer ring as b2. -/
def withRing (s : State) (r : Ring) : State := s.setCur { s.cur with rings := [(2, r)] }

/-- The bytes at a physical address. -/
def withBytes (s : State) (pa : Nat) (bs : List Byte) : State := { s with mem := Mem.writeL s.mem pa bs }

/-- wait4's array at VA 0x7000 names the word at 0x8000, which must differ from v. -/
def withArmed (s : State) (v : Nat) : State := withBytes (s.setX 1 0x7000) 0x17000 (leBytes 8 0x8000 ++ leBytes 8 v)

/-- Whether wait4 of one entry finds its word changed. -/
def firesB (s : State) (f : Form) : Option Bool :=
  match (s.begin f).syncRead 64 (s.getX 1) 16 with
  | .ok (t, bs) =>
    match t.armCheck (armEntries 1 bs) with
    | .ok es => match t.fired 0 es with | .some _ => some true | .none => some false | _ => none
    | .error _ => none
  | .error _ => none

/-- The form of vamo.cas.d t6[14], [a1], t5[0]. -/
def vamoForm : Form :=
  { h := u, two := true, seqs := [.load, .store], tiles := [6, 5], rr := rowsOf 6 14 2 ++ rowsOf 5 0 1,
    rw := rowsOf 6 14 1, guarded := false }

/-- The running sequencer with its registers changed. -/
def onSq (s : State) (f : Seqr → Seqr) : State := s.setSq (f s.sq)

/-- A pre-emption of the running instance is pending. -/
def withPreempt (s : State) : State :=
  match s.inst with
  | some i => s.setCur { s.cur with inst := some { i with preempt := some 0 } }
  | none => s

/-- g2 of the running core. -/
def withG (s : State) (v : BitVec 256) : State := s.setCur { s.cur with g := Tbl.set s.cur.g 2 v }

/-- A list of K = 32 in rows 4 and on of tile 5, as rlcfg leaves it. -/
def withList (s : State) : State := s.setCur { s.cur with lists := [(5, ⟨32, 4, 1, 0⟩)] }

/-- n entries without values in the reel. -/
def withReel (s : State) (n : Nat) : State := s.setCur { s.cur with reel := List.replicate n ⟨1, []⟩ }

/-- A bivouac of two 128-byte banks at the window's start, active or not. -/
def withBiv (s : State) (active : Bool) : State := s.setCur { s.cur with biv := ⟨0, 128, true, false, active, false, 0, 0⟩ }

/-- The image of a BFP stream with M = 8 and BL = 32: one block a strip, its strips 1,024 bytes apart. -/
def bfpImg (base sbase kext next : Nat) : BitVec 256 :=
  BitVec.ofNat 256 (base * 2 ^ 8 + sbase * 2 ^ 72 + 1 * 2 ^ 133 + 8 * 2 ^ 135 + 11 * 2 ^ 140 + 1024 * 2 ^ 144 + 1024 * 2 ^ 160 +
    1 * 2 ^ 192 + next * 2 ^ 208 + kext * 2 ^ 232)

/-- The pages at VA 0x10000 and 0x20000 lie in the near vault of core 0: its first bytes, and the slices of array V. -/
def withVault (s : State) : State :=
  withBytes (withBytes s 0x15008 (leBytes 8 (vaultBase 0 + 0x21F))) 0x15010 (leBytes 8 (vaultBase 0 + 0x10_0000 + 0x21F))

/-- Core 0 holds a lease and an active run of its cluster's pair. -/
def withPair (s : State) : State :=
  let t := s.setCur { s.cur with leased := true }
  t.setCluster 0 { t.getCluster 0 with holder := some 0 }

/-- g0: an A stream of the scratch window; g1: a B stream; g2: one for array V. -/
def withStreams (s : State) : State :=
  s.setCur { s.cur with g := [(0, bfpImg scratchBase (scratchBase + 512) 32 1), (1, bfpImg 0x10000 0x10200 32 4),
    (2, bfpImg 0x20000 0x20200 1 1), (3, bfpImg scratchBase (scratchBase + 512) 1 1), (4, bfpImg 0x10000 0x10200 1 1)] }

/-- Everything for a product: a tile is in the plane that the last mloadb loaded. -/
def matrixState : State :=
  let s := withStreams (withPair (withVault (at_ .exec)))
  let p : Plane := ⟨.loaded, bfpImg 0x10000 0x10200 32 4, false, 1, [], [], false, 1, []⟩
  s.setCur { s.cur with planes := [(1, p)], pins := (withPins s 5).cur.pins }

/-- The same with a bank of array S that holds 16 rows of 4 sums, its last product over. -/
def bankState (q : SeqId) : State :=
  let s := (withPair (withVault (at_ q)))
  s.setCur { s.cur with banks := [(0, ⟨.sum, 16, 4, [], [], [], [], 0, 0⟩)] }

/-- A descriptor of one query and one key of one dimension at scratch offset 0, with INIT. -/
def attnState : State :=
  let s := withStreams (withPair (withVault ((at_ .exec).setX 3 (BitVec.ofNat 64 scratchBase))))
  let d := leBytes 4 0x3F80_0000 ++ leBytes 4 4 ++ leBytes 4 1 ++ leBytes 4 1 ++ List.replicate 16 0 ++ leBytes 2 1 ++
    List.replicate 94 0
  s.setCur { s.cur with pins := Tbl.set (withPins s 5).cur.pins 0 ⟨BitVec.ofNat 1024 (leNat d), 0xFF⟩ }

def descB (s : State) (f : Form) : Bool :=
  match (s.begin f).syncRead 64 (s.getX 3) 64 with
  | .ok (_, bs) => (attnDesc bs).isSome
  | .error _ => false

/-- The words of a task record in x4 to x7: priority 1.0, no cairn, no KV root, weight set w. -/
def withRecord (s : State) (pri : Nat) (w : Nat) : State :=
  ((s.setX 4 (BitVec.ofNat 64 (pri + 0x3F_FFFF * 2 ^ 32))).setX 5 (BitVec.ofNat 64 (w * 2 ^ 48))).setX 6
    (BitVec.ofNat 64 (0x7FFF * 2 ^ 48))

/-- A task in slot 7 of die 0. -/
def withTask (s : State) (st : TaskState) : State :=
  s.setTask 0 7 { Task.start with state := st, node := 0x3F_FFFF, kk := 0x7FFF, wset := 0, pri := 0x3F80_0000, seqno := 1 }

theorem firstFrom_here {p : Nat → Bool} {m k n : Nat} (h : p (n % m) = true) : firstFrom p m (k + 1) n = some (n % m) := by
  simp [firstFrom, h]

/-- A group of depth 1 with a rope of two siblings, of which n have been made. -/
def withRope (s : State) (n : Nat) : State :=
  match ropeOf (leBytes 2 2 ++ leBytes 2 1 ++ List.replicate 28 0) 0 with
  | some r => { s with groups := Tbl.set s.groups 3 ⟨0, 2, true, .rope, 0, 0, 0, 0, 0, 0, some { r with made := n }⟩ }
  | none => s

/-- The instance belongs to the first sibling below that rope. -/
def withSib (s : State) : State :=
  let t := withRope s 1
  let t := { t with groups := Tbl.set t.groups 4 ⟨3, 3, true, .sib, 0, 0, 0, 0, 0, 0, none⟩ }
  match t.inst with
  | some i => t.setCur { t.cur with inst := some { i with group := 4 } }
  | none => t

/-- The core's current task is the one in slot 7. -/
def withCurTask (s : State) : State := (withTask s (.running 0)).setCurTask (some (taskHandle 0 7 0))

/-- Dispatch table 0 of die 0: one expert, capacities 0, 0, ..., 5; buckets 0 to 6 scheduled. -/
def withTable (s : State) : State :=
  s.setTable 0 0 { DTable.start with flags := 1, nexp := 1, bound := [0, 1, 2, 3, 4, 5, 6, 7], sched := [0, 0x900, 0, 0, 0, 0, 0, 0] }

/-- Graph slot 63 and host ring 63 of die 0 are bound to the issuer's space. -/
def withBound (s : State) : State :=
  let t := s.setSlot 0 63 { GSlot.start with gcfg := BitVec.ofNat 64 (2 ^ 49), gnodes := 1, gcomp := 0x20000 }
  t.setHring 0 63 { HRing.start with hrcfg := 0x24 }

/-- The page at VA 0x10000 is strongly ordered and lies in a vault. -/
def withOrdered (s : State) : State := withBytes s 0x15008 (leBytes 8 (vaultBase 0 + 0x1F))

/-- The state after an instruction. -/
def ran (i : Instr) (s : State) : State := (nextOf (exec i s)).getD s

/-- Operation 0 of core 0. -/
def opZero (s : State) : Option Op := (s.getCore 0).findOp 0

/-- Operation 0 is there, not done, unanswered, may perform, at its first unit. -/
def opReady (s : State) : Bool :=
  match opZero s with
  | some o => !o.done && o.answer.isNone && o.prog = 0 && o.rel.isNone && o.acq.isNone && (s.getCore 0).mayPerform o &&
      o.via.all fun v => !placeRemote v.2.2
  | none => false

/-- Its place is a strongly ordered word of the vault. -/
def opInVault (s : State) : Bool :=
  match opZero s with
  | some o => o.via.any fun v => decide (v.2.2 = ⟨.dev (vaultBase 0), 0, false, none⟩)
  | none => false

def kindOf (s : State) : Option OpKind := (opZero s).map (·.kind)

/-- A core with an operation: a load and a store of a strongly ordered word, a copy, a fence. -/
def loadState : State := ran (.ld u 3 1 .d .none none) ((withOrdered (at_ .load)).setA 1 0x10000)
def storeState : State := ran (.st u 3 1 .b none) ((withOrdered (at_ .store)).setA 1 0x10000)
def amoState : State := ran (.amoCas u true 1 4 5 none none none 0) ((withOrdered (at_ .control)).setA 1 0x10000)
def bexpState : State := ran (.bexp u 4) ((withOrdered (at_ .control)).setX 4 0x10000)
def vamoState : State := ran (.vamoAdd u true 1 none none none 6 0 5 0) ((withOrdered (at_ .load)).setA 1 0x10000)
def copyState : State := ran (.copy u 2 3 4 none none none none none)
  ((((at_ .load).setA 2 0x8000).setA 3 0x9000).setX 4 128)
def prefState : State := ran (.pref u 2 4 none) (((at_ .load).setA 2 0x8000).setX 4 128)
def invrState : State := ran (.invr u 2 4 none) (((at_ .load).setA 2 0x8000).setX 4 128)
def fenceState : State := ran (.fence u .mod 0 .all) (at_ .load)
def fenceAfterLoad : State := ran (.fence u .mod 0 .acq) loadState
def drainState : State := ran (.mdrainTile u .s false .sums 4 0 0 7 none none) (bankState .exec)
def drainMemState : State := ran (.mdrainMemory u .s false .sums none 7 1 8 none none none)
  (((bankState .store).setA 1 0x8000).setX 8 4)
def sampleState : State := ran (.sample u 4 5 none none none) (((at_ .control).setX 4 0x8000).setX 5 1)
def walkState : State := ran (.nbackup u true 9 10 11 none none) (at_ .control)
def kvdropState : State := ran (.kvappDrop u 4 none none none) (at_ .control)
def loadPlaneState : State := ran (.mloadb u 1 .s false 0 none none) matrixState
def productState : State := ran (.mmul u (some 0) .s true false .none none none none none) matrixState

/-- A 64-byte node of a graph slot 0 of die 0 at VA 0x8000, ready to start at node n. -/
def withNode (bs : List Byte) (nodes n : Nat) : State :=
  let s := withBytes (at_ .control) 0x18000 bs
  s.setSlot 0 0 { GSlot.start with
    gbase := 0x8000, gcfg := BitVec.ofNat 64 (2 ^ 49), gcomp := 0x9000, gnodes := nodes, phase := .ready n }

def withPhase (p : GPhase) : State :=
  (at_ .control).setSlot 0 0 { GSlot.start with gcfg := BitVec.ofNat 64 (2 ^ 49), gcomp := 0x9000, gnodes := 1, phase := p }

/-- A launch packet of the host at physical 0x18000 whose header is at VA 0x9000: what HLAUNCH reads. -/
def withHead : State :=
  { (at_ .control) with launches := [(1, { placeLaunch with parts := [⟨0, 0, .pending, false, [], 0⟩], pclass := 1 })] }

/-! ## Single steps, with results the spec gives -/

/-- x1 = 7, x2 = 5 on core 0's control sequencer. -/
def x75 : State := ((at_ .control).setX 1 7).setX 2 5

def xAfter (i : Instr) (s : State) (r : XReg) : Option Word64 := (nextOf (exec i s)).map fun t => t.getX r

theorem test_add_wraps : xAfter (.addImm u 3 1 (-8)) x75 3 = some 0xFFFF_FFFF_FFFF_FFFF := by decide +kernel

/-- x0 reads zero and discards what is written (R210). -/
theorem test_x0_discards : xAfter (.add u 0 1 2) x75 0 = some 0 := by decide +kernel

/-- Division by zero gives all ones, the remainder the dividend (R239). -/
theorem test_div_zero : xAfter (.div u 3 1 0) x75 3 = some 0xFFFF_FFFF_FFFF_FFFF ∧ xAfter (.rem u 3 1 0) x75 3 = some 7 := by
  decide +kernel

/-- The most negative number divided by -1 is itself, with remainder 0 (R239). -/
theorem test_div_overflow :
    xAfter (.divImm u 3 1 (-1)) (x75.setX 1 0x8000_0000_0000_0000) 3 = some 0x8000_0000_0000_0000 ∧
    xAfter (.remImm u 3 1 (-1)) (x75.setX 1 0x8000_0000_0000_0000) 3 = some 0 := by decide +kernel

/-- A shift count is taken modulo 64 (R238). -/
theorem test_shift_count : xAfter (.shlImm u 3 1 65) x75 3 = some 14 := by decide +kernel

theorem test_mulh_signed : xAfter (.mulhImm u 3 1 (-1)) x75 3 = some 0xFFFF_FFFF_FFFF_FFFF ∧
    xAfter (.mulhu u 3 1 2) (x75.setX 1 (-1)) 3 = some 4 := by decide +kernel

/-- 1.0 + 1.0 = 2.0; -0 is the smaller zero. -/
theorem test_fadd : xAfter (.fadd u 3 1 2) ((x75.setX 1 0x3F80_0000).setX 2 0x3F80_0000) 3 = some 0x4000_0000 := by decide +kernel

theorem test_ret_ends : ((nextOf (exec (.ret u) (at_ .control))).map fun t => t.sq.ended) = some true := by decide +kernel

/-- A trap without a handler ends the launch FAILED (R363). -/
theorem test_trap_no_handler :
    ((nextOf (exec (.bkpt u 3) (at_ .control))).map fun t => (Tbl.get? t.launches 1).map (·.abort)) = some (some (some 3)) := by
  decide +kernel

/-- With one, the cause, the value and the address are saved (R359). -/
theorem test_trap_entry :
    ((nextOf (exec (.bkpt u 3) (onSq (at_ .control) fun q => { q with tvec := 0x100 }))).map fun t =>
      (t.sq.trapCause, t.sq.trapVal, t.sq.trapPc, t.sq.pc, t.sq.sup, t.sq.intrap)) =
      some (11, 3, 0xC00, 0x100, true, true) := by decide +kernel

/-- The matrix majors are not for the control sequencer (R206). -/
theorem test_illegal_sequencer :
    ((nextOf (exec (.mswap u .s) (onSq (at_ .control) fun q => { q with tvec := 0x100 }))).map fun t => t.sq.trapCause) = some 1 := by
  decide +kernel

/-- cas with an unequal compare value stores nothing and gives the old word (R283). -/
theorem test_cas_unequal :
    ((nextOf (exec (.atomicPerform 0 0) (ran (.amoCas u true 1 4 5 none none none 0)
      (((withOrdered (at_ .control)).setA 1 0x10000).setX 5 1)))).map fun t =>
        (t.getX 5, Mem.read t.mem (vaultBase 0))) = some (0, 0) := by decide +kernel

/-- A byte store reaches its place and no other (R268). -/
theorem test_store_byte :
    ((nextOf (exec (.storePerform 0 0) (ran (.st u 3 1 .b none) (((withOrdered (at_ .store)).setA 1 0x10000).setX 3 0x1234)))).map
      fun t => (Mem.read t.mem (vaultBase 0), Mem.read t.mem (vaultBase 0 + 1))) = some (0x34, 0) := by decide +kernel

/-- A cleared EN of an active space is refused (R383). -/
theorem test_space_stays_enabled :
    ((nextOf (exec (.registerWrite 0x1010 0) (at_ .control))).map fun t => (t.getSpace 0).en) = some true := by decide +kernel

theorem test_step_runs_word :
    ((nextOf (step (State.reset.withFetchWord 32 0x0F033FFF))).map fun t => t.getX 3) = some 0xFFFF_FFFF_FFFF_FFFF := by
  decide +kernel

theorem witness_DecodeReadsWhatEncodeWrites : (Instr.add u 3 1 2).wf = true ∧ (Instr.add u 3 1 2).fits .control ∧
    encode (.add u 3 1 2) = [0x0F013120] ∧
    (Instr.mdrainMemory u .s false .sums none 7 1 8 none none none).fits .store := ⟨by decide, trivial, by decide, rfl⟩

theorem witness_OnlyPermittedSequencers : (at_ .load).running = true ∧ (at_ .load).seq ∉ [SeqId.exec] ∧
    encode (.vadd u .fp32 false (.tile 4 2) (.tile 6 0) (.opd 1)) = [0x0F564020, 0x00841800] := by decide

theorem witness_StepRunsDecodedInstruction :
    (State.reset.withFetchWord 32 0x0F013120).turns = [.seq 0 .control] ∧
    (aboutTo 0x0F013120 .control).running = true ∧ (aboutTo 0x0F013120 .control).sq.stopped = false ∧
    (aboutTo 0x0F013120 .control).sq.partTrap = none ∧ (aboutTo 0x0F013120 .control).preempting = false ∧ (aboutTo 0x0F013120 .control).pendingCause 0 .control = none ∧
    hasExt 0x0F013120 = false ∧ hasExt 0x0F564020 = true ∧
    fetched ((aboutTo 0x0F013120 .control).fetchWord (aboutTo 0x0F013120 .control).sq.pc) = some 0x0F013120 ∧
    fetched ((aboutTo 0x008418000F564020 .exec).fetchWord ((aboutTo 0x008418000F564020 .exec).sq.pc + 1)) = some 0x00841800 ∧
    (let s := aboutTo 0x0F013120 .control
     match s.check (some s.core) s.asid s.sq.sup .fetch false 4 (s.sq.pc.setWidth 64 <<< 2) with
     | .ok x => decide (x.place = .dev placePa ∧ s.badRange placePa 4 = false ∧ Tbl.get? s.cur.icache (icKey x) = none)
     | .error _ => false) = true := by
  decide

theorem witness_FalseGuardsAndConstants :
    (at_ .control).IssuesFalse (scalar hFalse false 0x01 0 [3, 1, 2] []) ∧
    (at_ .control).IssuesFalse (scalar hFalse true 0x01 0 [3, 1] []) ∧
    (at_ .control).IssuesFalse (scalar hFalse false 0x04 0 [1, 2] [4, 5]) ∧
    (at_ .exec).IssuesFalse (scalar hFalse false 0x05 0 [1, 2, 3] []) ∧
    (at_ .exec).IssuesFalse (scalar hFalse false 0x07 0 [] [1, 2, 3]) ∧
    (at_ .exec).IssuesFalse (flowForm hFalse false 0 []) ∧ (at_ .exec).IssuesFalse (flowForm hFalse false 3 [5]) ∧
    (at_ .load).IssuesFalse (scalar hFalse false 0x0C 0 [1] []) ∧ (at_ .load).IssuesFalse (scalar hFalse false 0x09 6 [] []) ∧
    (at_ .control).IssuesFalse (lmForm hFalse 0 [1, 2] [3]) ∧ (at_ .load).IssuesFalse (ringForm hFalse false 0) ∧
    (at_ .store).IssuesFalse (syncForm hFalse 2 [1]) ∧ (at_ .store).IssuesFalse (sysForm hFalse 0 [1]) ∧
    (at_ .control).IssuesFalse (cmdForm hFalse 0x2D 2 [1] []) ∧ (at_ .load).IssuesFalse (scalar hFalse false 0x0D 0 [1] []) ∧
    (at_ .store).IssuesFalse (scalar hFalse false 0x0E 0 [1] []) ∧ (at_ .load).IssuesFalse (cmdForm hFalse 0x10 0 [4] []) ∧
    (at_ .store).IssuesFalse (syncForm hFalse 0 []) ∧ (at_ .store).ctrRoom (some 7) = true := by
  refine ⟨?_, ?_, ?_, ?_, ?_, ?_, ?_, ?_, ?_, ?_, ?_, ?_, ?_, ?_, ?_, ?_, ?_, ?_, by decide⟩ <;> exact issuesFalse (by decide)

theorem witness_IntegerArithmetic :
    Met (at_ .control) (scalar u false 0x01 0 [3, 1, 2] []) ((at_ .control).getX 2 = 0) ∧
    Met (at_ .load) (scalar u true 0x01 0 [0, 15] []) True := by
  repeat' apply And.intro
  all_goals exact met (by decide +kernel)

theorem witness_MovesImmediatesAndLiterals :
    Met (at_ .exec) (scalar u false 0x02 4 [3, 1] []) ((at_ .exec).getX 1 = 0) ∧
    Met ((at_ .exec).setX 1 1) (scalar u false 0x02 4 [3, 1] []) (((at_ .exec).setX 1 1).getX 1 = 1) ∧
    Met (at_ .exec) (scalar u false 0x02 9 [1] []) True ∧ Met (at_ .exec) (scalar u false 0x02 10 [3] []) True ∧
    Met (at_ .store) (scalar u true 0x02 11 [3, 1, 2] [4]) True ∧ Met (at_ .store) (scalar u false 0x03 0 [3] []) True ∧
    Met (at_ .store) (scalar u true 0x03 0 [3] []) True ∧
    Met (at_ .load) (scalar u false 0x0C 0 [3] []) ((fetched (((at_ .load).begin (scalar u false 0x0C 0 [3] [])).fetchWord ((at_ .load).sq.pc + BitVec.ofInt 54 (-1)))).isSome = true) ∧
    Met (at_ .load) (scalar u true 0x0C 0 [3] []) ((fetched (((at_ .load).begin (scalar u true 0x0C 0 [3] [])).fetchWord ((at_ .load).sq.pc + BitVec.ofInt 54 2))).isSome = true ∧ ((at_ .load).sq.pc + BitVec.ofInt 54 2).toNat % 2 = 0) ∧
    Met (at_ .load) (scalar u true 0x0C 0 [3] []) (((at_ .load).sq.pc + BitVec.ofInt 54 1).toNat % 2 = 1) := by
  repeat' apply And.intro
  all_goals exact met (by decide +kernel)

theorem witness_IntegerComparison :
    Met (at_ .control) (scalar u false 0x04 0 [1, 2] [14, 15]) ((14 : PReg) ^^^ 1 = 15) ∧
    Met (at_ .control) (scalar u true 0x04 0 [1] [15, 14]) True := by
  repeat' apply And.intro
  all_goals exact met (by decide +kernel)

theorem witness_ScalarFloat :
    Met (at_ .exec) (scalar u false 0x05 0 [3, 1, 2] []) True ∧ Met (at_ .exec) (scalar u true 0x05 0 [3, 1] []) True ∧
    Met (at_ .exec) (scalar u true 0x05 6 [3, 1] []) True ∧ Met (at_ .exec) (scalar u false 0x06 0 [1, 2] [14, 15]) True ∧
    Met (at_ .exec) (scalar u true 0x06 0 [1] [2, 3]) True := by
  repeat' apply And.intro
  all_goals exact met (by decide +kernel)

theorem witness_Predicates :
    Met (at_ .exec) (scalar u false 0x07 0 [] [1, 2, 3]) True ∧ Met (at_ .exec) (scalar u false 0x07 4 [] [1, 2]) True ∧
    Met (at_ .exec) (scalar u false 0x07 5 [7] [1]) True ∧ Met (at_ .exec) (scalar u false 0x07 6 [7] [1]) True ∧
    Met (at_ .exec) (scalar u false 0x07 7 [] [1, 2]) (((at_ .exec).getP 2).getLsbD 0 = false) ∧
    Met ((at_ .exec).setP 2 1) (scalar u false 0x07 7 [] [1, 2]) ((((at_ .exec).setP 2 1).getP 2).getLsbD 0 = true) := by
  repeat' apply And.intro
  all_goals exact met (by decide +kernel)

theorem witness_ControlFlow :
    Met (at_ .exec) (flowForm u false 0 []) True ∧ Met (at_ .exec) (flowForm u true 0 []) True ∧
    Met (at_ .exec) (flowForm u false 3 [5]) ((at_ .exec).getX 5 = 0) ∧
    Met ((at_ .exec).setX 5 1) (flowForm u true 3 [5]) (((at_ .exec).setX 5 1).getX 5 = 1) ∧
    Met (at_ .exec) (flowForm u false 4 [5]) (((at_ .exec).getX 5).toNat % 4 = 0) ∧
    Met ((at_ .exec).setX 5 (2 ^ 56 - 1)) (flowForm u false 4 [5]) ((((at_ .exec).setX 5 (2 ^ 56 - 1)).getX 5).toNat % 4 ≠ 0) ∧
    Met ((at_ .exec).setX 5 (2 ^ 56)) (flowForm u false 4 [5]) (2 ^ 56 ≤ (((at_ .exec).setX 5 (2 ^ 56)).getX 5).toNat) ∧
    Met (withStack (at_ .exec) 16) (flowForm u false 1 []) (16 ≤ (withStack (at_ .exec) 16).sq.rstack.length) ∧
    Met (withStack (at_ .exec) 15) (flowForm u true 1 []) ((withStack (at_ .exec) 15).sq.rstack.length < 16) ∧
    Met (withStack (at_ .exec) 1) (flowForm u false 5 []) ((withStack (at_ .exec) 1).sq.rstack = [0xC00]) ∧
    Met (at_ .exec) (flowForm u false 5 []) ((at_ .exec).sq.rstack = []) ∧
    Met (withQueue (at_ .exec) 0 1) { flowForm u false 2 [] with guarded := false }
      (((withQueue (at_ .exec) 0 1).cur.edge .load).queue = [0]) ∧
    Met (withQueue (at_ .exec) 7 8) { flowForm u true 2 [] with guarded := false }
      (((withQueue (at_ .exec) 7 8).cur.edge .load).queue.length = 8) ∧
    Met (at_ .exec) { flowForm u false 2 [] with guarded := false } (((at_ .exec).cur.edge .load).queue = []) := by
  repeat' apply And.intro
  all_goals exact met (by decide +kernel)

theorem witness_TokensAndQueues :
    Met (withTokens (at_ .exec) 255) { cplForm with wB := 255 } ((withTokens (at_ .exec) 255).sq.afterEret = false) ∧
    Met (withTokens (at_ .exec) 3) { cplForm with wA := 3 } True ∧ Met (at_ .exec) { cplForm with sB := 1 } True ∧
    Met (at_ .exec) { cplForm with sA := 1 } True ∧
    Met (withOwnQueue (at_ .load) 7) { cplForm with xs := [3], drains := true }
      (((withOwnQueue (at_ .load) 7).cur.seqr .exec).ended = false ∧ ((withOwnQueue (at_ .load) 7).cur.edge .load).queue.length < 8) ∧
    Met (withOwnQueue (at_ .load) 8) { cplForm with xs := [3], drains := true }
      (8 ≤ ((withOwnQueue (at_ .load) 8).cur.edge .load).queue.length) ∧
    Met ((at_ .load).setCur ((at_ .load).cur.setSeqr .exec { (at_ .load).cur.seqr .exec with ended := true }))
      { cplForm with xs := [3], drains := true } True ∧
    Met (withQueue (at_ .load) 9 1) { cplForm with xs := [3] } (((withQueue (at_ .load) 9 1).cur.edge .control).queue = [9]) ∧
    Met (at_ .load) { cplForm with xs := [3] } (((at_ .load).cur.edge .control).queue = []) ∧
    Met (at_ .load) (scalar u false 0x09 6 [] []) ((at_ .load).cur.ctr .load 7 = 0) := by
  repeat' apply And.intro
  all_goals exact met (by decide +kernel)

theorem witness_WorkRanges :
    Met (withLevel (at_ .control) false 15 16) (workForm (withLevel (at_ .control) false 15 16) 0)
      ((withLevel (at_ .control) false 15 16).level 0 = some (⟨1, false, false, 4, 2, 16⟩, ⟨0, 16, 15, 0, false, 0, none⟩)) ∧
    Met (withLevel (at_ .control) false 16 16) (workForm (withLevel (at_ .control) false 16 16) 0)
      ((withLevel (at_ .control) false 16 16).level 0 = some (⟨1, false, false, 4, 2, 16⟩, ⟨0, 16, 16, 0, false, 0, none⟩)) ∧
    Met (at_ .control) (workForm (at_ .control) 7) ((at_ .control).level 7 = none) ∧
    Met (withLevel (at_ .control) false 0 16) (scalar u false 0x0A 1 [3] []) True := by
  repeat' apply And.intro
  all_goals exact met (by decide +kernel)

theorem witness_LoadsAndStores :
    Met (at_ .load) (scalar u false 0x0D 0 [3] []) ((at_ .load).ctrRoom (some 2) = true ∧
      okB (((at_ .load).begin (scalar u false 0x0D 0 [3] [])).scalarVia .read false 8 0xFFF8) = true) ∧
    Met (withPins (at_ .load) 1) (scalar u false 0x0D 0 [3] [])
      (feTakes (withPins (at_ .load) 1) (scalar u false 0x0D 0 [3] []) 8 = true) ∧
    Met (withEmpty (at_ .load)) (scalar u false 0x0D 0 [3] [])
      (feWaits (withEmpty (at_ .load)) (scalar u false 0x0D 0 [3] []) 8 = true) ∧
    Met (at_ .load) (scalar u true 0x0D 0 [3] []) ((0x3 : Word64).toNat % 4 ≠ 0) ∧
    Met (at_ .store) (scalar u false 0x0E 0 [3] []) (okB (((at_ .store).begin (scalar u false 0x0E 0 [3] [])).scalarVia .write
      false 1 0xFFFF) = true) ∧
    Met (at_ .store) (scalar u true 0x0E 0 [3] []) (okB (((at_ .store).begin (scalar u true 0x0E 0 [3] [])).scalarVia .write
      false 8 0) = true) := by
  repeat' apply And.intro
  all_goals exact met (by decide +kernel)

theorem witness_TileLoadsAndStores :
    Met (at_ .load) (tmemForm u 4 0 15 false)
      ((((at_ .load).begin (tmemForm u 4 0 15 false)).unitsGo .read false 0x1000 ((at_ .load).guard u) (unitsOf ((at_ .load).guard u) 15 0) []).2 = none) ∧
    Met (withPins (at_ .load) 4) (tmemForm u 4 0 1 false) (feTakesRows (withPins (at_ .load) 4) (tmemForm u 4 0 1 false) = true) ∧
    Met (at_ .store) (tmemForm u 31 15 0 true)
      ((((at_ .store).begin (tmemForm u 31 15 0 true)).unitsGo .write false 0xFF00 ((at_ .store).guard u)
        (unitsOf ((at_ .store).guard u) 0 0) []).2 = none) ∧
    Met (at_ .store) (tmemForm u 31 15 0 true)
      ((((at_ .store).begin (tmemForm u 31 15 0 true)).unitsGo .write false 0xFFF0 ((at_ .store).guard u)
        (unitsOf ((at_ .store).guard u) 0 0) []).2 = some (.trap .page (pageVal 0 0x10000))) := by
  repeat' apply And.intro
  all_goals exact met (by decide +kernel)

theorem witness_TransfersAccepted :
    Met (at_ .load) (cmdForm u 0x10 0 [4] []) ((at_ .load).ctrRoom none = true ∧
      ((at_ .load).begin (cmdForm u 0x10 0 [4] [])).cntFillStop none none = none ∧
      accepts (at_ .load) (cmdForm u 0x10 0 [4] []) (some .core) = true) ∧
    Met (at_ .load) (cmdForm u 0x10 1 [4, 5, 6] []) ((4 : XReg) ≠ 15 ∧ ((at_ .load).getX 4).toNat % 4 = 0 ∧
      ((at_ .load).begin (cmdForm u 0x10 1 [4, 5, 6] [])).cntFillStop (some 0) none = none ∧
      accepts (at_ .load) (cmdForm u 0x10 1 [4, 5, 6] []) none = true) ∧
    Met (withDeadGroup (at_ .store)) (cmdForm u 0x10 2 [14, 15] []) ((withDeadGroup (at_ .store)).alive
      (withDeadGroup (at_ .store)).cmdGroup = false ∧
      ((withDeadGroup (at_ .store)).begin (cmdForm u 0x10 2 [14, 15] [])).cntFillStop none none = none) ∧
    Met (at_ .load) (cmdForm u 0x10 3 [4] []) (accepts (at_ .load) (cmdForm u 0x10 3 [4] []) none = true) ∧
    Met (at_ .load) (cmdForm u 0x10 4 [4] []) (accepts (at_ .load) (cmdForm u 0x10 4 [4] []) none = true) := by
  repeat' apply And.intro
  all_goals exact met (by decide +kernel)

theorem witness_LocalMemoryAndRings :
    Met ((at_ .control).setX 1 0xFFF80) (lmForm u 0 [1, 2] [3]) ((0xFFF80 + 128) ≤ 2 ^ 20 ∧
      ((at_ .control).setX 1 0xFFF80).cur.scratchStorePending .control = false) ∧
    Met ((at_ .control).setX 2 127) (lmForm u 0 [1, 2] [3]) ((((at_ .control).setX 2 127).getX 2).toNat % 128 ≠ 0) ∧
    Met (withPins (at_ .control) 1) (lmForm u 1 [1, 2] []) ((withPins (at_ .control) 1).cur.inRingOrBivouac 0 128 = false ∧
      (withPins (at_ .control) 1).cur.namesScratch 0 128 = false) ∧
    Met (withRing (at_ .control) ⟨0, 128, 1, 0, 0, 0, [], []⟩) (lmForm u 1 [1, 2] [])
      ((withRing (at_ .control) ⟨0, 128, 1, 0, 0, 0, [], []⟩).cur.inRingOrBivouac 0 128 = true) ∧
    Met ((withBiv (at_ .control) true).setX 1 128) (lmForm u 1 [1, 2] [])
      (((withBiv (at_ .control) true).setX 1 128).cur.namesScratch 128 0 = false) ∧
    Met (withPins (at_ .control) 1) (lmForm u 2 [1, 2] []) ((withPins (at_ .control) 1).cur.unpinnedGranule 0 16 = none ∧
      (withPins (at_ .control) 1).cur.rangeCopied 0 16 = false) ∧
    Met (withPins (at_ .control) 1) (lmForm u 3 [1, 2] []) ((withPins (at_ .control) 1).cur.unpinnedGranule 112 128 = none) ∧
    Met ((at_ .control).setX 1 15) (lmForm u 3 [1, 2] []) ((((at_ .control).setX 1 15).getX 1).toNat % 16 ≠ 0) := by
  repeat' apply And.intro
  all_goals exact met (by decide +kernel)

/-- A ring of two slots: none in use; both filled; both acquired. -/
theorem witness_LocalMemoryAndRings_rings :
    Met (withRing (at_ .load) ⟨0, 128, 2, 0, 0, 0, [], []⟩) (ringForm u false 0)
      ((withRing (at_ .load) ⟨0, 128, 2, 0, 0, 0, [], []⟩).ringOf 2 = some ⟨0, 128, 2, 0, 0, 0, [], []⟩) ∧
    Met (withRing (at_ .load) ⟨0, 128, 2, 2, 2, 0, [], []⟩) (ringForm u false 0)
      ((2 : Nat) ≤ ((2 : BitVec 32) - 0).toNat ∧ 0 < ((2 : BitVec 32) - 0).toNat ∧ (withRing (at_ .load) ⟨0, 128, 2, 2, 2, 0, [], []⟩).ringOf 2 =
        some ⟨0, 128, 2, 2, 2, 0, [], []⟩) ∧
    Met (withRing (at_ .load) ⟨0, 128, 2, 1, 0, 0, [], []⟩) { ringForm u false 1 with drains := true }
      ((⟨0, 128, 2, 1, 0, 0, [], []⟩ : Ring).oldest.isSome = true) ∧
    Met (withRing (at_ .load) ⟨0, 128, 2, 1, 1, 0, [], []⟩) { ringForm u false 1 with drains := true }
      ((⟨0, 128, 2, 1, 1, 0, [], []⟩ : Ring).oldest = none) ∧
    Met (at_ .load) (ringForm u false 0) ((at_ .load).ringOf 2 = none) ∧
    Met (withPins (at_ .control) 4) (ringForm u true 4) (((withPins (at_ .control) 4).inst.map fun i => i.rings.getLsbD 2) = some true ∧
      ∀ l ∈ linesIn 0 512, Tbl.get? (withPins (at_ .control) 4).cur.pins l ≠ none) := by
  repeat' apply And.intro
  all_goals exact met (by decide +kernel)

theorem witness_AtomicsIssue :
    Met (at_ .control) (cmdForm u 0x13 8 [4, 5] []) ((at_ .control).ctrRoom (some 3) = true ∧
      okB (((at_ .control).begin (cmdForm u 0x13 8 [4, 5] [])).scalarVia .amo false 8 0x8000) = true) ∧
    Met (at_ .control) (cmdForm u 0x13 7 [4, 5] []) ((0x8002 : Word64).toNat % 4 ≠ 0) ∧
    Met (at_ .load) vamoForm ((((at_ .load).begin vamoForm).elsGo 8 [(0, 0x8000, 1, 0), (31, 0x8000, 1, 0)] []).2 = none) := by
  repeat' apply And.intro
  all_goals exact met (by decide +kernel)

theorem witness_FencesAndBarriers :
    Met (at_ .store) (syncForm u 0 []) ((at_ .store).ctrRoom (some 7) = true) ∧
    Met (at_ .store) (syncForm u 1 []) ((at_ .store).cur.fencePending .store = false) ∧
    Met (withArmed (at_ .control) 1) (syncForm u 2 [1]) ((withArmed (at_ .control) 1).sq.sleep = .none ∧
      firesB (withArmed (at_ .control) 1) (syncForm u 2 [1]) = some true) ∧
    Met (withArmed (at_ .control) 0) (syncForm u 2 [1]) (firesB (withArmed (at_ .control) 0) (syncForm u 2 [1]) = some false) ∧
    Met ((at_ .control).setSq { (at_ .control).sq with sleep := .woken 3 }) (syncForm u 2 [1]) True ∧
    Met ((at_ .control).setSq { (at_ .control).sq with sleep := .wait4 [] }) (syncForm u 2 [1]) True ∧
    Met (at_ .control) (syncForm u 3 [4, 5]) (okB (((at_ .control).begin (syncForm u 3 [4, 5])).scalarVia .amo false 16 0) = true) ∧
    Met ((at_ .control).setX 4 8) (syncForm u 3 [4, 5]) ((((at_ .control).setX 4 8).getX 4).toNat % 16 ≠ 0) ∧
    Met ((at_ .control).setX 4 0x7000) (syncForm u 4 [4, 5])
      (peekB ((at_ .control).setX 4 0x7000) (syncForm u 4 [4, 5]) 0x7000 = some 0) := by
  repeat' apply And.intro
  all_goals exact met (by decide +kernel)

theorem witness_TrapEntryAndReturn :
    ((at_ .control).sq.intrap = false ∧ (onSq (at_ .control) fun q => { q with tvec := 0x100 }).sq.tvec ≠ 0) ∧
    ((onSq (at_ .control) fun q => { q with intrap := true }).sq.intrap = true ∧ (at_ .control).sq.tvec = 0 ∧
      ((at_ .control).getCore 0).inst.isSome = true) := by decide +kernel

theorem witness_TrapEntryAndReturn_return :
    Met (onSq (at_ .control) fun q => { q with sup := true, intrap := true }) (sysForm u 0 []) True ∧
    Met (onSq (at_ .control) fun q => { q with sup := true }) (sysForm u 0 []) ((at_ .control).sq.intrap = false) ∧
    Met (onSq (at_ .load) fun q => { q with afterEret := true, trapPc := q.pc, wdone := true, sdone := true, trapMask := 3 })
      (scalar u false 0x01 0 [3, 1, 2] []) True := by
  repeat' apply And.intro
  all_goals exact met (by decide +kernel)

theorem witness_SystemInstructions :
    Met (at_ .load) (sysForm u 0 []) ((at_ .load).sq.sup = false) ∧
    Met (at_ .load) (sysForm u 0 [3]) ((at_ .load).sysStop 0x43 = none) ∧
    Met (at_ .load) (sysForm u 0 [3]) ((at_ .load).sysStop 0x44 = some (.illegal, 0)) ∧
    Met (at_ .load) (sysForm u 0 [3]) ((at_ .load).sysStop 0x1C = some (.illegal, 0)) ∧
    Met (onSq (at_ .load) fun q => { q with sleep := .idleDone 2 }) (sysForm u 0 [3]) True ∧
    Met { (at_ .load).setX 3 5 with time := 6 } (sysForm u 0 [3]) True ∧
    Met { (at_ .load).setX 3 5 with time := 5 } (sysForm u 0 [3])
      (({ (at_ .load).setX 3 5 with time := 5 } : State).causeWaits 0 .load = false ∧ (at_ .load).preempting = false) ∧
    Met (withPreempt (at_ .load)) (sysForm u 0 [3]) ((withPreempt (at_ .load)).preempting = true) ∧
    Met (at_ .load) { sysForm u 4 [] with stops := true } True ∧
    Met (at_ .load) (sysForm u 0 []) ((withPreempt (at_ .load)).running = true ∧
      (withPreempt (at_ .load)).early { sysForm u 4 [] with stops := true } = none ∧
      (withPreempt (at_ .load)).preempting = true ∧ (withPreempt (at_ .load)).g0 u = true) := by
  repeat' apply And.intro
  all_goals exact met (by decide +kernel)

theorem witness_TileRowArithmetic :
    Met (at_ .exec) (tileForm u 0x16 0 [.tile 4 2] [.tile 6 0, .opd 1] []) (ElemTy.i8.isFloat = false) ∧
    Met (at_ .exec) (tileForm u 0x16 0 [.latch] [.bcast 7, .latch] []) (ElemTy.bf16.isFloat = true) ∧
    Met (at_ .exec) (tileForm u 0x16 0 [.opd 3] [.tile 31 15] []) True := by
  repeat' apply And.intro
  all_goals exact met (by decide +kernel)

theorem witness_TileRowResults : (∀ x, TileOp.tile 31 15 ≠ .bcast x) ∧ (∀ x, TileOp.latch ≠ .bcast x) ∧ ElemTy.u64.bytes = 8 := by
  decide

theorem witness_TileRowLogicShiftsMoves :
    Met (at_ .exec) (tileForm u 0x18 0 [.tile 4 2] [.tile 6 0, .opd 1] []) True ∧
    Met (at_ .exec) (tileForm u 0x17 0 [.tile 4 2] [.bcast 0] []) True ∧
    Met (at_ .exec) (tileForm u 0x17 1 [.tile 4 2] [.tile 6 0, .opd 1] [7]) True ∧
    Met (at_ .exec) (tileForm u 0x18 3 [.tile 4 2] [.tile 6 0, .opd 1] []) True ∧
    Met (at_ .exec) (tileForm u 0x17 0 [] [.tile 6 0, .opd 1] [14, 15]) True := by
  repeat' apply And.intro
  all_goals exact met (by decide +kernel)

theorem witness_TileRowFunctionsAndDraws :
    Met (at_ .exec) (tileForm u 0x1B 0 [.tile 4 2] [.tile 6 0] []) True ∧
    Met (at_ .exec) (tileForm u 0x1B 1 [.tile 4 2] [.tile 6 0] []) (gPackOk (Tbl.getD (at_ .exec).cur.g 2 0) = false) ∧
    Met (withG (at_ .exec) (BitVec.ofNat 256 (0xB * 2 ^ 140 + 8 * 2 ^ 135))) (tileForm u 0x1B 2 [.tile 4 2] [.tile 6 0] [])
      (gPackOk (BitVec.ofNat 256 (0xB * 2 ^ 140 + 8 * 2 ^ 135)) = true) ∧
    Met (at_ .exec) (tileForm u 0x1D 0 [.tile 4 2] [.tile 6 0] []) True ∧
    Met (at_ .exec) (tileForm u 0x1C 0 [.tile 4 2] [.tile 6 0] []) True ∧
    Met (at_ .exec) { tileForm u 0x20 0 [.tile 4 2] [.tile 6 12] [] with rr := rowsOf 6 12 4 } True ∧
    Met (at_ .exec) (tileForm u 0x1E 0 [.tile 4 2] [] [])
      (((at_ .exec).begin (tileForm u 0x1E 0 [.tile 4 2] [] [])).drawRow.isSome = true) ∧
    Met (at_ .exec) (tileForm u 0x1E 1 [] [.tile 4 2] [2, 3]) True := by
  repeat' apply And.intro
  all_goals exact met (by decide +kernel)

theorem witness_RankedLists :
    Met (((at_ .exec).setX 1 64).setX 2 4) (listForm u 0 5 [1, 2] true)
      ((0 : BitVec 4).toNat + 4 * listRows 64 ≤ 16 ∧ (at_ .exec).rowsWrite (rowsOf 5 0 (4 * listRows 64)) = true) ∧
    Met (withList (at_ .exec)) { tileForm u 0x1F 1 [] [.tile 6 0] [] with tiles := 5 :: tileOf (.tile 6 0), xs := 7 :: xOf (.tile 6 0) }
      ((withList (at_ .exec)).cur.list? 5 0 = some ⟨32, 4, 1, 0⟩ ∧ (withList (at_ .exec)).rowsRead (rowsOf 5 4 1) = true ∧ (withList (at_ .exec)).rowsWrite (rowsOf 5 4 1) = true) ∧
    Met (withList (at_ .exec)) (listForm u 2 5 [7] true)
      (okB (((withList (at_ .exec)).begin (listForm u 2 5 [7] true)).syncRead 8 0 256) = true) ∧
    Met (withList (at_ .exec)) { listForm u 4 5 [] true with tiles := [6, 5] } ((15 : BitVec 4).toNat + listRows 32 ≤ 16) ∧
    Met (withList (at_ .exec)) (listForm u 3 5 [7] true) ((withList (at_ .exec)).cur.list? 5 1 = none) ∧
    Met (at_ .exec) (listForm u 2 5 [7] true) ((at_ .exec).cur.list? 5 0 = none) := by
  repeat' apply And.intro
  all_goals exact met (by decide +kernel)

theorem witness_ReelAndBivouacs :
    Met (withReel (at_ .exec) 192) { tileForm u 0x0B 0 [] [.tile 6 0, .tile 7 12] [1] with rr := rowOf (.tile 6 0) ++ rowsOf 7 12 4 }
      ((withReel (at_ .exec) 192).cur.reel.length + 64 ≤ 256) ∧
    Met (withReel (at_ .exec) 193) { tileForm u 0x0B 0 [] [.tile 6 0, .tile 7 12] [1] with rr := rowOf (.tile 6 0) ++ rowsOf 7 12 4 }
      (256 < (withReel (at_ .exec) 193).cur.reel.length + (predElems 4 ((withReel (at_ .exec) 193).guard u)).length) ∧
    Met (withReel (at_ .exec) 64) { tileForm u 0x0B 1 [.tile 6 11] [] [1] with guarded := true, rw := rowsOf 6 11 5 }
      (64 ≤ (withReel (at_ .exec) 64).cur.reel.length) ∧
    Met (withReel (at_ .exec) 63) { tileForm u 0x0B 1 [.tile 6 11] [] [1] with guarded := true, rw := rowsOf 6 11 5 }
      ((withReel (at_ .exec) 63).cur.reel.length < 64) ∧
    Met (at_ .exec) (scalar u true 0x0B 2 [5] []) True ∧
    Met (withPins ((at_ .control).setX 2 128) 2) (bivForm u 0 [1, 2]) (
      (withPins ((at_ .control).setX 2 128) 2).cur.firstUnpinned 0 256 = none ∧
      (withPins ((at_ .control).setX 2 128) 2).cur.biv.active = false) ∧
    Met (withBiv (withPins ((at_ .control).setX 2 128) 2) true) (bivForm u 0 [1, 2])
      ((withBiv (withPins ((at_ .control).setX 2 128) 2) true).cur.biv.active = true) ∧
    Met (withBiv (at_ .control) true) (bivForm u 1 []) ((withBiv (at_ .control) true).cur.scratchStorePending .control = false) ∧
    Met (withBiv (at_ .control) false) (bivForm u 1 []) ((withBiv (at_ .control) false).cur.biv.active = false) := by
  repeat' apply And.intro
  all_goals exact met (by decide +kernel)

theorem witness_StreamsBelaysAndShapes :
    Met (at_ .exec) (cmdForm u 0x21 0 [] []) (okB (((at_ .exec).begin (cmdForm u 0x21 0 [] [])).syncRead 32 0x7000 32) = true) ∧
    Met (at_ .exec) (cmdForm u 0x21 1 [4, 5] []) True ∧
    Met ((at_ .exec).setX 4 8) (cmdForm u 0x21 1 [4, 5] []) ((((at_ .exec).setX 4 8).getX 4).toNat % 16 ≠ 0) ∧
    Met (at_ .exec) (matrixForm u 0x22 0 [] []) ((at_ .exec).ctrRoom (some 0) = true ∧ (at_ .exec).cur.leased = false) ∧
    Met (withPair (at_ .exec)) (matrixForm u 0x22 0 [] []) ((withPair (at_ .exec)).cur.leased = true) ∧
    Met (withPair (at_ .exec)) (matrixForm u 0x22 1 [] []) (∀ e ∈ ((withPair (at_ .exec)).getCluster 0).table, e.1 ≠ 0) ∧
    Met (at_ .exec) (matrixForm u 0x26 1 [] []) True ∧ Met (at_ .exec) (matrixForm u 0x26 2 [] []) (coreCluId 0 % 4 + 3 ≤ 3) ∧
    Met (at_ .exec) (matrixForm u 0x26 3 [7] [3]) (okB (((at_ .exec).begin (matrixForm u 0x26 3 [7] [3])).readShape 0) = true) := by
  repeat' apply And.intro
  all_goals exact met (by decide +kernel)

/-- mloadb of g1 into array S without a fold: every check of R315 passes. -/
theorem witness_MatrixCommandsAccepted_load :
    Met matrixState (matrixForm u 0x23 0 [] []) (
      let s := matrixState
      let b := s.begin (matrixForm u 0x23 0 [] [])
      let v := Tbl.getD s.cur.g 1 0
      let rs := tileRanges .s false 1 v 0 (gNext v) 0 (gKext v)
      s.ctrRoom (some 1) = true ∧ s.cur.leased = true ∧ gFmt v = 11 ∧ gM v = 8 ∧ gBls v ≠ 3 ∧ gKext v = 32 ∧ gNext v = 4 ∧
      b.bPlaced b.selfAgent s.core rs = true ∧ ceilDiv (gKext v) (gBl v) ≤ gSext v ∧
      b.rangesFault b.selfAgent (rs.map (·.1)) = none ∧ accepts s (matrixForm u 0x23 0 [] []) none = true ∧
      (b.getCluster (coreCluster s.core)).active s.core = true ∧ b.tableUsed (coreCluster s.core) ≤ 31) ∧
    Met (at_ .exec) (matrixForm u 0x23 0 [] []) ((at_ .exec).cur.leased = false) ∧
    Met (withPair (at_ .exec)) (matrixForm u 0x23 0 [] []) (gFmt (Tbl.getD (withPair (at_ .exec)).cur.g 1 0) ≠ 11) := by
  repeat' apply And.intro
  all_goals exact met (by decide +kernel)

/-- mmul of g0, one row, with the tile of that plane, with INIT. -/
theorem witness_MatrixCommandsAccepted_product :
    Met matrixState (matrixForm u 0x24 0 [] []) (
      let s := matrixState
      let b := s.begin (matrixForm u 0x24 0 [] [])
      let a := Tbl.getD s.cur.g 0 0
      let tile := bfpImg 0x10000 0x10200 32 4
      s.cur.leased = true ∧ (b.getCluster (coreCluster s.core)).active s.core = true ∧
      b.cur.tileOf (b.cur.lastPlane .s) = some (tile, false, 1) ∧ gFmt a = 11 ∧ gM a = 8 ∧ gBls a ≠ 3 ∧ gBl a = gBl tile ∧
      gKext a = 32 ∧ gKext a = gKext tile ∧ gNext a = 1 ∧ (⟨.sum, 1, gNext tile⟩ : BankShape).fits = true ∧
      (⟨.sum, 0, gNext tile⟩ : BankShape).fits = true ∧
      b.aPlaced b.selfAgent s.core (stripRanges a 0 1) = true ∧ ceilDiv (gKext a) (gBl a) ≤ gSext a ∧
      b.rangesFault b.selfAgent (stripRanges a 0 1) = none ∧ s.cur.chain = none ∧
      accepts s (matrixForm u 0x24 0 [] []) none = true ∧ b.tableUsed (coreCluster s.core) + min 32 (max 1 (ceilDiv 1 16)) ≤ 32) := by
  exact met (by decide +kernel)

theorem witness_MatrixCommandsAccepted_attention :
    Met attnState (matrixForm u 0x25 0 [3] []) (
      let s := attnState
      let w := s.begin (matrixForm u 0x25 0 [3] [])
      let q := w.gReg 3
      let kk := w.gReg 4
      let vv := w.gReg 2
      inScratch (s.getX 3).toNat = true ∧ (s.getX 3).toNat % 64 = 0 ∧ descB s (matrixForm u 0x25 0 [3] []) = true ∧
      bfpOk q 16 = true ∧ bfpOk kk 8 = true ∧ bfpOk vv 8 = true ∧ gBl q = gBl kk ∧ gBl vv = 32 ∧ gKext q = 1 ∧ gKext kk = 1 ∧
      1 ≤ gNext q ∧ gNext kk = 1 ∧ gKext vv = 1 ∧ gNext vv = 1 ∧
      w.bPlaced w.selfAgent w.core (passRanges kk vv ⟨0, false, false, true, false, 1, 1, 0, 0, 0, 0, 1⟩ 0) = true ∧
      w.aPlaced w.selfAgent w.core (stripRanges q 0 1) = true ∧ gShort q = false ∧ gShort kk = false ∧ gShort vv = false ∧
      w.rangesFault w.selfAgent (stripRanges q 0 1 ++
        (passRanges kk vv ⟨0, false, false, true, false, 1, 1, 0, 0, 0, 0, 1⟩ 0).map (·.1)) = none ∧
      w.cur.leased = true ∧ (w.getCluster (coreCluster w.core)).active w.core = true ∧
      accepts s (matrixForm u 0x25 0 [3] []) none = true ∧ w.tableUsed (coreCluster w.core) + 1 ≤ 32) ∧
    Met (at_ .exec) (matrixForm u 0x25 0 [3] []) ((at_ .exec).cur.leased = false) ∧
    Met (withPair (at_ .exec)) (matrixForm u 0x25 0 [3] []) (inScratch ((withPair (at_ .exec)).getX 3).toNat = false) := by
  repeat' apply And.intro
  all_goals exact met (by decide +kernel)

/-- A drain of the bank's last 64 sums into tile 4, of 64 words to memory, and of a bank that holds nothing. -/
theorem witness_MatrixCommandsAccepted_drains :
    Met (bankState .exec) { matrixForm u 0x26 0 [7] [] with seqs := [.exec], tiles := [4], rw := rowsOf 4 0 1 } (
      (bankState .exec).cur.bankShape 0 = ⟨.sum, 16, 4⟩ ∧ (0 : Nat) + 64 * 1 ≤ 16 * 4 ∧
      accepts (bankState .exec) (matrixForm u 0x26 0 [7] []) none = true) ∧
    Met (bankState .store) { matrixForm u 0x26 0 [7, 8] [] with seqs := [.store] } (
      let b := (bankState .store).begin { matrixForm u 0x26 0 [7, 8] [] with seqs := [.store] }
      okB (b.check (some 0) b.asid b.sq.sup .write false 16 0x8000) = true ∧ b.cntFillStop none none = none) ∧
    Met (at_ .exec) { matrixForm u 0x26 0 [7] [] with seqs := [.exec], tiles := [4], rw := rowsOf 4 0 1 }
      ((at_ .exec).cur.bankShape 0 = ⟨.empty, 0, 0⟩) := by
  repeat' apply And.intro
  all_goals exact met (by decide +kernel)

theorem witness_EnginesAccept :
    Met (at_ .control) (cmdForm u 0x27 0 [4, 5] []) (accepts (at_ .control) (cmdForm u 0x27 0 [4, 5] []) none = true) ∧
    Met ((at_ .load).setX 5 0xFFFF) (cmdForm u 0x27 1 [4, 5] []) ((((at_ .load).setX 5 0xFFFF).getX 5).toNat < 2 ^ 16) ∧
    Met (((at_ .load).setX 5 0x10000).setX 4 64) (cmdForm u 0x27 1 [4, 5] [])
      (2 ^ 16 ≤ ((((at_ .load).setX 5 0x10000).setX 4 64).getX 5).toNat) ∧
    Met ((at_ .load).setX 4 32) (cmdForm u 0x27 1 [4, 5] []) ((((at_ .load).setX 4 32).getX 4).toNat % 64 ≠ 0) ∧
    Met (at_ .control) (cmdForm u 0x28 0 [3, 4] []) (sidHome 0 = (at_ .control).modId.toNat % 1024) ∧
    Met ((at_ .control).setX 4 0x8000) (cmdForm u 0x28 0 [3, 4] []) (sidHome 0x8000 ≠ (at_ .control).modId.toNat % 1024) ∧
    Met (at_ .control) (cmdForm u 0x28 1 [3] []) True ∧ Met (at_ .control) (cmdForm u 0x28 2 [3] []) True ∧
    Met (at_ .control) (cmdForm u 0x28 3 [14, 15, 4, 5] [2]) ((14 : XReg) ≠ 15 ∧
      (at_ .control).reaches ((at_ .control).blockModule (sidHome 0)) = true) := by
  repeat' apply And.intro
  all_goals exact met (by decide +kernel)

theorem witness_TasksSpawnPopReprioritise :
    Met (withRecord (at_ .control) 0x3F80_0000 0) (cmdForm u 0x29 0 (3 :: regs4 4 ++ []) [1]) (
      let b := (withRecord (at_ .control) 0x3F80_0000 0).begin (cmdForm u 0x29 0 (3 :: regs4 4 ++ []) [1])
      priNan (b.recordAt 4).pri = false ∧ nodeNull (b.recordAt 4).node = true ∧ b.kvRefOk (b.recordAt 4) = true ∧
        okB (b.acceptRel none) = true) ∧
    Met (withRecord (at_ .control) 0x7F80_0001 0) (cmdForm u 0x29 0 (3 :: regs4 4 ++ []) [1])
      (priNan ((withRecord (at_ .control) 0x7F80_0001 0).recordAt 4).pri = true) ∧
    Met ((withRecord (at_ .control) 0x3F80_0000 0).setX 6 0) (cmdForm u 0x29 0 (3 :: regs4 4 ++ []) [1])
      (((withRecord (at_ .control) 0x3F80_0000 0).setX 6 0).kvRefOk (((withRecord (at_ .control) 0x3F80_0000 0).setX 6 0).recordAt 4)
        = false) ∧
    Met ((at_ .control).setX 8 4) (cmdForm u 0x29 0 (3 :: regs4 4 ++ [8]) [1]) (4 ≤ (((at_ .control).setX 8 4).getX 8).toNat) ∧
    Met ((withRecord (at_ .control) 0x3F80_0000 0).setX 9 0xFFFF) (cmdForm u 0x29 4 (3 :: 9 :: regs4 4) [1])
      ((((withRecord (at_ .control) 0x3F80_0000 0).setX 9 0xFFFF).getX 9).toNat < 2 ^ 16) ∧
    Met (at_ .control) (cmdForm u 0x29 4 (3 :: 9 :: regs4 4) [1]) (((at_ .control).getX 9).toNat = 0) ∧
    Met (at_ .control) (cmdForm u 0x29 1 (9 :: xPlus 4 4 :: regs4 4) [1])
      (((at_ .control).inst.map fun i => i.flags.getLsbD 0) = some true ∧ ((at_ .control).pop 0 0).2 = none) ∧
    Met (withTask (at_ .control) .queued) (cmdForm u 0x29 1 (9 :: xPlus 4 4 :: regs4 4) [1])
      (((withTask (at_ .control) .queued).pop 0 0).2.isSome = true) ∧
    Met ((withTask (at_ .control) .queued).setX 9 (BitVec.ofNat 64 (taskHandle 0 7 0).toNat)) (cmdForm u 0x29 2 [9, 10] [1])
      ((((withTask (at_ .control) .queued).named (taskHandle 0 7 0)).map (·.state)) = some .queued) ∧
    Met ((withTask (at_ .control) .waiting).setX 9 (BitVec.ofNat 64 (taskHandle 0 7 0).toNat)) (cmdForm u 0x29 2 [9, 10] [1])
      ((((withTask (at_ .control) .waiting).named (taskHandle 0 7 0)).map (·.state)) = some .waiting) ∧
    Met (at_ .control) (cmdForm u 0x29 2 [9, 10] [1]) ((at_ .control).named 0 = none) := by
  repeat' apply And.intro
  all_goals exact met (by decide +kernel)

/-- A slot is free in an empty queue, whatever the free choice. -/
theorem witness_TasksSpawnPopReprioritise_slot : ∃ slot, (at_ .control).freeSlot 0 = some slot :=
  ⟨_, firstFrom_here (k := 262143) (by rfl)⟩

theorem witness_TasksEndAndGroups :
    Met (withCurTask (at_ .control)) (cmdForm u 0x29 5 [] [1])
      (okB (((withCurTask (at_ .control)).begin (cmdForm u 0x29 5 [] [1])).acceptRel none) = true) ∧
    Met ((withTask (at_ .control) (.row 1)).setX 9 (BitVec.ofNat 64 (taskHandle 0 7 0).toNat)) (cmdForm u 0x29 5 [9] [1])
      ((((withTask (at_ .control) (.row 1)).named (taskHandle 0 7 0)).map (·.state)) = some (.row 1) ∧
        ((withTask (at_ .control) (.row 1)).inst.map (·.launch)) = some 1) ∧
    Met (at_ .control) (cmdForm u 0x29 5 [9] [1]) ((at_ .control).named 0 = none) ∧
    Met (at_ .control) (cmdForm u 0x29 6 [] [1]) ((at_ .control).alive (at_ .control).cmdGroup = true) ∧
    Met (withDeadGroup (at_ .control)) (cmdForm u 0x29 6 [] [1])
      ((withDeadGroup (at_ .control)).alive (withDeadGroup (at_ .control)).cmdGroup = false) ∧
    Met ((at_ .control).setX 9 0x10000) (cmdForm u 0x29 3 [9] [1]) (2 ^ 16 ≤ (((at_ .control).setX 9 0x10000).getX 9).toNat) ∧
    Met ((at_ .control).setX 9 0xFFFF) (cmdForm u 0x29 3 [9] [1]) ((at_ .control).reaches (at_ .control).modId.toNat = true ∧
      (at_ .control).modId.toNat < 2 ^ 12 ∧ (at_ .control).ctrRoom (some 0) = true) ∧
    Met (at_ .control) (cmdForm u 0x29 7 [3, 9] [1]) True ∧
    Met ((withRope (at_ .control) 1).setX 9 3) (cmdForm u 0x29 7 [3, 9] [1])
      ((((withRope (at_ .control) 1).getGroup 3).bind (·.rope)).map (fun r => (r.made, r.size, r.decided)) = some (1, 2, none)) ∧
    Met ((withRope (at_ .control) 2).setX 9 3) (cmdForm u 0x29 7 [3, 9] [1])
      ((((withRope (at_ .control) 2).getGroup 3).bind (·.rope)).map (fun r => decide (r.made = r.size)) = some true) ∧
    Met (at_ .control) (cmdForm u 0x29 7 [3, 9, 10] [1])
      (okB (((at_ .control).begin (cmdForm u 0x29 7 [3, 9, 10] [1])).syncRead 1 0x7000 32) = true) ∧
    Met ((at_ .control).setX 10 16) (cmdForm u 0x29 7 [3, 9, 10] [1]) ((((at_ .control).setX 10 16).getX 10).toNat % 32 ≠ 0) ∧
    Met (at_ .control) (cmdForm u 0x29 7 [3, xPlus 3 1, 9] [1]) ((at_ .control).getGroup 0 = some Group.root) ∧
    Met ((at_ .control).setX 9 0xFFFF) (cmdForm u 0x29 7 [3, xPlus 3 1, 9] [1]) ((at_ .control).getGroup 0xFFFF = none) := by
  repeat' apply And.intro
  all_goals exact met (by decide +kernel)

/-- A rope's configuration block that is valid: two siblings, a quorum of one. -/
theorem witness_TasksEndAndGroups_rope : (ropeOf (leBytes 2 2 ++ leBytes 2 1 ++ List.replicate 28 0) 0).isSome = true := by decide

theorem witness_CairnsAndBallots :
    Met ((at_ .control).setX 9 0xFFFF) (cmdForm u 0x2A 0 (3 :: 9 :: []) [1]) ((((at_ .control).setX 9 0xFFFF).getX 9).toNat < 2 ^ 16) ∧
    Met (at_ .control) (cmdForm u 0x2A 0 (3 :: 9 :: []) [1]) (((at_ .control).getX 9).toNat = 0) ∧
    Met ((at_ .control).setX 10 1) (cmdForm u 0x2A 0 [9, 10] [1]) ((at_ .control).nodeHere 0 = true) ∧
    Met (at_ .control) (nodeForm u 1 [3, 9] 60 false) (nodeNull 0 = false ∧ (at_ .control).nodeHere 0 = true ∧
      (at_ .control).badRange (nodeAddr 0 + 60) 4 = false) ∧
    Met ((at_ .control).setX 9 0x3F_FFFF) (nodeForm u 1 [3, 9] 56 true) (nodeNull 0x3F_FFFF = true) ∧
    Met ((at_ .control).setX 9 0x40_0000) (nodeForm u 1 [3, 9] 56 true) ((at_ .control).nodeReachable 0x40_0000 = false) ∧
    Met (at_ .control) (nodeForm u 2 [9, 10] 0 true) ((at_ .control).ctrRoom none = true ∧ (at_ .control).nodeReachable 0 = true ∧
      okB (((at_ .control).begin (nodeForm u 2 [9, 10] 0 true)).acceptRel none) = true) ∧
    Met ((at_ .control).setX 10 255) (cmdForm u 0x2A 3 [9, 10] []) (accepts (at_ .control) (cmdForm u 0x2A 3 [9, 10] []) none = true) ∧
    Met ((at_ .control).setX 11 256) (cmdForm u 0x2A 4 [9, 10, 11] []) (256 ≤ (((at_ .control).setX 11 256).getX 11).toNat) ∧
    Met (at_ .control) (cmdForm u 0x2A 5 [3, 9, 10, xPlus 10 1] [1]) ((at_ .control).badRange (nodeAddr 0) 64 = false) ∧
    Met (at_ .control) (cmdForm u 0x2B 0 [3, 9] []) (sibAbove (at_ .control) 16 (at_ .control).cmdGroup = none) ∧
    Met (withSib (at_ .control)) (cmdForm u 0x2B 0 [3] [])
      ((sibAbove (withSib (at_ .control)) 16 (withSib (at_ .control)).cmdGroup).isSome = true ∧
        okB (((withSib (at_ .control)).begin (cmdForm u 0x2B 0 [3] [])).acceptRel none) = true) := by
  repeat' apply And.intro
  all_goals exact met (by decide +kernel)

theorem witness_CollectivesAndDispatch :
    Met (at_ .control) (cmdForm u 0x2C 0 [9] []) (accepts (at_ .control) (cmdForm u 0x2C 0 [9] []) none = true ∧
      okB ((at_ .control).checkParts .read 64 (lineCuts 2 0 64)) = true ∧ (at_ .control).collSet 0 0 = none) ∧
    Met ((at_ .load).setX 9 32) (cmdForm u 0x2C 4 [9] []) ((((at_ .load).setX 9 32).getX 9).toNat % 64 ≠ 0) ∧
    Met (withTable ((at_ .control).setX 10 7)) (cmdForm u 0x2C 5 [3, xPlus 3 1, 9, 10] [1])
      (((withTable ((at_ .control).setX 10 7)).getTable 0 0).flags.getLsbD 0 = true ∧ (7 : Nat) ≤ [0, 1, 2, 3, 4, 5, 6, 7].getD 7 0) ∧
    Met (withTable ((at_ .control).setX 10 8)) (cmdForm u 0x2C 5 [3, xPlus 3 1, 9, 10] [1]) (∀ j, j < 8 →
      ((withTable ((at_ .control).setX 10 8)).getTable 0 0).bound.getD j 0 < 8) ∧
    Met (at_ .control) (cmdForm u 0x2C 5 [3, xPlus 3 1, 9, 10] [1]) (((at_ .control).getTable 0 0).flags.getLsbD 0 = false) ∧
    Met (withTable (at_ .control)) (cmdForm u 0x2C 6 [] []) (accepts (withTable (at_ .control)) (cmdForm u 0x2C 6 [] []) none = true) := by
  repeat' apply And.intro
  all_goals exact met (by decide +kernel)

theorem witness_GraphsRingsAndTime :
    Met ((withBound (at_ .control)).setX 10 63) (cmdForm u 0x2D 0 [9, 10] [])
      (((withBound (at_ .control)).getSlot 0 63).gcfg.getLsbD 49 = true ∧ ((withBound (at_ .control)).getSlot 0 63).gcfg.toNat % 64 =
        (withBound (at_ .control)).asid) ∧
    Met ((at_ .control).setX 10 64) (cmdForm u 0x2D 0 [9, 10] []) (64 ≤ (((at_ .control).setX 10 64).getX 10).toNat) ∧
    Met (at_ .control) (cmdForm u 0x2D 0 [10] []) (((at_ .control).getSlot 0 0).gcfg.getLsbD 49 = false) ∧
    Met ((withBound (at_ .control)).setX 10 0x10_003F) (cmdForm u 0x2D 1 [9, 10] []) (
      ((withBound (at_ .control)).getHring 0 63).hrcfg.getLsbD 5 = true ∧
      ((withBound (at_ .control)).getHring 0 63).hrcfg.toNat / 64 % 64 = (withBound (at_ .control)).asid ∧ 0x10_003F / 2 ^ 16 = 16 ∧
      accepts (withBound (at_ .control)) (cmdForm u 0x2D 1 [9, 10] []) none = true) ∧
    Met ((at_ .control).setX 10 0x11_0000) (cmdForm u 0x2D 1 [9, 10] []) (¬ (0x11_0000 / 2 ^ 16 ≤ 16)) ∧
    Met (at_ .control) (cmdForm u 0x2D 2 [9] []) True := by
  repeat' apply And.intro
  all_goals exact met (by decide +kernel)

theorem witness_StepKeepsMemoryCanonical : State.reset.MemoryWf ∧ (State.reset.withFetchWord 32 0x0F013120).MemoryWf := by
  simp only [State.MemoryWf]
  decide +kernel

/-- How many bytes the first part of an operation of core 0 reads; none where it meets bad data. -/
def readsB (s : State) (o : Op) : Option Nat :=
  match o.via with
  | (_, n, x) :: _ => match s.readSeq 0 o.seq (s.asidOf 0) x n with | .ok _ bs => some bs.length | _ => none
  | [] => none

theorem witness_LoadsAndStoresPerform :
    opReady loadState = true ∧ opInVault loadState = true ∧
    (match kindOf loadState with | some (.load d a sz none) => decide (d = 3 ∧ a = 0x10000 ∧ sz = .d) | _ => false) = true ∧
    opReady storeState = true ∧ opInVault storeState = true ∧ storeState.partialBad (vaultBase 0) 1 = false ∧
    vaultBase 0 + 1 ≤ farBase ∧ Memory.wf storeState.mem = true ∧ Tbl.get? storeState.stamps (vaultBase 0 / 128) = none ∧
    ((opZero storeState).map fun o => (o.asked, o.out)) = some ([], 0) ∧ storeState.waiters = [] ∧
    ((opZero loadState).map fun o => readsB loadState o) = some (some 8) ∧
    (let s := { loadState with bad := [vaultBase 0] }
     ((opZero s).map fun o => readsB s o) = some none ∧ ((s.getCore 0).seqr .load).uncorr = none ∧
     ((s.getCore 0).seqr .load).partTrap = none ∧ ((s.getCore 0).seqr .load).ended = false) := by decide +kernel

theorem witness_AtomicsPerform :
    opReady amoState = true ∧ opInVault amoState = true ∧ Tbl.get? (amoState.getCore 0).lm (vaultBase 0 / 128) = none ∧
    amoState.badRange (vaultBase 0) 8 = false ∧ opReady bexpState = true ∧ opReady vamoState = true ∧
    (match kindOf vamoState with | some (.vamo _ _ _ _ _ _ els _) => decide (els.length = 32) | _ => false) = true ∧
    (amoState.amoAt 0 0 ⟨.dev (vaultBase 0), 0, false, none⟩ .add true 1 0).isSome = true ∧
    Tbl.get? amoState.stamps (vaultBase 0 / 128) = none ∧ amoState.waiters = [] ∧ Memory.wf amoState.mem = true := by decide +kernel

theorem witness_CommandsComplete :
    opReady fenceState = true ∧ ((opsBefore (fenceState.getCore 0).ops 0).any fun _ => true) = false ∧
    ((opsBefore (fenceAfterLoad.getCore 0).ops 1).any fun x => x.seq = .load && !x.done) = true ∧
    (fenceState.release 0 .mod).released 0 .mod = true ∧
    (let s := fenceState.setCore 0 { fenceState.getCore 0 with wbs := [(5, 2 ^ 62)] }
     (s.release 0 .mod).released 0 .mod = false) ∧
    (match (opZero copyState).map fun o => copyState.readPrefix (copyState.opAgent 0 o) none (parts 0x9000 128) [] with
      | some (bs, none) => decide (bs.length = 128)
      | _ => false) = true ∧
    (match (opZero copyState).map fun o => copyState.writePrefix (copyState.opAgent 0 o) (parts 0x8000 128) (List.replicate 128 0) 0 with
      | some (_, 128, none) => true
      | _ => false) = true ∧
    (moveCuts 129 0x8000 0x9000 128).length = 16 ∧
    opReady copyState = true ∧ ((opZero copyState).map fun o => (copyState.getCore 0).xferHeld o.kind) = some false ∧
    opReady prefState = true ∧ opReady invrState = true ∧ opReady drainState = true ∧
    ((opZero drainState).map fun o => (drainState.getCore 0).inTurn o) = some true ∧ opReady drainMemState = true ∧
    ((opZero drainMemState).map fun o => (drainMemState.getCore 0).inTurn o) = some true := by decide +kernel

theorem witness_CausesAndWakeups :
    (at_ .control).cur.inst.isSome = true ∧ (at_ .control).sq.ended = false ∧
    (onSq (at_ .control) fun q => { q with uncorr := some ⟨5, 6, 0, false, .uncorr⟩ }).sq.uncorr = some ⟨5, 6, 0, false, .uncorr⟩ ∧
    ((at_ .control).setCur { (at_ .control).cur with engPend := true }).cur.engPend = true ∧
    (onSq (at_ .load) fun q => { q with timen := true }).sq.timecmp.toNat ≤ (at_ .load).time.toNat ∧
    (onSq { (at_ .load) with time := 6 } fun q => { q with sleep := .idle 5 }).sq.sleep = .idle 5 ∧
    (ran (.wait4 u 1 0) (withArmed (at_ .control) 0)).sq.sleep ≠ .none ∧
    (withBiv (at_ .control) true).cur.biv.copying = false := by decide +kernel

/-- A word armed at 0x8000: it stands, its page would go, and a write to it wakes. -/
theorem witness_CausesAndWakeups_armed :
    (let s := ran (.wait4 u 1 0) (withArmed (at_ .control) 0)
     match s.sq.sleep with
     | .wait4 [(a, v, x)] =>
       !(s.stand 0 .control).armGone (a, v, x) && !(s.stand 0 .control).armRefused (a, v, x) &&
         (s.stand 0 .control).armGone (a, v, { x with place := .dev 0x19000 }) &&
         decide ((s.putPhys 0x18000 [1]).sq.sleep = Sleep.woken 0)
     | _ => false) = true := by decide +kernel

theorem witness_LaunchesAndSteals :
    (headOf ((withHead.pendingOn 0 ++ withHead.resumesOn 0).mergeSort fun a b => a.1 ≤ b.1)).isSome = true ∧
    withHead.resumable 1 0 = [] ∧ withHead.pastDeadline placeLaunch = false ∧
    (headOf ((State.reset.pendingOn 0 ++ State.reset.resumesOn 0).mergeSort fun a b => a.1 ≤ b.1)) = none ∧
    ((at_ .control).getCore 0).inst.isSome = true ∧ isUnit 0 = false ∧
    (∀ q ∈ [SeqId.control, .load, .exec, .store], (((at_ .control).getCore 0).seqr q).ended = false) ∧
    ([(⟨0, 0, .held, false, [(0, 0)], 0⟩ : Part)].findIdx? fun p => decide (p.stage = Stage.held)) = some 0 ∧
    (State.reset.launches.find? fun l => decide (l.2.origin = Origin.host)) = none ∧
    ((at_ .control).launches.find? fun l => decide (l.2.origin = Origin.host) && l.2.packet = 0 && l.2.done.isNone).isSome = true ∧
    (((at_ .control).hlaunchLeave 0).getDie 0).hlaunch.length < 16 ∧ ((at_ .control).physRead 0x18000 512).isSome = true ∧
    ((at_ .control).getSpace 0).en = true ∧ ((at_ .control).getSpace 5).en = false ∧
    okB ((at_ .control).vread (unitAgent 0) none 0x9000 128) = true ∧
    ((withLevel (at_ .control) true 16 16).getCore 0).inst.isSome = true := by decide +kernel

/-- A launch with a die-slot here and one of module 3, which has told what stands in its context area; one placed elsewhere. -/
def twoModules : State :=
  { (at_ .control) with launches := [(1, { placeLaunch with
      levels := [⟨2, false, false, 1, 2, 4⟩], parts := [⟨0, 0, .running, false, [], 0⟩, ⟨3, 1, .pending, false, [], 1⟩] })] }

def farSuspended : State :=
  twoModules.contextIn 1 1 [(0x21000, imageBytes placeLaunch 1 false []), dieSlotRecord 0x1FFF0 1 0x21000 1]

def farLaunch : State := { (at_ .control) with launches := [(1, { placeLaunch with origin := .remote 5 7 })] }

theorem witness_PreemptionAndResume :
    (State.reset.getDie 0).pstatBusy = false ∧ State.reset.boot ≠ 2 ∧
    ((at_ .control).launches.find? fun e => decide (e.2.origin = Origin.host) && e.2.packet = 0 && e.2.done.isNone &&
      e.2.home = 0).isSome = true ∧
    (((withPreempt (at_ .control)).getCore 0).inst.map fun i => i.preempt) = some (some 0) ∧
    ((withPreempt (at_ .control)).getCore 0).anyStopped = false ∧
    State.reset.recordImages 0 0xFFFF_FFFF_FFFF_FFF0 = none ∧ State.reset.recordFar 0xFFFF_FFFF_FFFF_FFF0 = none ∧
    State.reset.forwarded 5 7 = none ∧ (farLaunch.forwarded 5 7).isSome = true ∧
    (twoModules.launches.find? fun e => e.2.done.isNone && e.2.parts.any fun p => p.module != twoModules.modId.toNat).isSome =
      true ∧ farSuspended.recordImages 0 0x20000 = none ∧ ((farSuspended.recordFar 0x20000).map fun r => (r.1, r.2.1, r.2.2.map (·.1))) = some (1, 1, [1]) := by decide +kernel

theorem witness_MatrixPairAndEngines :
    (let s := (at_ .exec).setCluster 0 { Cluster.start with waiting := [(1, 0), (0, 3)] }
     (s.getCluster 0).holder = none ∧ (s.getCluster 0).waiting ≠ []) ∧
    (withPair (at_ .exec)).getCluster 0 = { Cluster.start with holder := some 0 } ∧
    loadPlaneState.deadEntry 0 = none ∧ (loadPlaneState.getCluster 0).free .s = true ∧ (loadPlaneState.getDie 0).hot = false ∧
    ((loadPlaneState.holderOps 0).find? fun e => !e.2.isWest && loadPlaneState.taskReady 0 e.1 e.2 .s &&
      (loadPlaneState.chainPeers 0 e.2 .s).isSome).isSome = true ∧
    ((productState.holderOps 0).find? fun e => !e.2.isWest && productState.taskReady 0 e.1 e.2 .s &&
      (productState.chainPeers 0 e.2 .s).isSome).isSome = true ∧
    (sampleState.getDie 0).sampler = [.op 0 0] ∧ sampleState.engOver 0 (.op 0 0) = false ∧
    ((sampleState.engCmd 0 (.op 0 0)).map fun c => (c.n, c.next)) = some (1, 0) := by decide +kernel

theorem witness_TreeEngineAndWalks :
    (firstTask (((withTask (at_ .control) .queued).setTask 0 7 { Task.start with state := .queued, kk := 0xFFFF }).queued 0 |>.filter
      fun e => e.2.isEval)).isSome = true ∧
    (nodeNull 0x3F_FFFF = true ∧ nodeNull 0 = false ∧ (at_ .control).nodeHere 0 = true) ∧
    ((withRope (at_ .control) 1).getGroup 3).isSome = true ∧ (withSib (at_ .control)).under 4 3 = true ∧
    (let s := { at_ .control with groups := [(0, Group.root), (9, ⟨0, 2, false, .plain, 0, 0, 0, 0, 0, 0, none⟩)] }
     s.groupBusy 9 = false) ∧
    opReady walkState = true ∧ walkState.badRange (nodeAddr 0) 24 = false ∧
    (match kindOf walkState with | some (.walk b n _ _ l _) => decide (b = true ∧ n = true ∧ l = none) | _ => false) = true := by
  decide +kernel

/-- A live root of 64 tokens in one block. -/
def rootK : KvRoot := ⟨0, 63, 1, 0, true, true, [0], List.replicate 16 0, 0, 16⟩

theorem witness_KvUnitWorks :
    opReady kvdropState = true ∧ kvdropState.getRoot 0 = none ∧
    rootK.live = true ∧ rootK.ntok ≠ 64 * rootK.nblk ∧ { rootK with ntok := 64 }.ntok = 64 * rootK.nblk ∧
    ({ kvdropState with roots := [(0, rootK)] } : State).getRoot 0 = some rootK := by decide +kernel

theorem witness_KvUnitWorks_template :
    ((at_ .control).kvTemplate (List.replicate 12 0 ++ leBytes 4 1 ++ [0, 0, 0, 1] ++ List.replicate 4 0 ++ leBytes 8 16 ++
      List.replicate 96 0)).isSome = true := by decide +kernel

/-- The collective command of core 0 of set n. -/
def collState : State := ran (.collAr u 9 none none none) ((at_ .control).setX 9 0x8000)

theorem witness_CollectivesComplete :
    (collState.onSet refusedSet 0).length = 1 ∧ collState.collSet 0 0 = none ∧
    (let set := leBytes 2 1 ++ leBytes 2 0 ++ leBytes 4 1 ++ leBytes 8 0x18040 ++ leBytes 8 0x18080 ++ List.replicate 8 0
     ((withBytes (at_ .control) 0 set).collSet 0 0).map (fun c => (c.p, c.ranks)) = some (1, [0])) := by decide +kernel

theorem witness_OtherModules :
    okB ((at_ .control).vread ⟨none, 0, false, none, false⟩ none 0x8000 64) = true ∧
    okB ((at_ .control).vread ⟨none, 0, false, none, false⟩ none 0x2_0000 64) = false ∧
    ((at_ .control).vwrite ⟨none, 0, false, none, false⟩ 0x8000 [1, 2]).2 = none ∧
    (match (withOrdered (at_ .control)).xlat none 0 false .amo 0x10000 with
      | .ok x => decide (x = ⟨.dev (vaultBase 0), 0, false, none⟩) | _ => false) = true ∧
    (at_ .control).badRange (nodeAddr 0) 8 = false ∧ (at_ .control).nodeHere 0x40_0000 = false ∧
    (State.reset.getCore 0).findOp 0 = none ∧ opReady loadState = true ∧
    ((at_ .control).storePhys (nodeAddr 0) [1]).isSome = true := by decide +kernel

theorem witness_GraphNodesRun :
    ((withNode (List.replicate 64 0) 1 0).getSlot 0 0).phase = .ready 0 ∧
    okB ((withNode (List.replicate 64 0) 1 0).slotRead 0 0 0x8000 64) = true ∧
    (⟨List.replicate 64 0, []⟩ : GNode).bad 1 = false ∧
    (⟨[5] ++ List.replicate 63 0, []⟩ : GNode).bad 1 = true ∧
    okB ((withNode (List.replicate 64 0) 1 0).postAs (4096, slotWrites + recordOp 0x9000 false) 0 0x9000 (List.replicate 16 0)) = true ∧
    passed 0 0 = false ∧ ((withNode (List.replicate 64 0) 1 1).getSlot 0 0).gnodes = 1 ∧
    (⟨[3] ++ List.replicate 23 0 ++ [31, 1] ++ List.replicate 38 0, []⟩ : GNode).bad 1 = false ∧
    (⟨[4] ++ List.replicate 15 0 ++ leBytes 8 0x9000 ++ List.replicate 40 0, []⟩ : GNode).bad 1 = false ∧
    (⟨[6] ++ List.replicate 63 0, []⟩ : GNode).bad 1 = false ∧
    (⟨[1] ++ List.replicate 63 0, []⟩ : GNode).bad 1 = false ∧
    (⟨[2] ++ List.replicate 17 0 ++ [1] ++ List.replicate 45 0, []⟩ : GNode).bad 1 = false := by decide +kernel

theorem witness_GraphNodesEnd :
    ((withPhase (.launch 0 1)).getSlot 0 0).phase = .launch 0 1 ∧
    (Tbl.get? (withPhase (.launch 0 1)).launches 1).map (·.done) = some none ∧
    ((withPhase (.waitDrain 0 (some 0))).getSlot 0 0).nowait = [] ∧
    okB ((withPhase (.waitWord 0 none 0x8000 0 0 0 none false)).slotRead 0 0 0x8000 8) = true ∧ gtest 0 0 0 0 = true ∧
    ((withPhase .idle).getSlot 0 0).nowait[0]? = none := by decide +kernel

theorem witness_HostOnGraphsAndRings :
    State.reset.takesHost = true ∧ (State.reset.getSlot 0 63).phase = .idle ∧ ((withPhase (.ready 0)).getSlot 0 0).phase ≠ .idle ∧
    okB ((withPhase (.ready 0)).postAs (4096, slotWrites + recordOp 0x9000 false) 0 0x9000 (List.replicate 16 0)) = true ∧ (State.reset.getHring 0 63).enabled = false ∧
    ((withBound (at_ .control)).getHring 0 63).enabled = true ∧
    (∀ k ∈ State.reset.cores, ∀ o ∈ k.2.ops, o.done = true) ∧
    (let r : HRing := { HRing.start with hrcfg := BitVec.ofNat 64 (0x24 + 2 ^ 32), pend := 1 }
     r.enabled = true ∧ r.tus ≠ 0 ∧ r.oldest + 1000 * r.tus ≤ 2 ^ 30) := by decide +kernel

theorem witness_TranslationsAndKeys :
    State.reset.tlbiGo = false ∧ State.reset.takesHost = true ∧ State.reset.cores = [] ∧
    ({ State.reset with tlbiGo := true } : State).tlbiGo = true ∧ (State.reset.getKey 0xFFF).loaded = false ∧
    ((at_ .control).getKey 0).loaded = true ∧ ({ State.reset with boot := 2 } : State).takesHost = false := by decide +kernel

theorem witness_HostRegistersAndAperture :
    State.reset.takesHost = true ∧ (at_ .control).spaceActive 0 = true ∧ ((at_ .control).getSpace 0).en = true ∧
    (State.reset.getTable 3 7).valid = false ∧ ascending [0, 1, 2, 3, 4, 5, 6, 7] = true ∧
    ascending [1, 0] = false ∧ { DTable.start with flags := 1 }.valid = true ∧
    backedRange 0 64 = true ∧ backedRange (0x180_0000_0000 - 8) 8 = true ∧ State.reset.badRange 0 64 = false ∧
    State.reset.partialBad 0 64 = false := by decide +kernel

theorem witness_ResetLevels :
    State.reset.boot ≠ 2 ∧ ({ State.reset with boot := 2 } : State).boot = 2 ∧
    ({ State.reset with svn := 1, mgmt := { State.reset.mgmt with modid := 0 } } : State).mgmt.modid.getLsbD 12 = false ∧ State.reset.MemoryWf := by
  exact ⟨by decide, by decide, by decide, by decide, by decide⟩

theorem witness_ManagementRegisters :
    State.reset.boot ≠ 2 ∧ State.reset.mgmt.pfloorNext + 1000 ≤ 1200 ∧ ¬ (State.reset.mgmt.pfloorNext + 1000 ≤ 1199) ∧
    State.reset.mgmt.waiting = [] ∧ State.reset.mgmt.receiver = none := by decide +kernel

theorem witness_FirmwareUpdateAndAttestation :
    State.reset.mgmt.upd = .none ∧ UpdState.requested ≠ .none ∧ UpdState.verified ≠ .requested ∧
    imageFails 0 [] ≠ none := by decide +kernel

theorem witness_FleetHealth :
    (State.reset.getDie 3).hot = false ∧ State.reset.mgmt.pcapNext = 4000 ∧ State.reset.mgmt.pfloorNext = 200 ∧
    State.reset.mgmt.lock = false ∧ (State.reset.getDie 0).dtables = [] ∧ (State.reset.getPort 15).up = false ∧
    State.reset.mgmt.eolwarn = 12 ∧ State.reset.mgmt.waiting = [] := by decide +kernel

/-- An accepted load has yet to write the first row of the list, or an accepted store to read it. -/
def listLoading : State := (ran (.ldt u 5 4 0 1 0 .none none) ((withList (at_ .load)).setA 1 0x8000)).focus 0 .exec
def listStoring : State := (ran (.stt u 5 4 0 1 0 none) ((withList (at_ .store)).setA 1 0x8000)).focus 0 .exec

theorem witness_RankedLists_waits :
    Met listLoading (listForm u 3 5 [7] true)
      (listLoading.cur.list? 5 0 = some ⟨32, 4, 1, 0⟩ ∧ listLoading.rowsRead (rowsOf 5 4 1) = false) ∧
    Met listStoring (listForm u 2 5 [7] true)
      (listStoring.cur.list? 5 0 = some ⟨32, 4, 1, 0⟩ ∧ listStoring.rowsWrite (rowsOf 5 4 1) = false) := by
  repeat' apply And.intro
  all_goals exact met (by decide +kernel)

/-- A packet at physical 0x18000 is still being checked, placed by the host or by module 5. -/
def stillArriving (o : Origin) : State :=
  { State.reset with arriving := [(0, ⟨0x18000, o, 0, [], none, none⟩)] }

theorem witness_PreemptionAndResume_arriving :
    (stillArriving .host).launches = [] ∧ (stillArriving .host).boot ≠ 2 ∧ ((stillArriving .host).getDie 0).pstatBusy = false ∧
    ((stillArriving .host).arriving.find? fun a => decide (a.2.origin = Origin.host) && a.2.pa = 0x18000).isSome = true ∧
    (∃ e ∈ (stillArriving (.remote 5 7)).arriving, e.2.origin = Origin.remote 5 7) := by decide +kernel

theorem witness_FalseGuardsOfCommands :
    (at_ .load).IssuesFalse (scalar hFalse true 0x0D 0 [1] []) ∧ (at_ .control).IssuesFalse (cmdForm hFalse 0x13 7 [4, 5] []) ∧
    (at_ .load).IssuesFalse (cmdForm hFalse 0x10 1 [4, xPlus 4 1] []) ∧ (at_ .exec).IssuesFalse (matrixForm hFalse 0x24 0 [] []) ∧
    (at_ .exec).IssuesFalse { matrixForm hFalse 0x26 0 [1] [] with seqs := [.exec], tiles := [6], rw := rowsOf 6 0 1 } ∧
    (at_ .store).IssuesFalse { matrixForm hFalse 0x26 0 [1, 2] [] with seqs := [.store] } ∧
    (at_ .control).IssuesFalse (cmdForm hFalse 0x28 3 [4, xPlus 4 1, 6, 7] [2]) ∧
    (at_ .control).IssuesFalse (cmdForm hFalse 0x29 0 (1 :: regs4 4) [2]) ∧
    (at_ .control).IssuesFalse (nodeForm hFalse 1 [1, 2] 0 false) ∧ (at_ .control).IssuesFalse (cmdForm hFalse 0x2B 0 [1] []) ∧
    (at_ .control).IssuesFalse (cmdForm hFalse 0x2C 0 [1] []) ∧ (at_ .control).IssuesFalse (cmdForm hFalse 0x2D 1 [1, 2] []) := by
  repeat' apply And.intro
  all_goals exact issuesFalse (by decide +kernel)

/-- A record of an engine's fault. -/
def faultRec : Efr := ⟨13, 2, 0x24, .exec, 1, true, 3, 5, 0xC00, 0x8000, 7, 9⟩

theorem witness_SystemRegisterValues :
    (at_ .control).core = 0 ∧ ((at_ .control).focus 515 .control).core = 515 ∧ (at_ .control).inst.isSome = true ∧
    (at_ .control).cur.efq = [] ∧ ((at_ .control).setCur { (at_ .control).cur with efq := [faultRec] }).cur.efq = [faultRec] := by
  decide +kernel

theorem witness_InvalidationOfTranslations :
    State.reset.tlbiGo = false ∧ State.reset.takesHost = true ∧
    (let s : State := { State.reset with tlbiGo := true }
     s.tlbiGo = true ∧ s.tlbiOld = none) ∧
    (let s : State := { State.reset with tlbiGo := true, tlbiOld := some [] }
     s.tlbiGo = true ∧ s.tlbiOld = some [] ∧ s.tlbiBusy = false ∧ s.cores = []) ∧
    ({ loadState with tlbiGo := true, tlbiOld := some [], tlbiOps := [(0, [0])] } : State).tlbiBusy = true := by decide +kernel

theorem witness_HeartbeatsTimeAndLinks :
    (State.reset.getDie 3).beatAt ≤ State.reset.time.toNat ∧
    ({ State.reset with time := 0 } : State).time.toNat <
      ((State.reset.setDie 3 { State.reset.getDie 3 with beatAt := 5 }).getDie 3).beatAt := by decide +kernel

/-- The next draw of the running instance has the last index of the last position, with RNGWRAP or without. -/
def lastDraw (flags : BitVec 8) : State :=
  match (at_ .exec).inst with
  | some i => (at_ .exec).setCur { (at_ .exec).cur with inst := some { i with ridx := 0xFFFF, rpos := 0xFFFF_FFFF, flags := flags } }
  | none => at_ .exec

theorem witness_DrawsFollowGen32 :
    ((at_ .exec).inst.map fun i => (i.ridx, i.rpos)) = some (0, 0) ∧
    ((lastDraw 5).inst.map fun i => (i.ridx, i.rpos, i.flags.getLsbD 1)) = some (0xFFFF, 0xFFFF_FFFF, false) ∧
    ((lastDraw 7).inst.map fun i => (i.ridx, i.rpos, i.flags.getLsbD 1)) = some (0xFFFF, 0xFFFF_FFFF, true) ∧
    (lastDraw 5).drawRow.isNone = true ∧ (lastDraw 7).drawRow.isSome = true := by decide +kernel

theorem witness_SelectionFollowsTheScores :
    (at_ .control).badRange (nodeAddr 0) (64 * 1) = false ∧
    (match (at_ .control).selectHere 0 1 0 0 0 0 with | .child j => decide (j = 0) | _ => false) = true ∧
    (match (at_ .control).selectHere 0 0 0 0 0 0 with | .nobody => true | _ => false) = true := by decide +kernel

/-- Group 3 has a rope of two siblings, both made, changed by f. -/
def ropeState (f : Rope → Rope) : State :=
  let s := withRope (at_ .control) 2
  match s.getGroup 3 with
  | some g => { s with groups := Tbl.set s.groups 3 { g with rope := g.rope.map f } }
  | none => s

/-- Its first sibling. -/
def sibling : Group := ⟨3, 3, true, .sib, 0, 0, 0, 0, 0, 0, none⟩

theorem witness_BallotPosts :
    (∃ p r, (ropeState id).getGroup 3 = some p ∧ p.rope = some r ∧ r.decided = none ∧ r.ended = false ∧ r.made = r.size ∧
      r.slots = [] ∧ r.posted = [] ∧ r.quorum = 1) ∧
    sibling.parent = 3 ∧
    (let s := ropeState id
     ({ s with groups := Tbl.set s.groups 4 sibling } : State).alive 4 = true) ∧
    ((ropeState fun r => { r with posted := [0] }).getGroup 3 >>= fun p => p.rope.map (·.posted)) = some [sibling.sib] ∧
    ((ropeState fun r => { r with slots := [⟨5, 1⟩], quorum := 2 }).getGroup 3 >>= fun p => p.rope.map fun r => (r.slots, r.quorum)) =
      some ([⟨5, 1⟩], 2) ∧
    ((ropeState fun r => { r with slots := (List.range 16).map fun i => ⟨BitVec.ofNat 64 (i + 1), 1⟩ }).getGroup 3 >>=
      fun p => p.rope.map fun r => (r.slots.length, r.slots.all fun y => decide (y.hash ≠ 0))) = some (16, true) ∧
    ((ropeState fun r => { r with plurality := true, resolved := [0, 1], slots := [⟨5, 1⟩] }).getGroup 3 >>=
      fun p => p.rope.map fun r => (r.plurality, decide (r.made ≤ r.resolved.length))) = some (true, true) := by
  refine ⟨⟨_, _, rfl, rfl, ?_⟩, ?_⟩ <;> decide +kernel

theorem witness_ProductWords :
    (([(0, []), (1, [])] : List (Nat × List BfpBlock)).map (·.1)).Nodup ∧
    (match opZero productState with
      | some o =>
        match o.kind with
        | .mmul (some ga) _ init _ none none _ p rows _ 0 [] =>
          init && decide (o.chain = 0 ∧ o.peers = []) && !((productState.getCore 0).plane p).cancelledFor o.id &&
            decide (((productState.getCore 0).plane p).state = .loaded) && !((productState.getCore 0).plane p).lost &&
            okB (productState.readRows 0 o ga rows o.prog)
        | _ => false
      | none => false) = true := by decide +kernel

/-- An attention command of one query and one key. -/
def attnOp : State := ran (.mattn u 3 4 2 3 .none none none) attnState

theorem witness_AttentionRows :
    (match opZero attnOp with
      | some o =>
        match o.kind with
        | .mattn q k v d shape _ _ rows =>
          decide (passKeys d o.prog = 1 ∧ rows = 1) && visible d shape 0 d.kbase &&
            okB (attnOp.passData (attnOp.opAgent 0 o) q k v d rows o.prog false)
        | _ => false
      | none => false) = true := by decide +kernel

theorem witness_SamplerDraws :
    let ts : List Tok8 := [⟨3, 0x3F80_0000, true⟩, ⟨4, 0x4000_0000, true⟩]
    (ts.map (·.t)).Nodup ∧ (∀ x ∈ ts, x.alive = true → x.z < 2 ^ 32 ∧ (f32.dec x.z).isNan = false) ∧ (∃ x ∈ ts, x.alive = true) ∧
    (drawStage (List.replicate 64 0) ts).token = 4 ∧ (drawStage (List.replicate 64 0) []).status = 9 := by
  refine ⟨?_, ?_, ?_, ?_, ?_⟩ <;> decide +kernel

/-- A request of four tokens with the chain at 0x8100 of one draw, in the list at 0x8000; every logit 0. -/
def requestState : State :=
  let rq := leBytes 8 0x8200 ++ leBytes 8 0x8100 ++ leBytes 4 4 ++ [1] ++ List.replicate 43 0
  withBytes (withBytes sampleState 0x18000 rq) 0x18100 (6 :: List.replicate 63 0)

theorem witness_EngineResults :
    (match requestState.engCmd 0 (.op 0 0) with
      | some c =>
        match requestState.vread c.agent c.answer 0x8000 64, requestState.vread c.agent c.answer 0x8100 64,
            requestState.vread c.agent c.answer 0x8200 16 with
        | .ok rq, .ok cb, .ok _ => !passed 0 (BitVec.ofNat 48 (fld rq 0x18 6)) && chainOk [slice cb 0 64] &&
            decide (fld rq 0x10 4 = 4 ∧ fld rq 0x14 1 = 1) &&
            (match requestState.runChain c 4 [] ((List.range 4).map fun t => ⟨t, 0, true⟩) 0 with | .ok _ => true | .error _ => false)
        | _, _, _ => false
      | none => false) = true := by decide +kernel

theorem witness_EngineResults_beams :
    (match sampleState.engCmd 0 (.op 0 0) with
      | some c =>
        okB (sampleState.vread c.agent c.answer 0x8000 64) && !passed 0 (BitVec.ofNat 48 0) &&
          okB (sampleState.vread c.agent c.answer 0x9000 (4 * 2 * 4)) && okB (sampleState.vread c.agent c.answer 0x9100 (4 * 2)) &&
          (sampleState.vwrite c.agent 0x9200 (List.replicate 16 0)).2.isNone
      | none => false) = true := by decide +kernel

theorem witness_CollectiveOutputs :
    ([0x3F80_0000, 0x4000_0000].any fun v => (f32.dec v).isNan) = false ∧ ([0x7FC0_0000].any fun v => (f32.dec v).isNan) = true ∧
    (let route : List Nat := [0xFFFF, 0]
     let depth (i : Nat) : Nat := if i = 0 then 0 else 1
     route.getD 0 0 = 0xFFFF ∧ (∀ i, i < 2 → i ≠ 0 → route.getD i 0xFFFF < 2) ∧
       ∀ i, i < 2 → depth i < 2 ∧ (i ≠ 0 → depth i = depth (route.getD i 0xFFFF) + 1)) := by decide +kernel

theorem witness_QuadrilleDelivery :
    splitsOf [⟨0, 5, 0, 1, []⟩] 1 = [0, 4096] ∧
    ([Party.missing] : List Party).length = (⟨1, 0, [0], [0xFFFF], []⟩ : CollSet).p := by decide +kernel
end Sys2Proof.Tests
end

/-! ## Integer results as arithmetic on numbers (R238 to R240) -/

namespace Sys2Proof.Machine

open Sys2Proof

section Results

variable (x y : Word64)

theorem add_eq_ofNat : x + y = BitVec.ofNat 64 (x.toNat + y.toNat) := by
  simp [BitVec.ofNat_add]

theorem sub_eq_ofInt : x - y = BitVec.ofInt 64 (x.toInt - y.toInt) := by
  rw [sub_eq_add_neg x.toInt, BitVec.ofInt_add, BitVec.ofInt_neg, BitVec.ofInt_toInt, BitVec.ofInt_toInt, ← sub_eq_add_neg]

theorem mul_eq_ofNat : x * y = BitVec.ofNat 64 (x.toNat * y.toNat) := by
  simp [BitVec.ofNat_mul]

/-- The upper half of a double word that stands for a number. -/
theorem upperHalf_ofInt (z : Int) : (BitVec.ofInt 128 z).extractLsb' 64 64 = BitVec.ofInt 64 (z / 2 ^ 64) := by
  apply BitVec.eq_of_toNat_eq
  simp only [BitVec.extractLsb'_toNat, BitVec.toNat_ofInt, Nat.shiftRight_eq_div_pow]
  omega

theorem mulHigh_eq : mulHigh x y = BitVec.ofInt 64 (x.toInt * y.toInt / 2 ^ 64) := by
  rw [mulHigh, BitVec.signExtend, BitVec.signExtend, ← BitVec.ofInt_mul, upperHalf_ofInt]

theorem mulHighU_eq : mulHighU x y = BitVec.ofNat 64 (x.toNat * y.toNat / 2 ^ 64) := by
  have product : x.setWidth 128 * y.setWidth 128 = BitVec.ofInt 128 ↑(x.toNat * y.toNat) := by
    rw [BitVec.ofInt_natCast, BitVec.ofNat_mul, BitVec.ofNat_toNat, BitVec.ofNat_toNat]
  rw [mulHighU, product, upperHalf_ofInt, ← BitVec.ofInt_natCast]
  rfl

/-- The quotient -2^63 / -1 wraps to -2^63, as a 64-bit result does (R239 Table 2). -/
theorem sdiv_eq_ofInt : x.sdiv y = BitVec.ofInt 64 (x.toInt.tdiv y.toInt) := by
  apply BitVec.eq_of_toInt_eq
  rw [BitVec.toInt_sdiv, BitVec.toInt_ofInt]

theorem srem_eq_ofInt : x.srem y = BitVec.ofInt 64 (x.toInt.tmod y.toInt) := by
  rw [← BitVec.toInt_srem, BitVec.ofInt_toInt]

theorem divS_eq : divS x y = if y = 0 then -1 else BitVec.ofInt 64 (x.toInt.tdiv y.toInt) := by
  rw [divS, sdiv_eq_ofInt]
  rfl

theorem divU_eq : divU x y = if y = 0 then -1 else BitVec.ofNat 64 (x.toNat / y.toNat) := by
  rw [divU, ← BitVec.toNat_udiv, BitVec.ofNat_toNat, BitVec.setWidth_eq]
  rfl

theorem remS_eq : remS x y = if y = 0 then x else BitVec.ofInt 64 (x.toInt.tmod y.toInt) := by
  rw [remS, srem_eq_ofInt]

theorem remU_eq : remU x y = if y = 0 then x else BitVec.ofNat 64 (x.toNat % y.toNat) := by
  rw [remU, ← BitVec.toNat_umod, BitVec.ofNat_toNat, BitVec.setWidth_eq]

theorem shiftL_eq : shiftL x y = BitVec.ofNat 64 (x.toNat * 2 ^ (y.toNat % 64)) := by
  apply BitVec.eq_of_toNat_eq
  rw [shiftL, shAmt, BitVec.toNat_shiftLeft, Nat.shiftLeft_eq, BitVec.toNat_ofNat]

theorem shiftR_eq : shiftR x y = BitVec.ofNat 64 (x.toNat / 2 ^ (y.toNat % 64)) := by
  rw [shiftR, shAmt, ← Nat.shiftRight_eq_div_pow, ← BitVec.toNat_ushiftRight, BitVec.ofNat_toNat, BitVec.setWidth_eq]

theorem shiftA_eq : shiftA x y = BitVec.ofInt 64 (x.toInt / 2 ^ (y.toNat % 64)) := by
  have amount : (2 : Int) ^ (y.toNat % 64) = ↑(2 ^ (y.toNat % 64) : Nat) := by norm_cast
  rw [shiftA, shAmt, amount, ← Int.shiftRight_eq_div_pow, ← BitVec.toInt_sshiftRight, BitVec.ofInt_toInt]

theorem minS_eq : minS x y = BitVec.ofInt 64 (min x.toInt y.toInt) := by
  simp only [minS, BitVec.slt_iff_toInt_lt]
  split
  · rw [min_eq_right (by omega), BitVec.ofInt_toInt]
  · rw [min_eq_left (by omega), BitVec.ofInt_toInt]

theorem maxS_eq : maxS x y = BitVec.ofInt 64 (max x.toInt y.toInt) := by
  simp only [maxS, BitVec.slt_iff_toInt_lt]
  split
  · rw [max_eq_right (by omega), BitVec.ofInt_toInt]
  · rw [max_eq_left (by omega), BitVec.ofInt_toInt]

theorem minU_eq : minU x y = BitVec.ofNat 64 (min x.toNat y.toNat) := by
  simp only [minU, BitVec.ult_iff_toNat_lt]
  split
  · rw [min_eq_right (by omega), BitVec.ofNat_toNat, BitVec.setWidth_eq]
  · rw [min_eq_left (by omega), BitVec.ofNat_toNat, BitVec.setWidth_eq]

theorem maxU_eq : maxU x y = BitVec.ofNat 64 (max x.toNat y.toNat) := by
  simp only [maxU, BitVec.ult_iff_toNat_lt]
  split
  · rw [max_eq_right (by omega), BitVec.ofNat_toNat, BitVec.setWidth_eq]
  · rw [max_eq_left (by omega), BitVec.ofNat_toNat, BitVec.setWidth_eq]

end Results

/-! ## Integer arithmetic: the two forms of an operation (R238) -/

/-- The register form i and the immediate form j of an operation, where they issue in s, write r of their operands to
xD and nothing else. -/
def WritesBothForms (s : State) (h : Hdr) (d a : XReg) (i : XReg → Instr) (j : BitVec 28 → Instr)
    (r : Word64 → Word64 → Word64) : Prop :=
  (∀ b, s.Issues (scalar h false 0x01 0 [d, a, b] []) →
    exec (i b) s = .next (s.retired (scalar h false 0x01 0 [d, a, b] [])
      ((s.begin (scalar h false 0x01 0 [d, a, b] [])).setX d (r (s.getX a) (s.getX b))))) ∧
  (∀ imm : BitVec 28, s.Issues (scalar h true 0x01 0 [d, a] []) →
    exec (j imm) s = .next (s.retired (scalar h true 0x01 0 [d, a] [])
      ((s.begin (scalar h true 0x01 0 [d, a] [])).setX d (r (s.getX a) (imm.signExtend 64)))))

/-- Two subcodes that Table 3 permits alike give one form (R206). -/
theorem scalar_congr {maj sub maj' sub' : Nat} (hm : permitted maj sub = permitted maj' sub') (h : Hdr) (two : Bool)
    (xs : List XReg) (ps : List PReg) : scalar h two maj sub xs ps = scalar h two maj' sub' xs ps := by
  rw [scalar, scalar, hm]

section Forms

variable {s : State} {h : Hdr} {d a b : XReg} {maj sub : Nat} {r g : Word64 → Word64 → Word64}

/-- An operation on two registers that issues writes its result to xD. -/
theorem State.opXX_writes (hs : s.Issues (scalar h false maj sub [d, a, b] [])) :
    s.opXX maj sub h d a b g = .next (s.retired (scalar h false maj sub [d, a, b] [])
      ((s.begin (scalar h false maj sub [d, a, b] [])).setX d (g (s.getX a) (s.getX b)))) := by
  rw [State.opXX, State.issue_puts hs, State.getX_begin, State.getX_begin]

/-- The same with an immediate, sign-extended (R202). -/
theorem State.opXI_writes {imm : BitVec 28} (hs : s.Issues (scalar h true maj sub [d, a] [])) :
    s.opXI maj sub h d a imm g = .next (s.retired (scalar h true maj sub [d, a] [])
      ((s.begin (scalar h true maj sub [d, a] [])).setX d (g (s.getX a) (imm.signExtend 64)))) := by
  rw [State.opXI, State.issue_puts hs, State.getX_begin, immB]

/-- Both forms of an operation whose result is g, stated by the result r that g equals. -/
theorem writesBothForms {i : XReg → Instr} {j : BitVec 28 → Instr}
    (hi : ∀ b, exec (i b) s = s.opXX maj sub h d a b g) (hj : ∀ imm, exec (j imm) s = s.opXI maj sub h d a imm g)
    (hm : permitted 0x01 0 = permitted maj sub) (hr : ∀ x y, g x y = r x y) : WritesBothForms s h d a i j r := by
  constructor
  · intro b hs
    rw [scalar_congr hm] at hs ⊢
    rw [hi, State.opXX_writes hs, hr]
  · intro imm hs
    rw [scalar_congr hm] at hs ⊢
    rw [hj, State.opXI_writes hs, hr]

end Forms

/-- Settles O9: each operation is opXX and opXI of a result that equals the number the statement names. -/
theorem integerArithmetic : Obligations.IntegerArithmetic := by
  intro s h d a put both
  have writes {i j r} (hw : WritesBothForms s h d a i j r) : both i j r := hw
  -- From here on `both` is opaque, so each use of `writes` unifies by its arguments alone.
  clear_value both
  exact ⟨writes (writesBothForms (fun _ => exec_add) (fun _ => exec_addImm) rfl add_eq_ofNat),
    writes (writesBothForms (fun _ => exec_sub) (fun _ => exec_subImm) rfl sub_eq_ofInt),
    writes (writesBothForms (fun _ => exec_mul) (fun _ => exec_mulImm) rfl mul_eq_ofNat),
    writes (writesBothForms (fun _ => exec_mulh) (fun _ => exec_mulhImm) rfl mulHigh_eq),
    writes (writesBothForms (fun _ => exec_mulhu) (fun _ => exec_mulhuImm) rfl mulHighU_eq),
    writes (writesBothForms (fun _ => exec_div) (fun _ => exec_divImm) rfl divS_eq),
    writes (writesBothForms (fun _ => exec_divu) (fun _ => exec_divuImm) rfl divU_eq),
    writes (writesBothForms (fun _ => exec_rem) (fun _ => exec_remImm) rfl remS_eq),
    writes (writesBothForms (fun _ => exec_remu) (fun _ => exec_remuImm) rfl remU_eq),
    writes (writesBothForms (fun _ => exec_and) (fun _ => exec_andImm) rfl fun _ _ => rfl),
    writes (writesBothForms (fun _ => exec_or) (fun _ => exec_orImm) rfl fun _ _ => rfl),
    writes (writesBothForms (fun _ => exec_xor) (fun _ => exec_xorImm) rfl fun _ _ => rfl),
    writes (writesBothForms (fun _ => exec_andn) (fun _ => exec_andnImm) rfl fun _ _ => rfl),
    writes (writesBothForms (fun _ => exec_shl) (fun _ => exec_shlImm) rfl shiftL_eq),
    writes (writesBothForms (fun _ => exec_shr) (fun _ => exec_shrImm) rfl shiftR_eq),
    writes (writesBothForms (fun _ => exec_sra) (fun _ => exec_sraImm) rfl shiftA_eq),
    writes (writesBothForms (fun _ => exec_min) (fun _ => exec_minImm) rfl minS_eq),
    writes (writesBothForms (fun _ => exec_max) (fun _ => exec_maxImm) rfl maxS_eq),
    writes (writesBothForms (fun _ => exec_minu) (fun _ => exec_minuImm) rfl minU_eq),
    writes (writesBothForms (fun _ => exec_maxu) (fun _ => exec_maxuImm) rfl maxU_eq)⟩

end Sys2Proof.Machine

/-! ## The running sequencer written twice, and the state an instruction begins in -/

namespace Sys2Proof

@[simp] theorem Tbl.set_set_self {α : Type} (t : Tbl α) (n : Nat) (v w : α) :
    Tbl.set (Tbl.set t n v) n w = Tbl.set t n w := by
  induction t with
  | nil => simp [Tbl.set]
  | cons e rest ih =>
    obtain ⟨k, u⟩ := e
    by_cases heq : n = k
    · simp [Tbl.set, heq]
    · by_cases hlt : n < k <;> simp [Tbl.set, heq, hlt, ih]

end Sys2Proof

namespace Sys2Proof.Machine

open Sys2Proof

@[simp] theorem State.setCur_setCur (s : State) (c c' : Core) : (s.setCur c).setCur c' = s.setCur c' := by
  simp [State.setCur, State.setCore]

@[simp] theorem Core.setSeqr_setSeqr (c : Core) (q : SeqId) (r r' : Seqr) :
    (c.setSeqr q r).setSeqr q r' = c.setSeqr q r' := by
  cases q <;> rfl

@[simp] theorem State.setSq_setSq (s : State) (r r' : Seqr) : (s.setSq r).setSq r' = s.setSq r' := by
  simp [State.setSq]

@[simp] theorem State.jump_setSq (s : State) (r : Seqr) (pc : PcWord) :
    (s.setSq r).jump pc = s.setSq { r with pc := pc } := by
  simp [State.jump]

@[simp] theorem State.pc_begin (s : State) (f : Form) : (s.begin f).sq.pc = f.nextPc s.sq.pc := by
  rw [State.sq_begin]

@[simp] theorem State.rstack_begin (s : State) (f : Form) : (s.begin f).sq.rstack = s.sq.rstack := by
  rw [State.sq_begin]

@[simp] theorem State.inQueue_begin (s : State) (f : Form) : (s.begin f).inQueue = (s.cur.edge s.seq.prev).queue :=
  State.begin_queue s f s.seq.prev

/-- The state in which an instruction begins, with `rest` left in the queue from the sequencer before. -/
def State.poppedTo (s : State) (f : Form) (rest : List Word64) : State :=
  (s.begin f).setCur ((s.begin f).cur.setEdge s.seq.prev { (s.begin f).cur.edge s.seq.prev with queue := rest })

/-- The queue from the sequencer before holds what followed its oldest value (R30). -/
theorem State.popQueue_begin {s : State} {v : Word64} {rest : List Word64} (f : Form)
    (hq : (s.cur.edge s.seq.prev).queue = v :: rest) :
    (s.begin f).popQueue = s.poppedTo f rest := by
  simp [State.popQueue, State.poppedTo, hq]

@[simp] theorem State.level_begin (s : State) (f : Form) (j : Nat) : (s.begin f).level j = s.level j := by
  simp [State.level]

/-! ## Branches, counted loops, calls (R202, R249 to R252) -/

section Flow

variable {s : State} {h : Hdr} {two : Bool} {w : Nat}

/-- The place n words from the instruction that begins at s (R202). -/
def State.wordsFrom (s : State) (n : Int) : PcWord := s.sq.pc + BitVec.ofInt 54 n

theorem branchTarget_eq (s : State) (off : BitVec w) : branchTarget s.sq.pc off = s.wordsFrom off.toInt := rfl

/-- A branch that issues goes to its target. -/
theorem State.brTo_jumps (off : BitVec w) (hs : s.Issues (flowForm h two 0 [])) :
    s.brTo h two off = .next (s.retired (flowForm h two 0 [])
      ((s.begin (flowForm h two 0 [])).jump (s.wordsFrom off.toInt))) := by
  rw [State.brTo, State.issue_puts hs, State.pcOf_begin, branchTarget_eq]

/-- `pool` passes over its N words. -/
theorem execPool_jumps (n : BitVec 13) (hs : s.Issues (flowForm h false 7 [])) :
    execPool h n s = .next (s.retired (flowForm h false 7 [])
      ((s.begin (flowForm h false 7 [])).jump (s.wordsFrom (1 + n.toNat)))) := by
  have target : (flowForm h false 7 []).nextPc s.sq.pc + n.setWidth 54 = s.wordsFrom (1 + n.toNat) := by
    rw [State.wordsFrom, BitVec.ofInt_add, BitVec.ofInt_natCast, BitVec.ofNat_toNat, ← BitVec.add_assoc]
    rfl
  rw [execPool, State.issue_puts hs, State.pc_begin, target]

/-- A counted loop counts down to 0 and branches while it has not reached it; at 0 it stays there (R251). -/
theorem State.loopTo_counts (x : XReg) (off : BitVec w) (hs : s.Issues (flowForm h two 3 [x])) :
    s.loopTo h two x off =
      if s.getX x = 0 then .next (s.retired (flowForm h two 3 [x]) (s.begin (flowForm h two 3 [x])))
      else if s.getX x = 1 then
        .next (s.retired (flowForm h two 3 [x]) ((s.begin (flowForm h two 3 [x])).setX x 0))
      else .next (s.retired (flowForm h two 3 [x])
        (((s.begin (flowForm h two 3 [x])).setX x (s.getX x - 1)).jump (s.wordsFrom off.toInt))) := by
  have last : s.getX x - 1 = 0 ↔ s.getX x = 1 := sub_eq_zero
  unfold State.loopTo
  split
  case isTrue zero => exact State.issue_done hs (by simp [zero])
  case isFalse more =>
    split
    case isTrue one => exact State.issue_done hs (by simp [one])
    case isFalse many =>
      refine State.issue_done hs ?_
      simp only [State.getX_begin, if_neg more, if_neg (mt last.mp many), State.pcOf_begin, branchTarget_eq]

/-- `jr` goes to the word at the byte address in xA, which is in reach below 2^56 (R249). -/
theorem execJr_jumps {x : XReg} (hs : s.Issues (flowForm h false 4 [x])) (aligned : (s.getX x).toNat % 4 = 0)
    (inReach : (s.getX x).toNat < 2 ^ 56) :
    execJr h x s = .next (s.retired (flowForm h false 4 [x])
      ((s.begin (flowForm h false 4 [x])).jump (BitVec.ofNat 54 ((s.getX x).toNat / 4)))) := by
  have word : (s.getX x).extractLsb' 2 54 = BitVec.ofNat 54 ((s.getX x).toNat / 4) := by
    rw [BitVec.extractLsb', Nat.shiftRight_eq_div_pow]
  refine State.issue_done hs ?_
  simp only [State.getX_begin, aligned, Nat.div_eq_of_lt inReach, word, ne_eq, not_true_eq_false, if_false]

theorem execJr_page {x : XReg} (hs : s.Issues (flowForm h false 4 [x])) (aligned : (s.getX x).toNat % 4 = 0)
    (beyond : 2 ^ 56 ≤ (s.getX x).toNat) : execJr h x s = .next (s.trapHere .page (pageVal 4 (s.getX x))) := by
  have high : (s.getX x).toNat / 2 ^ 56 ≠ 0 := (Nat.div_pos beyond (by norm_num)).ne'
  rw [execJr, State.issue_trap hs (c := .page) (v := pageVal 4 (s.getX x)), State.countTrap_of_ne (by decide)]
  simp only [State.getX_begin, aligned, high, ne_eq, not_true_eq_false, not_false_eq_true, if_true, if_false]

theorem execJr_misalign {x : XReg} (hs : s.Issues (flowForm h false 4 [x])) (misaligned : (s.getX x).toNat % 4 ≠ 0) :
    execJr h x s = .next (s.trapHere .misalign (s.getX x)) := by
  rw [execJr, State.issue_trap hs (c := .misalign) (v := s.getX x), State.countTrap_of_ne (by decide)]
  simp only [State.getX_begin, misaligned, ne_eq, not_false_eq_true, if_true]

/-- A call pushes the next instruction's address and branches; on a full stack it is ILLEGAL (R249). -/
theorem State.callTo_pushes (off : BitVec w) (hs : s.Issues (flowForm h two 1 [])) :
    s.callTo h two off =
      if 16 ≤ s.sq.rstack.length then .next (s.trapHere .illegal 0)
      else .next (s.retired (flowForm h two 1 []) ((s.begin (flowForm h two 1 [])).setSq
        { (s.begin (flowForm h two 1 [])).sq with
          rstack := (flowForm h two 1 []).nextPc s.sq.pc :: s.sq.rstack, pc := s.wordsFrom off.toInt })) := by
  unfold State.callTo
  split
  case isTrue full =>
    rw [State.issue_trap hs (c := .illegal) (v := 0), State.countTrap_of_ne (by decide)]
    simp [full]
  case isFalse room => exact State.issue_done hs (by simp [room, branchTarget_eq])

/-- `ret` pops the return stack and goes there. -/
theorem execRet_pops {pc : PcWord} {rest : List PcWord} (hs : s.Issues (flowForm h false 5 []))
    (stack : s.sq.rstack = pc :: rest) :
    execRet h s = .next (s.retired (flowForm h false 5 []) ((s.begin (flowForm h false 5 [])).setSq
      { (s.begin (flowForm h false 5 [])).sq with rstack := rest, pc := pc })) :=
  State.issue_done hs (by simp [stack])

/-- With nothing on the stack the sequencer ends (R20). -/
theorem execRet_ends (hs : s.Issues (flowForm h false 5 [])) (stack : s.sq.rstack = []) :
    execRet h s = .next (s.retired (flowForm h false 5 []) ((s.begin (flowForm h false 5 [])).setSq
      { (s.begin (flowForm h false 5 [])).sq with ended := true })) :=
  State.issue_done hs (by simp [stack])

variable {pol : Bool} (off : BitVec w)

/-- `brq` pops the oldest value, and branches on it where its guard is set (R250). -/
theorem State.brqTo_pops {v : Word64} {rest : List Word64}
    (hs : s.Issues { flowForm h two 2 [] with guarded := false })
    (hq : (s.cur.edge s.seq.prev).queue = v :: rest) :
    s.brqTo h two pol off = .next (s.retired { flowForm h two 2 [] with guarded := false }
      (if s.g0 h = true ∧ (v ≠ 0 ↔ pol = true) then
        (s.poppedTo { flowForm h two 2 [] with guarded := false } rest).jump (s.wordsFrom off.toInt)
      else s.poppedTo { flowForm h two 2 [] with guarded := false } rest)) := by
  have taken : (s.g0 h && (v != 0) == pol) = true ↔ s.g0 h = true ∧ (v ≠ 0 ↔ pol = true) := by
    cases pol <;> simp
  refine State.issue_done hs ?_
  simp only [State.inQueue_begin, hq, State.popQueue_begin _ hq, State.g0_begin, State.pcOf_begin, branchTarget_eq, taken]

theorem State.brqTo_waits (hs : s.Issues { flowForm h two 2 [] with guarded := false })
    (hq : (s.cur.edge s.seq.prev).queue = []) : s.brqTo h two pol off = .next s :=
  State.issue_wait hs (by simp [hq])

end Flow

/-- Settles O14: each instruction in its two forms, as the lemmas above say it. -/
theorem controlFlow : Obligations.ControlFlow := by
  refine ⟨fun s h x => ?_, fun s h => ?_, fun s h pol v rest => ⟨fun hq => ?_, fun hq => ?_⟩⟩
  · exact ⟨fun hs => ⟨fun off => State.brTo_jumps off hs,
        State.issue_puts (f := flowForm h false 6 []) (g := id) hs, fun n => execPool_jumps n hs⟩,
      fun hs off => State.brTo_jumps off hs, fun hs off => State.loopTo_counts x off hs,
      fun hs off => State.loopTo_counts x off hs,
      fun hs => ⟨execJr_jumps hs, execJr_page hs, execJr_misalign hs⟩⟩
  · exact ⟨fun hs off => State.callTo_pushes off hs, fun hs off => State.callTo_pushes off hs,
      fun hs => ⟨fun _ _ => execRet_pops hs, execRet_ends hs⟩⟩
  · exact ⟨fun hs off => State.brqTo_pops off hs hq, fun hs off => State.brqTo_pops off hs hq⟩
  · exact ⟨fun hs off => State.brqTo_waits off hs hq, fun hs off => State.brqTo_waits off hs hq⟩

end Sys2Proof.Machine

/-! ## Work ranges (R32, R257, R258) -/

namespace Sys2Proof.Machine

open Sys2Proof

section Work

variable {s : State} {h : Hdr} {x : XReg} {p : PReg} {l : Level} {st : LvlState}

/-- A GRAIN of 0 counts as 1 (R257). -/
theorem grainOf_eq_max (l : Level) : grainOf l = max l.grain 1 := by
  unfold grainOf
  split <;> omega

theorem State.setFlag_true (s : State) (p : PReg) : s.setFlag p true = s.setP p (BitVec.allOnes 256) := rfl

/-- A chunk that holds something goes to xD as its start and its end, and pA is set. -/
theorem State.putChunk_some (s : State) (x : XReg) (p : PReg) {lo hi : Nat} (holds : lo < hi) :
    s.putChunk x p lo hi = (s.setX x (BitVec.ofNat 64 (lo + 2 ^ 32 * hi))).setP p (BitVec.allOnes 256) := by
  rw [State.putChunk, if_pos holds, State.setFlag_true, w64, Nat.mul_comm hi]

theorem State.putChunk_none (s : State) (x : XReg) (p : PReg) : s.putChunk x p 0 0 = (s.setX x 0).setP p 0 := rfl

/-- The body waits for what it names. -/
theorem State.issue_waitOn {f : Form} {b : State → Res} {w : Waiting} (hs : s.Issues f) (hb : b (s.begin f) = .waitOn w) :
    s.issue f b = .next (s.setSq { s.sq with waitsOn := w }) := by
  rw [State.issue, State.issueWith_body hs, hb]
  rfl

section Rnext

variable {j : Nat}

/-! What `rnext` answers on a level, once for each way it can go. -/

theorem State.rnext_of_no_level (absent : s.level j = none) : s.rnext x p j = .done ((s.setX x 0).setP p 0) := by
  rw [State.rnext, absent, State.putChunk_none]

theorem State.rnext_of_yields (present : s.level j ≠ none) (yields : (s.mustYield fun w => w = .range j) = true) :
    s.rnext x p j = .waitOn (.range j) := by
  obtain ⟨⟨l, st⟩, level⟩ := Option.ne_none_iff_exists'.mp present
  rw [State.rnext, level]
  exact if_pos yields

variable (level : s.level j = some (l, st)) (goes : (s.mustYield fun w => w = .range j) = false)
include level goes

/-- With something left, the next GRAIN of it, as far as LIMIT. -/
theorem State.rnext_of_left (left : st.next < st.limit) :
    s.rnext x p j = .done (((s.setCur (s.cur.setLvl j { st with next := min (st.next + max l.grain 1) st.limit })).setX x
      (BitVec.ofNat 64 (st.next + 2 ^ 32 * min (st.next + max l.grain 1) st.limit))).setP p (BitVec.allOnes 256)) := by
  have chunk : st.next < min (st.next + max l.grain 1) st.limit := by omega
  rw [State.rnext, level, ← State.putChunk_some _ x p chunk, ← grainOf_eq_max]
  simp only [goes, left, if_true, Bool.false_eq_true, if_false]

/-- With nothing left, on a level that is not LAZY or has been asked for in vain, zero. -/
theorem State.rnext_of_finished (spent : st.limit ≤ st.next) (finished : l.lazy = false ∨ st.finished = true) :
    s.rnext x p j = .done ((s.setX x 0).setP p 0) := by
  have last : (!l.lazy || st.finished) = true := by simpa using finished
  rw [State.rnext, level, ← State.putChunk_none]
  simp only [goes, not_lt.mpr spent, last, if_true, Bool.false_eq_true, if_false]

end Rnext

section ReadLevel

variable {j : BitVec 3} {sub : Nat} {read : Level → LvlState → Nat}

/-- A field of a level reads as it stands. -/
theorem State.readLevel_reads (hs : s.Issues (scalar h false 0x0A sub [x] [])) (level : s.level j.toNat = some (l, st)) :
    s.readLevel h sub x j read = .next (s.retired (scalar h false 0x0A sub [x] [])
      ((s.begin (scalar h false 0x0A sub [x] [])).setX x (BitVec.ofNat 64 (read l st)))) :=
  State.issue_done hs (by simp [level, w64])

/-- A level at or above NLVL reads 0. -/
theorem State.readLevel_zero (hs : s.Issues (scalar h false 0x0A sub [x] [])) (absent : s.level j.toNat = none) :
    s.readLevel h sub x j read = .next (s.retired (scalar h false 0x0A sub [x] [])
      ((s.begin (scalar h false 0x0A sub [x] [])).setX x (BitVec.ofNat 64 0))) :=
  State.issue_done hs (by simp [absent])

end ReadLevel

end Work

/-- Settles O16: `rnext` issues with the answer of State.rnext, `lvl` with that of State.readLevel. -/
theorem workRanges : Obligations.WorkRanges := by
  intro s h x p j f yields
  have rnext : exec (.rnext h x p j) s = s.issue f fun t => t.rnext x p j.toNat := rfl
  rw [rnext]
  refine ⟨fun hs => ⟨fun present must => ?_, fun l st level goes left => ?_, fun ends => ?_⟩,
    fun hs => ⟨fun l st level => ?_, fun absent => ?_⟩⟩
  · exact State.issue_waitOn hs (State.rnext_of_yields (by simpa using present) must)
  · exact State.issue_done hs (State.rnext_of_left (by simpa using level) goes left)
  · refine State.issue_done hs ?_
    rcases ends with absent | ⟨l, st, level, goes, spent, finished⟩
    · exact State.rnext_of_no_level (by simpa using absent)
    · exact State.rnext_of_finished (by simpa using level) goes spent finished
  · exact ⟨State.readLevel_reads hs level, State.readLevel_reads hs level, State.readLevel_reads hs level,
      State.readLevel_reads hs level⟩
  · exact ⟨State.readLevel_zero hs absent, State.readLevel_zero hs absent, State.readLevel_zero hs absent,
      State.readLevel_zero hs absent⟩

end Sys2Proof.Machine

/-! ## Results of tile-row elements (R297 to R299) -/

namespace Sys2Proof

theorem ElemTy.bits_pos (et : ElemTy) : 0 < et.bits := by
  cases et <;> decide

end Sys2Proof

namespace Sys2Proof.Machine

open Sys2Proof

/-- The powers of 2 of a byte's set bits sum to the byte. -/
theorem sum_two_pow_eq_ofBits (bit : Nat → Bool) :
    ((List.range 8).map fun i => if bit i then 2 ^ i else 0).foldl (· + ·) 0 = Nat.ofBits fun i : Fin 8 => bit i := by
  have digit (i : Nat) : (if bit i then 2 ^ i else 0) = 2 ^ i * (bit i).toNat := by cases bit i <;> simp
  simp only [digit, List.range_eq_range', List.range'_succ, List.range'_zero, List.map_cons, List.map_nil,
    List.foldl_cons, List.foldl_nil, Nat.ofBits_succ, Nat.ofBits_zero, Function.comp_apply, Fin.val_succ, Fin.val_zero]
  omega

/-- Bit i of the result is the table's entry at the inputs' bits i (R297). -/
theorem lop3_eq_ofBits (table : BitVec 8) (a b c : Nat) : lop3 table a b c = Nat.ofBits fun i : Fin 8 =>
    table.getLsbD (4 * (c.testBit i).toNat + 2 * (a.testBit i).toNat + (b.testBit i).toNat) := by
  simp only [lop3, sum_two_pow_eq_ofBits, natBits, pow_one, Nat.toNat_testBit]

section Shifts

variable (et : ElemTy) (x y z : Nat)

theorem shlElem_eq : shlElem et x y = if y < et.bits then x * 2 ^ y % 2 ^ et.bits else 0 := by
  simp only [shlElem, ← not_lt, ite_not]

theorem shrElem_eq : shrElem et x y = if y < et.bits then x / 2 ^ y else 0 := by
  simp only [shrElem, ← not_lt, ite_not]

/-- The pattern x below the pattern z, shifted left: what leaves x at the top enters z at the bottom (R299). -/
theorem funnelL_eq : funnelL et x y z = (z * 2 ^ et.bits + x) * 2 ^ (y % et.bits) / 2 ^ et.bits % 2 ^ et.bits := by
  rw [funnelL, Nat.add_mul, Nat.mul_right_comm, Nat.mul_comm _ (2 ^ et.bits), Nat.mul_add_div (by positivity)]

/-- The pattern z below the pattern x, shifted right. -/
theorem funnelR_eq : funnelR et x y z = (x * 2 ^ et.bits + z) / 2 ^ (y % et.bits) % 2 ^ et.bits := by
  have amount : y % et.bits ≤ et.bits := (Nat.mod_lt y et.bits_pos).le
  have factor : x * 2 ^ et.bits = 2 ^ (y % et.bits) * (x * 2 ^ (et.bits - y % et.bits)) := by
    rw [Nat.mul_left_comm, ← pow_add, Nat.add_sub_cancel' amount]
  rw [funnelR, factor, Nat.mul_add_div (by positivity), Nat.add_comm]

variable {n : Nat} {x}

/-- The signed number of an n-bit pattern, by its upper bit. -/
theorem bmod_two_pow_eq (hn : 0 < n) (hx : x < 2 ^ n) :
    Int.bmod x (2 ^ n) = if 2 ^ (n - 1) ≤ x then (x - 2 ^ n : Int) else x := by
  have double : 2 ^ n = 2 * 2 ^ (n - 1) := by rw [← pow_succ', Nat.sub_add_cancel hn]
  have low : (x : Int) % (2 ^ n : Nat) = x := Int.emod_eq_of_lt (by omega) (by omega)
  have cast : (2 : Int) ^ n = (2 ^ n : Nat) := by norm_cast
  rw [Int.bmod_def, low, cast]
  split <;> split <;> omega

/-- A signed n-bit number shifted right by n places leaves its sign. -/
theorem bmod_two_pow_ediv (hn : 0 < n) (hx : x < 2 ^ n) :
    Int.bmod x (2 ^ n) / 2 ^ n = if 2 ^ (n - 1) ≤ x then -1 else 0 := by
  have below : (x : Int) < 2 ^ n := by exact_mod_cast hx
  have fraction : (x : Int) / 2 ^ n = 0 := Int.ediv_eq_zero_of_lt x.cast_nonneg below
  rw [bmod_two_pow_eq hn hx]
  split
  · rw [Int.sub_ediv_of_dvd _ dvd_rfl, fraction, Int.ediv_self (by positivity), zero_sub]
  · exact fraction

/-- A shift by the element's width or more fills it with its sign (R298). -/
theorem sraElem_eq (hx : x < 2 ^ et.bits) :
    sraElem et x y = et.ofInt (Int.bmod x (2 ^ et.bits) / 2 ^ min y et.bits) := by
  simp only [sraElem, decide_eq_true_eq]
  split
  case isTrue large => rw [min_eq_right large, bmod_two_pow_ediv et.bits_pos hx]
  case isFalse small => rw [min_eq_left (not_le.mp small).le, bmod_two_pow_eq et.bits_pos hx]

end Shifts

/-! ## Comparison, selection, logic, shifts and moves of tile rows (R295 to R300) -/

/-- Two subcodes that Table 3 permits alike give one form of a tile-row instruction (R206). -/
theorem State.elemForm_congr {maj sub maj' sub' : Nat} (hm : permitted maj sub = permitted maj' sub') (s : State) (h : Hdr)
    (w : Nat) (d : TileOp) (srcs : List TileOp) (ps : List PReg) (old : Bool) :
    s.elemForm h maj sub w d srcs ps old = s.elemForm h maj' sub' w d srcs ps old := by
  rw [State.elemForm, State.elemForm, tileForm, tileForm, hm]

/-- Element e of r over the elements of two sources and the old destination. -/
def State.combined (t : State) (w : Nat) (d a b : TileOp) (r : Nat → Nat → Nat → Nat) (e : Nat) : Nat :=
  r (elem (t.readOp a w) w e) (elem (t.readOp b w) w e) (elem (t.readOp d w) w e)

/-- Element e of a row moved from the places of the source a that `place` finds in b, 0 where one lies outside (R300). -/
def State.moved (t : State) (w : Nat) (a b : TileOp) (place : (Nat → Nat) → Nat → Nat) (e : Nat) : Nat :=
  if place (elem (t.readOp b w) w) e < 256 / w then elem (t.readOp a w) w (place (elem (t.readOp b w) w) e) else 0

/-- The instruction i of form f, where it issues in s, writes r of e to each guarded element e of d, with no event; r is
read in the state in which the instruction begins. -/
def WritesElems (s : State) (h : Hdr) (w : Nat) (d : TileOp) (f : Form) (i : Instr) (r : State → Nat → Nat) : Prop :=
  s.Issues f → exec i s = .next (s.retired f ((s.begin f).putElems h w d fun e => (r (s.begin f) e, 0)))

section Rows

variable {s : State} {h : Hdr} {et : ElemTy} {d a b : TileOp} {maj sub w : Nat} {i : Instr} {old : Bool}

theorem writesElems {f : Form} {r : State → Nat → Nat}
    (hi : exec i s = s.issue f fun t => .done (t.putElems h w d fun e => (r t e, 0))) : WritesElems s h w d f i r := by
  intro hs
  rw [hi, State.issue_puts (g := fun t => t.putElems h w d fun e => (r t e, 0)) hs]

/-- An operation g on the elements of two sources and the old destination, stated by the result r that g equals. -/
theorem writesElems_vec3 {g r : Nat → Nat → Nat → Nat}
    (hi : exec i s = s.vec3 maj sub h w d a b old fun x y z => (g x y z, 0))
    (hm : permitted maj sub = permitted 0x18 0) (hr : ∀ x y z, g x y z = r x y z) :
    WritesElems s h w d (s.elemForm h 0x18 0 w d [a, b] [] old) i fun t => t.combined w d a b r := by
  obtain rfl : g = r := funext₃ hr
  rw [State.vec3, State.elemForm_congr hm] at hi
  exact writesElems hi

/-- A move from the places idx of the source, stated by `place`, which names the same. -/
theorem writesElems_vecMove {idx : Row → Nat → Nat} {place : (Nat → Nat) → Nat → Nat}
    (hi : exec i s = s.vecMove maj sub h et d a b idx) (hm : permitted maj sub = permitted 0x18 0)
    (hp : ∀ row e, idx row e = place (elem row et.bytes) e) :
    WritesElems s h et.bytes d (s.elemForm h 0x18 0 et.bytes d [a, b] [] false) i fun t => t.moved et.bytes a b place := by
  rw [State.vecMove, State.elemForm_congr hm] at hi
  refine writesElems (hi.trans ?_)
  simp only [State.moved, hp, ← not_lt, ite_not]

/-- `vcmp` writes the condition of each guarded element and its complement, and meets the events of all of them. -/
theorem execVcmp_puts (c : FCond) (p : PReg) (hs : s.Issues (tileForm h 0x17 0 [] [a, b] [p, p ^^^ 1])) :
    let t := s.begin (tileForm h 0x17 0 [] [a, b] [p, p ^^^ 1])
    let r (e : Nat) := elemCond et c (elem (t.readOp a et.bytes) et.bytes e) (elem (t.readOp b et.bytes) et.bytes e)
    execVcmp h c et p a b s = .next (s.retired (tileForm h 0x17 0 [] [a, b] [p, p ^^^ 1])
      ((t.putPair p (s.guard h) et.bytes fun e => (r e).1).scalarEv
        (((List.range (256 / et.bytes)).filter fun e => (s.guard h).getLsbD (et.bytes * e)).foldl
          (fun m e => m ||| (r e).2) 0))) := by
  refine State.issue_done hs ?_
  simp only [State.guard_begin]
  rfl

end Rows

/-- Settles O28: `vec3` and `vecMove` of the results the lemmas above name; `vmov`, `vsel` and `vcmp` issue each with its
own form. -/
theorem tileRowLogicShiftsMoves : Obligations.TileRowLogicShiftsMoves := by
  intro s h et d a b w n count two moved
  have writes {i : Instr} {old : Bool} {r : Nat → Nat → Nat → Nat}
      (hw : WritesElems s h w d (s.elemForm h 0x18 0 w d [a, b] [] old) i fun t => t.combined w d a b r) :
      two i old r := hw
  have moves {i : Instr} {place : (Nat → Nat) → Nat → Nat}
      (hw : WritesElems s h w d (s.elemForm h 0x18 0 w d [a, b] [] false) i fun t => t.moved w a b place) :
      moved i place := hw
  -- From here on `two` and `moved` are opaque, so each use of `writes` and `moves` unifies by its arguments alone.
  clear_value two moved
  refine ⟨writes (writesElems_vec3 exec_vand rfl fun _ _ _ => rfl),
    writes (writesElems_vec3 exec_vor rfl fun _ _ _ => rfl),
    writes (writesElems_vec3 exec_vxor rfl fun _ _ _ => rfl),
    writes (writesElems_vec3 exec_vshl rfl fun x y _ => shlElem_eq et x y),
    writes (writesElems_vec3 exec_vshr rfl fun x y _ => shrElem_eq et x y),
    ⟨fun x y _ => sraElem et x y, writes (writesElems_vec3 exec_vsra rfl fun _ _ _ => rfl),
      fun x y _ hx => sraElem_eq et y hx⟩,
    writes (writesElems_vec3 exec_vfunl rfl (funnelL_eq et)),
    writes (writesElems_vec3 exec_vfunr rfl (funnelR_eq et)),
    moves (writesElems_vecMove exec_vrot rfl fun _ _ => rfl),
    moves (writesElems_vecMove exec_vperm rfl fun _ _ => rfl),
    moves (writesElems_vecMove exec_vbcast rfl fun _ _ => rfl),
    writesElems (r := fun t => elem (t.readOp a w) w) exec_vmov, fun p => ?vsel, fun table => ?vlop3,
    fun c p => execVcmp_puts c p⟩
  case vsel =>
    intro f hs
    rw [← State.getP_begin s f]
    exact writesElems (r := fun t e => if guardBit (t.getP (p.setWidth 4)) w e then elem (t.readOp a w) w e
      else elem (t.readOp b w) w e) exec_vsel hs
  case vlop3 =>
    intro f hs
    have lop : WritesElems s h 1 d f (.vlop3 h table d a b) fun t => t.combined 1 d a b (lop3 table) :=
      writesElems_vec3 exec_vlop3 rfl fun _ _ _ => rfl
    refine ⟨lop3 table, lop hs, fun x y z => ?_⟩
    rw [lop3_eq_ofBits]
    exact ⟨Nat.ofBits_lt_two_pow _, fun i hi => Nat.testBit_ofBits_lt _ i hi⟩

end Sys2Proof.Machine
